-- ==== Sys2Proof/Word.lean ====
section
/-! DEFINITION. The words of the HX7: bytes, halves, 32-bit words, 64-bit doubles, and the plain
association lists that hold registers and memory. -/

namespace Sys2Proof

abbrev Byte := BitVec 8
abbrev Half := BitVec 16
abbrev Word := BitVec 32
abbrev DWord := BitVec 64

/-- Numbered cells of one width, sorted by number, none equal to zero: a cell that is not listed holds
zero. Memory is `Cells 8`, which is a list of address and byte pairs. -/
abbrev Cells (w : Nat) := List (Nat × BitVec w)

/-- Objects under a number, sorted by number. -/
abbrev Table (α : Type) := List (Nat × α)

end Sys2Proof
end

