-- ==== Sys2Proof/Config.lean ====
section
/-! DEFINITION. What an implementation fixes and the spec leaves open: constants with no body. No proof
can see their values. -/

namespace Sys2Proof.Config

/-- A free value: the n-th value the spec leaves open (log 3). -/
opaque freeValue : Nat → BitVec 64

/-- A byte of a save record, by the record's number and its address: the layout within a record is not architectural (R243,
log 59). -/
opaque recordByte : Nat → Nat → BitVec 8

/-- A free latency in cycles where the spec gives no figure (R227, R238, R243, R331; log 3). -/
opaque freeCycles : Nat → Nat

/-- DEVID: part and revision identity (Table 20.5, "Device"; log 3). -/
opaque devId : BitVec 64

/-- The root public key, x and then y, whose SM3 digest is fused into the part (R332; log 4). -/
opaque rootKey : BitVec 512

/-- The fused secret from which the device identity key is derived (R336; log 4). -/
opaque identitySecret : Nat

/-- The nonce of a signature by the device identity key, by the digest that is signed (R336; log 4). -/
opaque identityNonce : Nat → Nat

/-- The row of every bank that training writes and reads back; the spec names none (R334; log 144). -/
opaque trainingRow : Nat

/-- Entry address of a signal-box image: the spec gives no place for it (R333; log 54). -/
opaque boxEntry : List (BitVec 8) → BitVec 16

/-- Junction port through which flits for another package of a region leave; the spec gives no topology (log 50). -/
opaque route : Nat → Nat

/-- Cycles that R227 gives for this part: perform, load result, AMO result, array arrival. -/
def performCycles : Nat := 20
def loadResultCycles : Nat := 20
def amoResultCycles : Nat := 24
def arrivalCycles : Nat := 256

/-- A hold lasts 8,192 cycles (R280). -/
def holdCycles : Nat := 8192

/-- A missing window or an unsent bucket is a fault after 2^20 cycles (R205, R315). -/
def windowLimit : Nat := 1048576

end Sys2Proof.Config
end

