-- ==== Sys2Proof/Syntax.lean ====
section
/-! DEFINITION. Every step of the part as one inductive: the driver instructions, the micro-orders of the
four engines, and the events that have no encoding. Operands are the fields of the encodings as they
stand in the word; an event carries what it acts on. -/

namespace Sys2Proof

/-- The four engines, numbered as TSTART numbers them (Table 4.4). -/
inductive Eng where
  | load | matrix | vector | store
  deriving DecidableEq, Repr

/-- A rotation tag: RT, AXIS, FLV, SEED (R46). -/
structure Tag where
  rt : Bool
  axis : Bool
  flv : Bool
  seed : BitVec 4
  deriving DecidableEq, Repr

/-- The untagged tag. -/
def Tag.none : Tag := ⟨false, false, false, 0⟩

/-- Fields of an address generator (Table 1.3). -/
structure Agen where
  base : BitVec 20
  stride0 : BitVec 20
  stride1 : BitVec 20
  count0 : BitVec 16
  count1 : BitVec 16
  cursor : BitVec 32
  deriving DecidableEq, Repr

/-- What a driver write that an engine sees does when it takes effect (R15, R108). -/
inductive DriverWrite where
  /-- WBPUSH (R113) -/
  | waybill (w : Word)
  /-- PQPUSH (R113) -/
  | param (w : Word)
  /-- LPSET (R112) -/
  | loopCounter (e : Eng) (lc : Nat) (v : BitVec 16)
  /-- AGSET (R112) -/
  | agen (e : Eng) (ag : Nat) (v : Agen)
  /-- RCFG with its packed operand (R114) -/
  | ringConfig (r : Nat) (v : DWord)
  /-- RRESET (R114) -/
  | ringReset (r : Nat)
  /-- SSSET (R114) -/
  | seed (n : Nat) (v : Word)
  /-- TSTART: the start cycle, or the offset from the coming departure in free mode (R110) -/
  | tstart (e : Eng) (free : Bool) (start : Nat)
  /-- TSTOP (R110) -/
  | tstop (e : Eng)
  /-- TBASE (R110) -/
  | tbase (e : Eng) (v : BitVec 10)
  /-- TLOAD: words of a bank, and whether the active bank flips (R111) -/
  | table (e : Eng) (bank : Bool) (words : List Word) (flip : Bool)
  /-- CSR value that an engine reads (R27) -/
  | csr (addr : BitVec 12) (v : DWord)
  /-- bits of a signal-box register set or cleared (R324) -/
  | csrBits (addr : BitVec 12) (set : Bool) (mask : DWord)
  deriving DecidableEq, Repr

/-- Where the bytes of a read beat go (R176, R179, R180, R184, R340). -/
inductive BeatDest where
  /-- beat `b` of the feed of matrix job `job` -/
  | feed (job b : Nat)
  /-- LDRING: the beat is written at `addr`, `h` cycles on, into ring `r` as it was configured the `gen`-th time -/
  | ring (r gen addr h : Nat)
  /-- LDQ: row of the entry that load job `job` builds, reaching the station after `h` -/
  | row (job row h : Nat)
  /-- SUPD: read beat `r` of store job `job`, reaching S7 after `h`; no bytes: the check that all have (R184) -/
  | update (job r h : Nat)
  deriving DecidableEq, Repr

/-- What follows the write of a beat. -/
inductive BeatDone where
  /-- no lane beat: a write of the row engine or the leased-engine port -/
  | nothing
  /-- a beat of a store order -/
  | lane
  /-- a beat of the slot that ring `r` is filling (R179, R181) -/
  | fill (r gen : Nat)
  /-- a beat of the slot that MDRAIN job `job` writes (R148) -/
  | drain (job : Nat)
  deriving DecidableEq, Repr

/-- Bytes with the words among them that are poisoned, numbered from the first byte's word (R276). -/
structure Payload where
  bytes : List Byte
  poison : List Nat
  deriving DecidableEq, Repr

/-- One entry of a vector queue: 16 rows of 64 words, as words 64r + c, and its poisoned words. -/
structure Entry where
  words : Cells 32
  poison : Cells 1
  deriving DecidableEq, Repr

/-- Where a vector order's result goes (R155). -/
inductive VDest where
  | reg (r : Nat)
  | mask (m : Nat)
  /-- an outbound queue, from the order at table word `site` -/
  | queue (q site : Nat)
  /-- VNF alone: set, or cleared by VFLAG (R172) -/
  | flag
  /-- no write: the rotation-tag fault of the VDQNT at table word `site` (R163) -/
  | tagFault (site : Nat)
  deriving DecidableEq, Repr

/-- A vector result: the elements written, in element order, those poisoned, and whether VNF is set. -/
structure VResult where
  dest : VDest
  elems : List (Nat × Word)
  poison : List Nat
  vnf : Bool
  deriving DecidableEq, Repr

/-- A whole-tile or slot write of a matrix order, with what performs with it (R136, R142, R148, R151). `order` is the
issue cycle of the order that writes, which tells it from every other order of the engine (R278). -/
inductive TileWrite where
  /-- the words of a tile in row-major order and the poisoned ones -/
  | tile (t : Nat) (words : List Word) (poison : List Nat) (order : Nat)
  /-- MAFF: alpha is a signed power of two or zero (R145) -/
  | affine (t : Nat) (neg : Bool) (scale : Option Int) (beta : Word) (bad : Bool) (order : Nat)
  /-- MFILL: the values of job `job` go into tile `t`, added when `acc` (R147) -/
  | fill (job t : Nat) (acc : Bool)
  /-- MLDS: the tile of job `job` goes into slot `s` (R141) -/
  | slot (job s : Nat)
  /-- MPROM: the promoted slot that stands ready in job `job` (R142) -/
  | promoted (job s : Nat)
  /-- MSTAT.OVF and MSTAT.SAT set -/
  | flags (ovf sat : Bool)
  /-- growth byte of tile `t` (R19) -/
  | growth (t : Nat) (v : Byte)
  /-- sub-step `sub` of iteration `iter` of MITER job `job` begins; sub 0 is the recipe's start (R150) -/
  | step (job iter sub : Nat)
  /-- MITER's end (R151) -/
  | iterEnd (iter : BitVec 12) (substep : BitVec 4) (tile : BitVec 6)
  deriving DecidableEq, Repr

/-- A flit: its header (Table 20.1), its payload, and whether FEC could not correct it (R303). -/
structure Flit where
  group : BitVec 16
  bseq : BitVec 8
  kind : BitVec 4
  zero : BitVec 4
  off : BitVec 32
  payload : List Byte
  bad : Bool
  deriving DecidableEq, Repr

/-- A host message (Table 20.6). -/
structure Message where
  type : BitVec 8
  index : BitVec 24
  verdict : BitVec 8
  payload : DWord
  deriving DecidableEq, Repr

/-- The steps of the part: one constructor for each row of the opcode table. A step acts for one subject, which
the state selects (State.cur): the core of a driver instruction, a micro-order or an event of a core, else
the timetable, copy, pseudo-channel, die, pair, port, bucket or store that an event is about. Constructors
without operands stand last. -/
inductive Instr where
  -- driver: integer
  | add (d a b : BitVec 5)
  | sub (d a b : BitVec 5)
  | and (d a b : BitVec 5)
  | or (d a b : BitVec 5)
  | xor (d a b : BitVec 5)
  | andn (d a b : BitVec 5)
  | shl (d a b : BitVec 5)
  | shr (d a b : BitVec 5)
  | sra (d a b : BitVec 5)
  | mul (d a b : BitVec 5)
  | mulh (d a b : BitVec 5)
  | mulhu (d a b : BitVec 5)
  | min (d a b : BitVec 5)
  | max (d a b : BitVec 5)
  | minu (d a b : BitVec 5)
  | maxu (d a b : BitVec 5)
  | clz (d a : BitVec 5)
  | popc (d a : BitVec 5)
  | sext (d a w : BitVec 5)
  | zext (d a w : BitVec 5)
  | addi (d a : BitVec 5) (i : BitVec 16)
  | andi (d a : BitVec 5) (i : BitVec 16)
  | ori (d a : BitVec 5) (i : BitVec 16)
  | xori (d a : BitVec 5) (i : BitVec 16)
  | shli (d a : BitVec 5) (n : BitVec 6)
  | shri (d a : BitVec 5) (n : BitVec 6)
  | srai (d a : BitVec 5) (n : BitVec 6)
  | lih (d : BitVec 5) (i : BitVec 16)
  | movk (d : BitVec 5) (h : BitVec 2) (i : BitVec 16)
  | cmp (p c : BitVec 3) (a b : BitVec 5)
  | cmpi (p c : BitVec 3) (a : BitVec 5) (i : BitVec 15)
  | plog (d a b : BitVec 3) (l : BitVec 2) (n : BitVec 1)
  | sel (d a b : BitVec 5) (p : BitVec 3)
  | br (p : BitVec 3) (n : BitVec 1) (o : BitVec 22)
  | call (o : BitVec 22)
  | jr (a : BitVec 5)
  | jalr (a : BitVec 5)
  | dbnz (d : BitVec 5) (i : BitVec 16)
  -- driver: memory, ordering, index registers, clock
  | lds (d a : BitVec 5) (z : BitVec 2) (o : BitVec 14)
  | sts (d a : BitVec 5) (z : BitVec 2) (o : BitVec 14)
  | ldg (d a : BitVec 5) (z : BitVec 2) (o : BitVec 14)
  | stg (d a : BitVec 5) (z : BitVec 2) (o : BitVec 14)
  | amo (d a b : BitVec 5) (o : BitVec 3) (z : BitVec 1) (m : BitVec 5)
  | fence (m : BitVec 5)
  | xfence (m : BitVec 5)
  | ximov (a e : BitVec 5)
  | xild (a c e : BitVec 5)
  | xird (b e : BitVec 5)
  | stcr (e : BitVec 5)
  | waits (a : BitVec 5)
  | depr (a e : BitVec 5)
  -- driver: engines, queues, rings
  | tstart (a c : BitVec 5)
  | tstop (c : BitVec 5)
  | tbase (a c : BitVec 5)
  | tload (a b c : BitVec 5)
  | lpset (a c e : BitVec 5)
  | agset (a c e : BitVec 5)
  | wbpush (a : BitVec 5)
  | pqpush (a : BitVec 5)
  | rcfg (a c : BitVec 5)
  | rreset (c : BitVec 5)
  | ssset (a c : BitVec 5)
  -- driver: transfers, collectives, leases
  | xshape (a e : BitVec 5)
  | xcopy (a b : BitVec 5) (t : BitVec 1)
  | xgather (a b c : BitVec 5) (t : BitVec 1)
  | xscatter (a b c : BitVec 5) (t : BitVec 1)
  | xpin (a b c : BitVec 5) (w s : BitVec 1)
  | xunpin (c : BitVec 5) (s : BitVec 1)
  | coll (a b : BitVec 5)
  | lease (a : BitVec 5)
  | release (a : BitVec 5)
  | lquery (a e : BitVec 5)
  | ilmask (a b e : BitVec 5)
  | ilsamp (a b e : BitVec 5)
  | iladv (a b e : BitVec 5)
  | ilload (a b e : BitVec 5)
  | ilsave (a b e : BitVec 5)
  | srtopk (a b e : BitVec 5)
  | srsort (a b e : BitVec 5)
  | infblk (a b e : BitVec 5)
  | shgath (a b e : BitVec 5)
  | shscat (a b e : BitVec 5)
  | shpack (a b e : BitVec 5)
  | rwmax (a b : BitVec 5)
  | rwexs (a b : BitVec 5)
  | rwscl (a b : BitVec 5)
  | rwnorm (a b : BitVec 5)
  -- driver: points, jobs, system
  | trap (n : BitVec 5)
  | csrrd (g : BitVec 5) (c : BitVec 12)
  | csrwr (g : BitVec 5) (c : BitVec 12)
  | csrset (g : BitVec 5) (c : BitVec 12)
  | csrclr (g : BitVec 5) (c : BitVec 12)
  | tlbinv (a b : BitVec 5)
  -- common micro-orders
  | idle (y : BitVec 4) (n : BitVec 20)
  | eloop (y : BitVec 4) (l : BitVec 2) (n : BitVec 10)
  | tkpush (y : BitVec 4) (k : BitVec 2) (i : BitVec 3)
  | notify (y : BitVec 4) (k : BitVec 2)
  -- matrix micro-orders
  | mlds (y : BitVec 4) (k : BitVec 1) (r : BitVec 4) (t : BitVec 2) (e : BitVec 1)
  | mprom (y : BitVec 4) (k : BitVec 1) (a : BitVec 6) (t : BitVec 2)
  | mmul (y : BitVec 4) (k : BitVec 1) (d : BitVec 6) (r : BitVec 4) (t : BitVec 2)
  | mmula (y : BitVec 4) (k : BitVec 1) (d a : BitVec 6) (t : BitVec 2)
  | maff (y : BitVec 4) (k : BitVec 1) (d e : BitVec 6)
  | mzero (y : BitVec 4) (k : BitVec 1) (d : BitVec 6)
  | mcopy (y : BitVec 4) (k : BitVec 1) (d a : BitVec 6)
  | miter (y : BitVec 4) (k : BitVec 1) (d a : BitVec 6) (t r : BitVec 2)
  | mdrainQueue (y : BitVec 4) (k : BitVec 1) (d : BitVec 6) (q : BitVec 2)
  | mdrainRing (y : BitVec 4) (k : BitVec 1) (d : BitVec 6) (r : BitVec 4)
  | mfill (y : BitVec 4) (k : BitVec 1) (d : BitVec 6) (r : BitVec 4) (c : BitVec 1)
  | mmark (y : BitVec 4) (k : BitVec 1) (d : BitVec 6)
  -- vector micro-orders
  | vadd (y : BitVec 4) (k : BitVec 1) (d a b : BitVec 5) (p : BitVec 3) (m : BitVec 2)
  | vsub (y : BitVec 4) (k : BitVec 1) (d a b : BitVec 5) (p : BitVec 3) (m : BitVec 2)
  | vmul (y : BitVec 4) (k : BitVec 1) (d a b : BitVec 5) (p : BitVec 3) (m : BitVec 2)
  | vmulz (y : BitVec 4) (k : BitVec 1) (d a b : BitVec 5) (p : BitVec 3) (m : BitVec 2)
  | vfma (y : BitVec 4) (k : BitVec 1) (d a b : BitVec 5) (p : BitVec 3) (m : BitVec 2)
  | vfms (y : BitVec 4) (k : BitVec 1) (d a b : BitVec 5) (p : BitVec 3) (m : BitVec 2)
  | vmin (y : BitVec 4) (k : BitVec 1) (d a b : BitVec 5) (p : BitVec 3) (m : BitVec 2)
  | vmax (y : BitVec 4) (k : BitVec 1) (d a b : BitVec 5) (p : BitVec 3) (m : BitVec 2)
  | vexp2 (y : BitVec 4) (k : BitVec 1) (d a : BitVec 5) (p : BitVec 3) (m : BitVec 1)
  | vlog2 (y : BitVec 4) (k : BitVec 1) (d a : BitVec 5) (p : BitVec 3) (m : BitVec 1)
  | vrcp (y : BitVec 4) (k : BitVec 1) (d a : BitVec 5) (p : BitVec 3) (m : BitVec 1)
  | vrsq (y : BitVec 4) (k : BitVec 1) (d a : BitVec 5) (p : BitVec 3) (m : BitVec 1)
  | vtanh (y : BitVec 4) (k : BitVec 1) (d a : BitVec 5) (p : BitVec 3) (m : BitVec 1)
  | vscl (y : BitVec 4) (k : BitVec 1) (d a : BitVec 5) (i : BitVec 10)
  | vabs (y : BitVec 4) (k : BitVec 1) (d a : BitVec 5) (p : BitVec 3) (m : BitVec 1)
  | viadd (y : BitVec 4) (k : BitVec 1) (d a b : BitVec 5) (p : BitVec 3) (m : BitVec 2)
  | visub (y : BitVec 4) (k : BitVec 1) (d a b : BitVec 5) (p : BitVec 3) (m : BitVec 2)
  | vimul (y : BitVec 4) (k : BitVec 1) (d a b : BitVec 5) (p : BitVec 3) (m : BitVec 2)
  | vand (y : BitVec 4) (k : BitVec 1) (d a b : BitVec 5) (p : BitVec 3) (m : BitVec 2)
  | vor (y : BitVec 4) (k : BitVec 1) (d a b : BitVec 5) (p : BitVec 3) (m : BitVec 2)
  | vxor (y : BitVec 4) (k : BitVec 1) (d a b : BitVec 5) (p : BitVec 3) (m : BitVec 2)
  | vshl (y : BitVec 4) (k : BitVec 1) (d a b : BitVec 5) (p : BitVec 3) (m : BitVec 2)
  | vshr (y : BitVec 4) (k : BitVec 1) (d a b : BitVec 5) (p : BitVec 3) (m : BitVec 2)
  | vsra (y : BitVec 4) (k : BitVec 1) (d a b : BitVec 5) (p : BitVec 3) (m : BitVec 2)
  | vimin (y : BitVec 4) (k : BitVec 1) (d a b : BitVec 5) (p : BitVec 3) (m : BitVec 2)
  | vimax (y : BitVec 4) (k : BitVec 1) (d a b : BitVec 5) (p : BitVec 3) (m : BitVec 2)
  | vcmp (y : BitVec 4) (k : BitVec 1) (c : BitVec 3) (a b : BitVec 5) (p : BitVec 3) (m : BitVec 2)
  | vsel (y : BitVec 4) (k : BitVec 1) (d a b : BitVec 5) (p : BitVec 3) (m : BitVec 2)
  | vmlog (y : BitVec 4) (k : BitVec 1) (d : BitVec 3) (a b : BitVec 5) (l : BitVec 2)
  | vcvt (y : BitVec 4) (k : BitVec 1) (d a : BitVec 5) (f : BitVec 3) (r : BitVec 2)
  | vqnt (y : BitVec 4) (k : BitVec 1) (d a : BitVec 5) (q : BitVec 4) (f : BitVec 3) (v : BitVec 1) (r : BitVec 2)
  | vdqnt (y : BitVec 4) (k : BitVec 1) (d a : BitVec 5) (q : BitVec 4) (f : BitVec 3) (v : BitVec 1)
  | vhad (y : BitVec 4) (k : BitVec 1) (d a : BitVec 5) (q : BitVec 4) (f : BitVec 3) (v : BitVec 1)
  | vrotr (y : BitVec 4) (k : BitVec 1) (d a : BitVec 5) (i : BitVec 10)
  | vrotc (y : BitVec 4) (k : BitVec 1) (d a : BitVec 5) (i : BitVec 10)
  | vbcr (y : BitVec 4) (k : BitVec 1) (d a : BitVec 5) (i : BitVec 10)
  | vbcc (y : BitVec 4) (k : BitVec 1) (d a : BitVec 5) (i : BitVec 10)
  | vredr (y : BitVec 4) (k : BitVec 1) (d a : BitVec 5) (o : BitVec 2)
  | vredc (y : BitVec 4) (k : BitVec 1) (d a : BitVec 5) (o : BitVec 2)
  | vmov (y : BitVec 4) (k : BitVec 1) (d a : BitVec 5) (p : BitVec 3) (m : BitVec 1)
  | vldi (y : BitVec 4) (k : BitVec 1) (d : BitVec 5) (i : BitVec 10)
  | viota (y : BitVec 4) (k : BitVec 1) (d : BitVec 5) (i : BitVec 10)
  | vloopb (y : BitVec 4) (k : BitVec 1) (n : BitVec 5) (a : BitVec 5) (i : BitVec 10)
  | vloope (y : BitVec 4) (k : BitVec 1)
  | vexit (y : BitVec 4) (k : BitVec 1) (p : BitVec 3)
  | vflag (y : BitVec 4) (k : BitVec 1)
  -- load and store micro-orders
  | ldring (y : BitVec 4) (k : BitVec 2) (q : BitVec 4) (g : BitVec 3) (l : BitVec 2) (r : BitVec 1) (b : BitVec 4)
  | ldq (y : BitVec 4) (k : BitVec 2) (q : BitVec 4) (g : BitVec 3) (l : BitVec 2) (r : BitVec 1) (t b : BitVec 4)
  | stq (y : BitVec 4) (k : BitVec 2) (q : BitVec 4) (g : BitVec 3) (l : BitVec 2) (r : BitVec 1) (t b : BitVec 4)
  | string (y : BitVec 4) (k : BitVec 2) (q : BitVec 4) (g : BitVec 3) (l : BitVec 2) (r : BitVec 1) (x : BitVec 2) (t b : BitVec 4)
  | supd (y : BitVec 4) (k : BitVec 2) (q : BitVec 4) (g : BitVec 3) (l : BitVec 2) (r : BitVec 1) (t b : BitVec 4)
  | sqnt (y : BitVec 4) (k : BitVec 2) (q : BitVec 4) (g : BitVec 3) (f : BitVec 3) (r : BitVec 2) (v : BitVec 1) (p : BitVec 2) (n : BitVec 4)
  -- events: clock, driver writes, engines
  | driverWriteEffect (w : DriverWrite)
  | guardCompare (pc : BitVec 16) (major : BitVec 6)
  | engineStart (e : Eng)
  | ringSlotRelease (ring slot : Nat)
  | matrixUnitVisible (job u : Nat)
  | tileWriteVisible (w : TileWrite)
  | vectorWriteVisible (w : VResult)
  | mdrainEntryPush (q : Nat) (order : Nat × List Nat) (e : Entry)
  | mdrainSlotPush (job : Nat)
  | mdrainComplete (tile : Nat)
  | beatRead (addr n : Nat) (dest : BeatDest)
  | beatWrite (addr : Nat) (data : Payload) (done : BeatDone)
  | ldringSlotPush (ring : Nat)
  | ldqEntryPush (job : Nat)
  -- events: driver accesses
  | ldsResultWrite (toX : Bool) (reg : Nat) (values : List DWord)
  | stsPerform (addr size : Nat) (v : DWord)
  | descriptorGroupRead (op group : Nat) (words : List Word) (poison : List Nat)
  | ldgPerform (id : Nat)
  | amoPerform (id : Nat)
  | loadResultWrite (id : Nat) (v : DWord)
  | interruptTaken (code : BitVec 8)
  -- events: copies, spans, leases, commands
  | copyUnitRead (u : Nat)
  | copyUnitWrite (u : Nat)
  | warmupEnd (slot : Nat)
  | boostExpiry (slot : Nat)
  | leasedCommandStart (cmd : Nat)
  | leasedCommandComplete (cmd : Nat)
  | rowResultPerform (cmd row : Nat)
  -- events: power, faults, holds
  | windowOverrun (tile opened site : Nat)
  | selfTest (kind : BitVec 8) (place : BitVec 32) (lasting : Bool)
  -- events: walker
  | graphkickSubmit (index : BitVec 24)
  | graphkickRelease (index : BitVec 24)
  | graphkickCancel (index : BitVec 24)
  | messagePost (m : Message)
  -- events: DRAM
  | dramAct (bank row : Nat)
  | dramPre (bank : Nat)
  | dramRefpb (bank : Nat)
  | dramWin (slots xid : Nat)
  | windowSlot (xid window : Nat)
  -- events: fabric
  | fabricJoin (choice : Nat) (after : List (Nat × Int)) (refused : List Nat)
  | ptpAnnounce (rank : Nat)
  | ptpSync (time : Int)
  | ptpDelayResp (time : Int)
  | offsetMeasurement (offset : Int)
  | fabricSlot (port i : Nat)
  | contributionFlit (group : Nat) (target : Nat) (f : Flit)
  | reducedResultFlit (group : Nat) (target : Nat) (f : Flit)
  | gatheredDataFlit (group : Nat) (target : Nat) (f : Flit)
  | flagWordFlit (group : Nat) (target : Nat) (f : Flit)
  | holdNotice (cycle : Nat)
  | stopNotice (cycle : Nat)
  | walkerMessage (dreg : Nat) (e slew : Nat)
  | collectiveReduction (rank : Nat)
  -- events: host
  | hostMemoryRead (pa n : Nat)
  | hostMemoryWrite (pa : Nat) (bytes : List Byte)
  | gbaseWrite (v : DWord)
  | registerWrite (off : BitVec 16) (v : DWord)
  | attnonceWrite (i : Nat) (v : DWord)
  | attaddrWrite (v : DWord)
  -- events: pairs and signal boxes
  | pqctlReq (v : Bool)
  | pclkWrite (v : Bool)
  | prailWrite (v : Bool)
  | pretbWrite (v : DWord)
  | pgrantWrite (v : DWord)
  | sbslewWrite (n : Nat) (v : DWord)
  | sbcapWrite (v : DWord)
  -- events: bring-up, illegal words
  | imageVerification (images : List (List Byte))
  | hbmTraining (failed : List Nat)
  | powerOnSelfTest (failed : List Nat)
  | illegalInstruction (w : Word)
  | illegalMicroOrder (w : Word)
  -- instructions and events with no operand
  | ret
  | mark
  | point
  | depart
  | exit
  | nop
  | eret
  | halt
  | wfi
  | stationClockTick
  | combinerFire
  | bankClaimGrant
  | storeArrival
  | fenceComplete
  | xfenceComplete
  | waitsExpiry
  | wfiWake
  | hostTierCopyWrite
  | xpinComplete
  | tlbinvComplete
  | leaseGrant
  | leaseWaitExpiry
  | thermalTrip
  | powerAlarm
  | grantBoundary
  | slewWindowCheck
  | balancerWindow
  | stopPulse
  | completionRecordWrite
  | holdBegin
  | holdEnd
  | placementAttempt
  | loadComplete
  | localDeparture
  | contextSave
  | contextSaveComplete
  | contextRestoreComplete
  | dramPrea
  | dramRefab
  | missingWindowTimeout
  | refreshDebtTick
  | sequencerRefresh
  | openIntervalCheck
  | openWindowRequest
  | ptpDelayReq
  | ptpFollowUp
  | idleFlit
  | reservedFlitDrop
  | collectiveFinalWrite
  | bucketSendTimeout
  | attestationGo
  | attctlErrClear
  | attestationReportWrite
  | pqctlRsave
  | pqctlRrest
  | prstatWakeClear
  | prstatSeqerrClear
  | pwake
  | quiesceAck
  | railOffComplete
  | railOnComplete
  | retentionSaveComplete
  | retentionRestoreComplete
  | deviceReset
  | lossOfLock
  deriving DecidableEq, Repr

end Sys2Proof
end

