-- ==== Sys2Proof/WellFormed.lean ====
section
/-! DEFINITION. Which operands make a legal word: Tables 4.3 and 4.4 for the driver, R65 to R70 and R177
for the micro-orders of each engine. The checks that need a whole table (ELOOP bodies, R71) stand with
TLOAD. -/

namespace Sys2Proof

/-- The five instruction streams of a core. -/
inductive Stream where
  | driver
  | engine (e : Eng)
  deriving DecidableEq, Repr

/-- A vector register or queue specifier: 28 to 31 are reserved (R70). -/
def vregOk (r : BitVec 5) : Bool := r.toNat < 28

/-- A specifier that names a queue (R70). -/
def isQueue (r : BitVec 5) : Bool := 24 ≤ r.toNat && r.toNat < 28

/-- A peek bit may stand only on a queue source (R70). -/
def peekOk (bit : Bool) (r : BitVec 5) : Bool := !bit || isQueue r

/-- Two-source vector orders; `sat` allows md[0] on a register vb as .sat (R70). On a queue vb md[0] is a peek, as R70 and
R154 say; 08's list of words that fail at TLOAD names viadd.sat v6, v6, vq1, the same word (DEDUCED, log 131). -/
def vrOk (sat : Bool) (d a b : BitVec 5) (m : BitVec 2) : Bool :=
  vregOk d && vregOk a && vregOk b && peekOk (m.getLsbD 1) a &&
    (peekOk (m.getLsbD 0) b || (sat && b.toNat < 24))

/-- One-source V-R orders: vb is zero and only md[1] is left (Table 4.9). -/
def vr1Ok (d a : BitVec 5) (m : BitVec 1) : Bool :=
  vregOk d && vregOk a && peekOk (m.getLsbD 0) a

/-- Number of working tiles of a MITER recipe (R150). -/
def miterTiles (r : BitVec 2) : Nat := if r = 3 then 4 else if r = 2 then 3 else 1

/-- Operand checks that hold in every stream. -/
def Instr.wellFormed : Instr → Bool
  | .sext _ _ w | .zext _ _ w => w.toNat ≤ 2
  | .cmp _ c _ _ | .cmpi _ c _ _ => c.toNat ≤ 5
  | .fence m | .xfence m => m ≠ 0
  | .xild _ c e => c.toNat + e.toNat ≤ 31
  | .tstart _ c | .tbase _ c | .tstop c | .tload _ _ c => c.toNat < 4
  | .lpset _ c e => c.toNat < 4 && e.toNat < 2
  | .agset _ c e => (c.toNat = 0 || c.toNat = 3) && e.toNat < 8
  | .rcfg _ c | .rreset c | .ssset _ c => c.toNat < 16
  | .eloop _ l n => l.toNat < 2 && n ≠ 0
  | .tkpush _ _ i => i.toNat ≤ 4
  | .mmula _ _ d a _ => d ≠ a
  | .miter _ _ d a _ r =>
      d.toNat + miterTiles r ≤ 64 && !(d.toNat ≤ a.toNat && a.toNat < d.toNat + miterTiles r)
  | .vadd _ _ d a b _ m | .vsub _ _ d a b _ m | .vmul _ _ d a b _ m | .vmulz _ _ d a b _ m
  | .vfma _ _ d a b _ m | .vfms _ _ d a b _ m | .vmin _ _ d a b _ m | .vmax _ _ d a b _ m
  | .vand _ _ d a b _ m | .vor _ _ d a b _ m | .vxor _ _ d a b _ m | .vshr _ _ d a b _ m
  | .vsra _ _ d a b _ m | .vimin _ _ d a b _ m | .vimax _ _ d a b _ m | .vsel _ _ d a b _ m =>
      vrOk false d a b m
  | .viadd _ _ d a b _ m | .visub _ _ d a b _ m | .vimul _ _ d a b _ m | .vshl _ _ d a b _ m =>
      vrOk true d a b m
  | .vexp2 _ _ d a _ m | .vlog2 _ _ d a _ m | .vrcp _ _ d a _ m | .vrsq _ _ d a _ m
  | .vtanh _ _ d a _ m | .vabs _ _ d a _ m | .vmov _ _ d a _ m => vr1Ok d a m
  | .vcmp _ _ _ a b p m => p ≠ 0 && vrOk false 0 a b m
  | .vmlog _ _ d a b _ => d ≠ 0 && a.toNat < 8 && b.toNat < 8
  | .vscl _ _ d a _ | .vredr _ _ d a _ | .vredc _ _ d a _ => vregOk d && vregOk a
  | .vcvt _ _ d a f _ => vregOk d && vregOk a && f.toNat ≤ 4
  | .vqnt _ _ d a _ f _ _ | .vdqnt _ _ d a _ f _ => vregOk d && vregOk a && f.toNat ≤ 5
  | .vhad _ _ d a _ f _ => vregOk d && vregOk a && f.toNat ≤ 1
  | .vrotr _ _ d a i | .vbcc _ _ d a i => vregOk d && vregOk a && i.toNat ≤ 63
  | .vrotc _ _ d a i | .vbcr _ _ d a i => vregOk d && vregOk a && i.toNat ≤ 15
  | .vldi _ _ d _ | .viota _ _ d _ => vregOk d
  | .vloopb _ _ n a i =>
      1 ≤ n.toNat && n.toNat ≤ 7 && a.toNat ≤ 2 && (if a = 0 then i ≠ 0 else i = 0)
  | .ldq _ _ q _ _ _ t _ => q.toNat < 4 && (t = 4 || t = 5)
  | .stq _ _ q _ _ _ t _ | .supd _ _ q _ _ _ t _ => q.toNat < 4 && t = 7
  | .string _ _ _ _ _ _ _ t _ => t = 7
  | .sqnt _ _ q _ f _ _ p _ =>
      q.toNat < 4 && f.toNat ≤ 5 && p.toNat < 3 && (p = 0 || f = 3 || f = 4)
  | _ => true

/-- Outbound token FIFO ids of an engine (Table 4.5). -/
def tokenOut (e : Eng) (i : BitVec 3) : Bool :=
  match e with
  | .load => i = 0
  | .matrix => i = 1 || i = 2
  | .vector => i = 3
  | .store => i = 4

/-- K field of an engine: matrix and vector have no inbound B (R65). -/
def kOk (e : Eng) (k : BitVec 2) : Bool :=
  match e with
  | .load | .store => true
  | .matrix | .vector => k.toNat < 2

/-- The stream an instruction belongs to; none for the four common micro-orders, which every engine has,
and for the events, which no stream holds. -/
def Instr.engine : Instr → Option Eng
  | .mlds .. | .mprom .. | .mmul .. | .mmula .. | .maff .. | .mzero .. | .mcopy .. | .miter ..
  | .mdrainQueue .. | .mdrainRing .. | .mfill .. | .mmark .. => some .matrix
  | .vadd .. | .vsub .. | .vmul .. | .vmulz .. | .vfma .. | .vfms .. | .vmin .. | .vmax .. | .vexp2 ..
  | .vlog2 .. | .vrcp .. | .vrsq .. | .vtanh .. | .vscl .. | .vabs .. | .viadd .. | .visub .. | .vimul ..
  | .vand .. | .vor .. | .vxor .. | .vshl .. | .vshr .. | .vsra .. | .vimin .. | .vimax .. | .vcmp ..
  | .vsel .. | .vmlog .. | .vcvt .. | .vqnt .. | .vdqnt .. | .vhad .. | .vrotr .. | .vrotc .. | .vbcr ..
  | .vbcc .. | .vredr .. | .vredc .. | .vmov .. | .vldi .. | .viota .. | .vloopb .. | .vloope ..
  | .vexit .. | .vflag .. => some .vector
  | .ldring .. | .ldq .. => some .load
  | .stq .. | .string .. | .supd .. | .sqnt .. => some .store
  | _ => none

/-- The micro-orders that every engine has (Table 4.6). -/
def Instr.common : Instr → Bool
  | .idle .. | .eloop .. | .tkpush .. | .notify .. => true
  | _ => false

/-- A common micro-order with the K and id limits of engine `e` (Tables 4.5 and 4.6). -/
def commonOk (e : Eng) : Instr → Bool
  | .idle .. | .eloop .. => true
  | .tkpush _ k i => kOk e k && tokenOut e i
  | .notify _ k => kOk e k
  | _ => false

end Sys2Proof
end

