-- ==== Sys2Proof/Decode.lean ====
section
/-! DEFINITION. The encoder and the decoder of the 170 words of Tables 4.1 to 4.9, and the numbering of a
table row's bits. The decoder is total: a word that is no instruction of its stream is rejected by name. -/

namespace Sys2Proof

/-- Bits `lo` to `lo + len - 1` of a word. -/
abbrev fld (w : Word) (lo len : Nat) : BitVec len := w.extractLsb' lo len

/-- A field placed with its lowest bit at `lo`. -/
def put (lo : Nat) {n : Nat} (f : BitVec n) : Word := f.setWidth 32 <<< lo

/-- Sign extension to 64 bits. -/
def sx {w : Nat} (v : BitVec w) : DWord := v.signExtend 64

/-- Zero extension to 64 bits. -/
def zx {w : Nat} (v : BitVec w) : DWord := v.setWidth 64

/-- The word of an instruction (R60 to R69); none for the events, which have no encoding. -/
def encode : Instr → Option Word
  | .add d a b => some (0x04000000#32 ||| put 21 d ||| put 16 a ||| put 11 b)
  | .sub d a b => some (0x04000001#32 ||| put 21 d ||| put 16 a ||| put 11 b)
  | .and d a b => some (0x04000002#32 ||| put 21 d ||| put 16 a ||| put 11 b)
  | .or d a b => some (0x04000003#32 ||| put 21 d ||| put 16 a ||| put 11 b)
  | .xor d a b => some (0x04000004#32 ||| put 21 d ||| put 16 a ||| put 11 b)
  | .andn d a b => some (0x04000005#32 ||| put 21 d ||| put 16 a ||| put 11 b)
  | .shl d a b => some (0x04000006#32 ||| put 21 d ||| put 16 a ||| put 11 b)
  | .shr d a b => some (0x04000007#32 ||| put 21 d ||| put 16 a ||| put 11 b)
  | .sra d a b => some (0x04000008#32 ||| put 21 d ||| put 16 a ||| put 11 b)
  | .mul d a b => some (0x04000009#32 ||| put 21 d ||| put 16 a ||| put 11 b)
  | .mulh d a b => some (0x0400000A#32 ||| put 21 d ||| put 16 a ||| put 11 b)
  | .mulhu d a b => some (0x0400000B#32 ||| put 21 d ||| put 16 a ||| put 11 b)
  | .min d a b => some (0x0400000C#32 ||| put 21 d ||| put 16 a ||| put 11 b)
  | .max d a b => some (0x0400000D#32 ||| put 21 d ||| put 16 a ||| put 11 b)
  | .minu d a b => some (0x0400000E#32 ||| put 21 d ||| put 16 a ||| put 11 b)
  | .maxu d a b => some (0x0400000F#32 ||| put 21 d ||| put 16 a ||| put 11 b)
  | .clz d a => some (0x04000010#32 ||| put 21 d ||| put 16 a)
  | .popc d a => some (0x04000011#32 ||| put 21 d ||| put 16 a)
  | .sext d a w => some (0x04000012#32 ||| put 21 d ||| put 16 a ||| put 11 w)
  | .zext d a w => some (0x04000013#32 ||| put 21 d ||| put 16 a ||| put 11 w)
  | .addi d a i => some (0x08000000#32 ||| put 21 d ||| put 16 a ||| put 0 i)
  | .andi d a i => some (0x0C000000#32 ||| put 21 d ||| put 16 a ||| put 0 i)
  | .ori d a i => some (0x10000000#32 ||| put 21 d ||| put 16 a ||| put 0 i)
  | .xori d a i => some (0x14000000#32 ||| put 21 d ||| put 16 a ||| put 0 i)
  | .shli d a n => some (0x18000000#32 ||| put 21 d ||| put 16 a ||| put 0 n)
  | .shri d a n => some (0x18004000#32 ||| put 21 d ||| put 16 a ||| put 0 n)
  | .srai d a n => some (0x18008000#32 ||| put 21 d ||| put 16 a ||| put 0 n)
  | .lih d i => some (0x1C000000#32 ||| put 21 d ||| put 0 i)
  | .movk d h i => some (0x20000000#32 ||| put 21 d ||| put 19 h ||| put 0 i)
  | .cmp p c a b => some (0x24000000#32 ||| put 23 p ||| put 20 c ||| put 15 a ||| put 10 b)
  | .cmpi p c a i => some (0x28000000#32 ||| put 23 p ||| put 20 c ||| put 15 a ||| put 0 i)
  | .plog d a b l n => some (0x2C000000#32 ||| put 23 d ||| put 20 a ||| put 17 b ||| put 15 l ||| put 14 n)
  | .sel d a b p => some (0x30000000#32 ||| put 21 d ||| put 16 a ||| put 11 b ||| put 8 p)
  | .br p n o => some (0x34000000#32 ||| put 23 p ||| put 22 n ||| put 0 o)
  | .call o => some (0x38000000#32 ||| put 0 o)
  | .jr a => some (0x3C000000#32 ||| put 16 a)
  | .ret => some (0x3C000001#32)
  | .jalr a => some (0x3C000002#32 ||| put 16 a)
  | .dbnz d i => some (0x40000000#32 ||| put 21 d ||| put 0 i)
  | .lds d a z o => some (0x44000000#32 ||| put 21 d ||| put 16 a ||| put 14 z ||| put 0 o)
  | .sts d a z o => some (0x48000000#32 ||| put 21 d ||| put 16 a ||| put 14 z ||| put 0 o)
  | .ldg d a z o => some (0x4C000000#32 ||| put 21 d ||| put 16 a ||| put 14 z ||| put 0 o)
  | .stg d a z o => some (0x50000000#32 ||| put 21 d ||| put 16 a ||| put 14 z ||| put 0 o)
  | .amo d a b o z m => some (0x54000080#32 ||| put 21 d ||| put 16 a ||| put 11 b ||| put 8 o ||| put 6 z ||| put 1 m)
  | .fence m => some (0x58000000#32 ||| put 0 m)
  | .xfence m => some (0x58100000#32 ||| put 0 m)
  | .mark => some (0x58200000#32)
  | .ximov a e => some (0x5C000000#32 ||| put 15 a ||| put 0 e)
  | .xild a c e => some (0x5C100000#32 ||| put 15 a ||| put 5 c ||| put 0 e)
  | .xird b e => some (0x5C200000#32 ||| put 10 b ||| put 0 e)
  | .stcr e => some (0x60000000#32 ||| put 0 e)
  | .waits a => some (0x60100000#32 ||| put 15 a)
  | .depr a e => some (0x60200000#32 ||| put 15 a ||| put 0 e)
  | .tstart a c => some (0x64000000#32 ||| put 15 a ||| put 5 c)
  | .tstop c => some (0x64100000#32 ||| put 5 c)
  | .tbase a c => some (0x64200000#32 ||| put 15 a ||| put 5 c)
  | .tload a b c => some (0x64300000#32 ||| put 15 a ||| put 10 b ||| put 5 c)
  | .lpset a c e => some (0x64400000#32 ||| put 15 a ||| put 5 c ||| put 0 e)
  | .agset a c e => some (0x64500000#32 ||| put 15 a ||| put 5 c ||| put 0 e)
  | .wbpush a => some (0x68000000#32 ||| put 15 a)
  | .pqpush a => some (0x68100000#32 ||| put 15 a)
  | .rcfg a c => some (0x6C000000#32 ||| put 15 a ||| put 5 c)
  | .rreset c => some (0x6C100000#32 ||| put 5 c)
  | .ssset a c => some (0x6C200000#32 ||| put 15 a ||| put 5 c)
  | .xshape a e => some (0x70000000#32 ||| put 15 a ||| put 0 e)
  | .xcopy a b t => some (0x70100000#32 ||| put 15 a ||| put 10 b ||| put 0 t)
  | .xgather a b c t => some (0x70200000#32 ||| put 15 a ||| put 10 b ||| put 5 c ||| put 0 t)
  | .xscatter a b c t => some (0x70300000#32 ||| put 15 a ||| put 10 b ||| put 5 c ||| put 0 t)
  | .xpin a b c w s => some (0x70400000#32 ||| put 15 a ||| put 10 b ||| put 5 c ||| put 1 w ||| put 0 s)
  | .xunpin c s => some (0x70500000#32 ||| put 5 c ||| put 0 s)
  | .coll a b => some (0x74000000#32 ||| put 15 a ||| put 10 b)
  | .lease a => some (0x78000000#32 ||| put 15 a)
  | .release a => some (0x78100000#32 ||| put 15 a)
  | .lquery a e => some (0x78200000#32 ||| put 15 a ||| put 0 e)
  | .ilmask a b e => some (0x7C000000#32 ||| put 15 a ||| put 10 b ||| put 0 e)
  | .ilsamp a b e => some (0x7C100000#32 ||| put 15 a ||| put 10 b ||| put 0 e)
  | .iladv a b e => some (0x7C200000#32 ||| put 15 a ||| put 10 b ||| put 0 e)
  | .ilload a b e => some (0x7C300000#32 ||| put 15 a ||| put 10 b ||| put 0 e)
  | .ilsave a b e => some (0x7C400000#32 ||| put 15 a ||| put 10 b ||| put 0 e)
  | .srtopk a b e => some (0x7C800000#32 ||| put 15 a ||| put 10 b ||| put 0 e)
  | .srsort a b e => some (0x7C900000#32 ||| put 15 a ||| put 10 b ||| put 0 e)
  | .infblk a b e => some (0x7D000000#32 ||| put 15 a ||| put 10 b ||| put 0 e)
  | .shgath a b e => some (0x7D800000#32 ||| put 15 a ||| put 10 b ||| put 0 e)
  | .shscat a b e => some (0x7D900000#32 ||| put 15 a ||| put 10 b ||| put 0 e)
  | .shpack a b e => some (0x7DA00000#32 ||| put 15 a ||| put 10 b ||| put 0 e)
  | .rwmax a b => some (0x80000000#32 ||| put 15 a ||| put 10 b)
  | .rwexs a b => some (0x80100000#32 ||| put 15 a ||| put 10 b)
  | .rwscl a b => some (0x80200000#32 ||| put 15 a ||| put 10 b)
  | .rwnorm a b => some (0x80300000#32 ||| put 15 a ||| put 10 b)
  | .point => some (0x84000000#32)
  | .depart => some (0x84100000#32)
  | .exit => some (0x84200000#32)
  | .nop => some (0x88000000#32)
  | .trap n => some (0x88100000#32 ||| put 0 n)
  | .eret => some (0x88200000#32)
  | .csrrd g c => some (0x88300000#32 ||| put 15 g ||| put 3 c)
  | .csrwr g c => some (0x88400000#32 ||| put 15 g ||| put 3 c)
  | .csrset g c => some (0x88500000#32 ||| put 15 g ||| put 3 c)
  | .csrclr g c => some (0x88600000#32 ||| put 15 g ||| put 3 c)
  | .tlbinv a b => some (0x88700000#32 ||| put 15 a ||| put 10 b)
  | .halt => some (0x88800000#32)
  | .wfi => some (0x88900000#32)
  | .idle y n => some (0x00000000#32 ||| put 28 y ||| put 0 n)
  | .eloop y l n => some (0x03D00000#32 ||| put 28 y ||| put 18 l ||| put 8 n)
  | .tkpush y k i => some (0x03E00000#32 ||| put 28 y ||| put 26 k ||| put 17 i)
  | .notify y k => some (0x03F00000#32 ||| put 28 y ||| put 26 k)
  | .mlds y k r t e => some (0x00100000#32 ||| put 28 y ||| put 26 k ||| put 8 r ||| put 6 t ||| put 0 e)
  | .mprom y k a t => some (0x00200000#32 ||| put 28 y ||| put 26 k ||| put 8 a ||| put 6 t)
  | .mmul y k d r t => some (0x00300000#32 ||| put 28 y ||| put 26 k ||| put 14 d ||| put 8 r ||| put 6 t)
  | .mmula y k d a t => some (0x00400000#32 ||| put 28 y ||| put 26 k ||| put 14 d ||| put 8 a ||| put 6 t)
  | .maff y k d e => some (0x00500000#32 ||| put 28 y ||| put 26 k ||| put 14 d ||| put 0 e)
  | .mzero y k d => some (0x00600000#32 ||| put 28 y ||| put 26 k ||| put 14 d)
  | .mcopy y k d a => some (0x00700000#32 ||| put 28 y ||| put 26 k ||| put 14 d ||| put 8 a)
  | .miter y k d a t r => some (0x00800000#32 ||| put 28 y ||| put 26 k ||| put 14 d ||| put 8 a ||| put 6 t ||| put 0 r)
  | .mdrainQueue y k d q => some (0x00900000#32 ||| put 28 y ||| put 26 k ||| put 14 d ||| put 0 q)
  | .mdrainRing y k d r => some (0x00900010#32 ||| put 28 y ||| put 26 k ||| put 14 d ||| put 8 r)
  | .mfill y k d r c => some (0x00A00000#32 ||| put 28 y ||| put 26 k ||| put 14 d ||| put 8 r ||| put 0 c)
  | .mmark y k d => some (0x00B00000#32 ||| put 28 y ||| put 26 k ||| put 14 d)
  | .vadd y k d a b p m => some (0x00100000#32 ||| put 28 y ||| put 26 k ||| put 15 d ||| put 10 a ||| put 5 b ||| put 2 p ||| put 0 m)
  | .vsub y k d a b p m => some (0x00200000#32 ||| put 28 y ||| put 26 k ||| put 15 d ||| put 10 a ||| put 5 b ||| put 2 p ||| put 0 m)
  | .vmul y k d a b p m => some (0x00300000#32 ||| put 28 y ||| put 26 k ||| put 15 d ||| put 10 a ||| put 5 b ||| put 2 p ||| put 0 m)
  | .vmulz y k d a b p m => some (0x00400000#32 ||| put 28 y ||| put 26 k ||| put 15 d ||| put 10 a ||| put 5 b ||| put 2 p ||| put 0 m)
  | .vfma y k d a b p m => some (0x00500000#32 ||| put 28 y ||| put 26 k ||| put 15 d ||| put 10 a ||| put 5 b ||| put 2 p ||| put 0 m)
  | .vfms y k d a b p m => some (0x00600000#32 ||| put 28 y ||| put 26 k ||| put 15 d ||| put 10 a ||| put 5 b ||| put 2 p ||| put 0 m)
  | .vmin y k d a b p m => some (0x00700000#32 ||| put 28 y ||| put 26 k ||| put 15 d ||| put 10 a ||| put 5 b ||| put 2 p ||| put 0 m)
  | .vmax y k d a b p m => some (0x00800000#32 ||| put 28 y ||| put 26 k ||| put 15 d ||| put 10 a ||| put 5 b ||| put 2 p ||| put 0 m)
  | .vexp2 y k d a p m => some (0x00900000#32 ||| put 28 y ||| put 26 k ||| put 15 d ||| put 10 a ||| put 2 p ||| put 1 m)
  | .vlog2 y k d a p m => some (0x00A00000#32 ||| put 28 y ||| put 26 k ||| put 15 d ||| put 10 a ||| put 2 p ||| put 1 m)
  | .vrcp y k d a p m => some (0x00B00000#32 ||| put 28 y ||| put 26 k ||| put 15 d ||| put 10 a ||| put 2 p ||| put 1 m)
  | .vrsq y k d a p m => some (0x00C00000#32 ||| put 28 y ||| put 26 k ||| put 15 d ||| put 10 a ||| put 2 p ||| put 1 m)
  | .vtanh y k d a p m => some (0x00D00000#32 ||| put 28 y ||| put 26 k ||| put 15 d ||| put 10 a ||| put 2 p ||| put 1 m)
  | .vscl y k d a i => some (0x00E00000#32 ||| put 28 y ||| put 26 k ||| put 15 d ||| put 10 a ||| put 0 i)
  | .vabs y k d a p m => some (0x00F00000#32 ||| put 28 y ||| put 26 k ||| put 15 d ||| put 10 a ||| put 2 p ||| put 1 m)
  | .viadd y k d a b p m => some (0x01000000#32 ||| put 28 y ||| put 26 k ||| put 15 d ||| put 10 a ||| put 5 b ||| put 2 p ||| put 0 m)
  | .visub y k d a b p m => some (0x01100000#32 ||| put 28 y ||| put 26 k ||| put 15 d ||| put 10 a ||| put 5 b ||| put 2 p ||| put 0 m)
  | .vimul y k d a b p m => some (0x01200000#32 ||| put 28 y ||| put 26 k ||| put 15 d ||| put 10 a ||| put 5 b ||| put 2 p ||| put 0 m)
  | .vand y k d a b p m => some (0x01300000#32 ||| put 28 y ||| put 26 k ||| put 15 d ||| put 10 a ||| put 5 b ||| put 2 p ||| put 0 m)
  | .vor y k d a b p m => some (0x01400000#32 ||| put 28 y ||| put 26 k ||| put 15 d ||| put 10 a ||| put 5 b ||| put 2 p ||| put 0 m)
  | .vxor y k d a b p m => some (0x01500000#32 ||| put 28 y ||| put 26 k ||| put 15 d ||| put 10 a ||| put 5 b ||| put 2 p ||| put 0 m)
  | .vshl y k d a b p m => some (0x01600000#32 ||| put 28 y ||| put 26 k ||| put 15 d ||| put 10 a ||| put 5 b ||| put 2 p ||| put 0 m)
  | .vshr y k d a b p m => some (0x01700000#32 ||| put 28 y ||| put 26 k ||| put 15 d ||| put 10 a ||| put 5 b ||| put 2 p ||| put 0 m)
  | .vsra y k d a b p m => some (0x01800000#32 ||| put 28 y ||| put 26 k ||| put 15 d ||| put 10 a ||| put 5 b ||| put 2 p ||| put 0 m)
  | .vimin y k d a b p m => some (0x01900000#32 ||| put 28 y ||| put 26 k ||| put 15 d ||| put 10 a ||| put 5 b ||| put 2 p ||| put 0 m)
  | .vimax y k d a b p m => some (0x01A00000#32 ||| put 28 y ||| put 26 k ||| put 15 d ||| put 10 a ||| put 5 b ||| put 2 p ||| put 0 m)
  | .vcmp y k c a b p m => some (0x01B00000#32 ||| put 28 y ||| put 26 k ||| put 15 c ||| put 10 a ||| put 5 b ||| put 2 p ||| put 0 m)
  | .vsel y k d a b p m => some (0x01C00000#32 ||| put 28 y ||| put 26 k ||| put 15 d ||| put 10 a ||| put 5 b ||| put 2 p ||| put 0 m)
  | .vmlog y k d a b l => some (0x01D00000#32 ||| put 28 y ||| put 26 k ||| put 15 d ||| put 10 a ||| put 5 b ||| put 0 l)
  | .vcvt y k d a f r => some (0x01E00000#32 ||| put 28 y ||| put 26 k ||| put 15 d ||| put 10 a ||| put 3 f ||| put 0 r)
  | .vqnt y k d a q f v r => some (0x01F00000#32 ||| put 28 y ||| put 26 k ||| put 15 d ||| put 10 a ||| put 6 q ||| put 3 f ||| put 2 v ||| put 0 r)
  | .vdqnt y k d a q f v => some (0x02000000#32 ||| put 28 y ||| put 26 k ||| put 15 d ||| put 10 a ||| put 6 q ||| put 3 f ||| put 2 v)
  | .vhad y k d a q f v => some (0x02100000#32 ||| put 28 y ||| put 26 k ||| put 15 d ||| put 10 a ||| put 6 q ||| put 3 f ||| put 2 v)
  | .vrotr y k d a i => some (0x02200000#32 ||| put 28 y ||| put 26 k ||| put 15 d ||| put 10 a ||| put 0 i)
  | .vrotc y k d a i => some (0x02300000#32 ||| put 28 y ||| put 26 k ||| put 15 d ||| put 10 a ||| put 0 i)
  | .vbcr y k d a i => some (0x02400000#32 ||| put 28 y ||| put 26 k ||| put 15 d ||| put 10 a ||| put 0 i)
  | .vbcc y k d a i => some (0x02500000#32 ||| put 28 y ||| put 26 k ||| put 15 d ||| put 10 a ||| put 0 i)
  | .vredr y k d a o => some (0x02600000#32 ||| put 28 y ||| put 26 k ||| put 15 d ||| put 10 a ||| put 0 o)
  | .vredc y k d a o => some (0x02700000#32 ||| put 28 y ||| put 26 k ||| put 15 d ||| put 10 a ||| put 0 o)
  | .vmov y k d a p m => some (0x02800000#32 ||| put 28 y ||| put 26 k ||| put 15 d ||| put 10 a ||| put 2 p ||| put 1 m)
  | .vldi y k d i => some (0x02900000#32 ||| put 28 y ||| put 26 k ||| put 15 d ||| put 0 i)
  | .viota y k d i => some (0x02A00000#32 ||| put 28 y ||| put 26 k ||| put 15 d ||| put 0 i)
  | .vloopb y k n a i => some (0x02B00000#32 ||| put 28 y ||| put 26 k ||| put 15 n ||| put 10 a ||| put 0 i)
  | .vloope y k => some (0x02C00000#32 ||| put 28 y ||| put 26 k)
  | .vexit y k p => some (0x02D00000#32 ||| put 28 y ||| put 26 k ||| put 2 p)
  | .vflag y k => some (0x02E00000#32 ||| put 28 y ||| put 26 k)
  | .ldring y k q g l r b => some (0x00100000#32 ||| put 28 y ||| put 26 k ||| put 16 q ||| put 13 g ||| put 11 l ||| put 10 r ||| put 0 b)
  | .ldq y k q g l r t b => some (0x00200000#32 ||| put 28 y ||| put 26 k ||| put 16 q ||| put 13 g ||| put 11 l ||| put 10 r ||| put 4 t ||| put 0 b)
  | .stq y k q g l r t b => some (0x00100000#32 ||| put 28 y ||| put 26 k ||| put 16 q ||| put 13 g ||| put 11 l ||| put 10 r ||| put 4 t ||| put 0 b)
  | .string y k q g l r x t b => some (0x00200000#32 ||| put 28 y ||| put 26 k ||| put 16 q ||| put 13 g ||| put 11 l ||| put 10 r ||| put 8 x ||| put 4 t ||| put 0 b)
  | .supd y k q g l r t b => some (0x00300000#32 ||| put 28 y ||| put 26 k ||| put 16 q ||| put 13 g ||| put 11 l ||| put 10 r ||| put 4 t ||| put 0 b)
  | .sqnt y k q g f r v p n => some (0x00400000#32 ||| put 28 y ||| put 26 k ||| put 16 q ||| put 13 g ||| put 10 f ||| put 8 r ||| put 7 v ||| put 5 p ||| put 1 n)
  | _ => none

/-- Why a word is no instruction of its stream (R64, R71). -/
inductive Reject where
  /-- a major opcode, fn, sub, aop, lop or OP that the grids leave reserved -/
  | reservedOpcode
  /-- a nonzero bit in a field that must be zero -/
  | nonzeroZeroField
  /-- a field value that Tables 4.3 to 4.9 exclude -/
  | excludedField
  deriving DecidableEq, Repr

/-- Major 0x01 (Table 4.2). -/
def decodeMajor01 (w : Word) : Option Instr :=
  match (fld w 0 6).toNat with
  | 0 => some (.add (fld w 21 5) (fld w 16 5) (fld w 11 5))
  | 1 => some (.sub (fld w 21 5) (fld w 16 5) (fld w 11 5))
  | 2 => some (.and (fld w 21 5) (fld w 16 5) (fld w 11 5))
  | 3 => some (.or (fld w 21 5) (fld w 16 5) (fld w 11 5))
  | 4 => some (.xor (fld w 21 5) (fld w 16 5) (fld w 11 5))
  | 5 => some (.andn (fld w 21 5) (fld w 16 5) (fld w 11 5))
  | 6 => some (.shl (fld w 21 5) (fld w 16 5) (fld w 11 5))
  | 7 => some (.shr (fld w 21 5) (fld w 16 5) (fld w 11 5))
  | 8 => some (.sra (fld w 21 5) (fld w 16 5) (fld w 11 5))
  | 9 => some (.mul (fld w 21 5) (fld w 16 5) (fld w 11 5))
  | 10 => some (.mulh (fld w 21 5) (fld w 16 5) (fld w 11 5))
  | 11 => some (.mulhu (fld w 21 5) (fld w 16 5) (fld w 11 5))
  | 12 => some (.min (fld w 21 5) (fld w 16 5) (fld w 11 5))
  | 13 => some (.max (fld w 21 5) (fld w 16 5) (fld w 11 5))
  | 14 => some (.minu (fld w 21 5) (fld w 16 5) (fld w 11 5))
  | 15 => some (.maxu (fld w 21 5) (fld w 16 5) (fld w 11 5))
  | 16 => some (.clz (fld w 21 5) (fld w 16 5))
  | 17 => some (.popc (fld w 21 5) (fld w 16 5))
  | 18 => some (.sext (fld w 21 5) (fld w 16 5) (fld w 11 5))
  | 19 => some (.zext (fld w 21 5) (fld w 16 5) (fld w 11 5))
  | _ => none

/-- Major 0x06 (Table 4.2). -/
def decodeMajor06 (w : Word) : Option Instr :=
  match (fld w 14 2).toNat with
  | 0 => some (.shli (fld w 21 5) (fld w 16 5) (fld w 0 6))
  | 1 => some (.shri (fld w 21 5) (fld w 16 5) (fld w 0 6))
  | 2 => some (.srai (fld w 21 5) (fld w 16 5) (fld w 0 6))
  | _ => none

/-- Major 0x0C (Table 4.2). -/
def decodeMajor0C (w : Word) : Option Instr :=
  match (fld w 0 6).toNat with
  | 0 => some (.sel (fld w 21 5) (fld w 16 5) (fld w 11 5) (fld w 8 3))
  | _ => none

/-- Major 0x0F (Table 4.2). -/
def decodeMajor0F (w : Word) : Option Instr :=
  match (fld w 0 6).toNat with
  | 0 => some (.jr (fld w 16 5))
  | 1 => some (.ret)
  | 2 => some (.jalr (fld w 16 5))
  | _ => none

/-- Major 0x16 (Table 4.2). -/
def decodeMajor16 (w : Word) : Option Instr :=
  match (fld w 20 6).toNat with
  | 0 => some (.fence (fld w 0 5))
  | 1 => some (.xfence (fld w 0 5))
  | 2 => some (.mark)
  | _ => none

/-- Major 0x17 (Table 4.2). -/
def decodeMajor17 (w : Word) : Option Instr :=
  match (fld w 20 6).toNat with
  | 0 => some (.ximov (fld w 15 5) (fld w 0 5))
  | 1 => some (.xild (fld w 15 5) (fld w 5 5) (fld w 0 5))
  | 2 => some (.xird (fld w 10 5) (fld w 0 5))
  | _ => none

/-- Major 0x18 (Table 4.2). -/
def decodeMajor18 (w : Word) : Option Instr :=
  match (fld w 20 6).toNat with
  | 0 => some (.stcr (fld w 0 5))
  | 1 => some (.waits (fld w 15 5))
  | 2 => some (.depr (fld w 15 5) (fld w 0 5))
  | _ => none

/-- Major 0x19 (Table 4.2). -/
def decodeMajor19 (w : Word) : Option Instr :=
  match (fld w 20 6).toNat with
  | 0 => some (.tstart (fld w 15 5) (fld w 5 5))
  | 1 => some (.tstop (fld w 5 5))
  | 2 => some (.tbase (fld w 15 5) (fld w 5 5))
  | 3 => some (.tload (fld w 15 5) (fld w 10 5) (fld w 5 5))
  | 4 => some (.lpset (fld w 15 5) (fld w 5 5) (fld w 0 5))
  | 5 => some (.agset (fld w 15 5) (fld w 5 5) (fld w 0 5))
  | _ => none

/-- Major 0x1A (Table 4.2). -/
def decodeMajor1A (w : Word) : Option Instr :=
  match (fld w 20 6).toNat with
  | 0 => some (.wbpush (fld w 15 5))
  | 1 => some (.pqpush (fld w 15 5))
  | _ => none

/-- Major 0x1B (Table 4.2). -/
def decodeMajor1B (w : Word) : Option Instr :=
  match (fld w 20 6).toNat with
  | 0 => some (.rcfg (fld w 15 5) (fld w 5 5))
  | 1 => some (.rreset (fld w 5 5))
  | 2 => some (.ssset (fld w 15 5) (fld w 5 5))
  | _ => none

/-- Major 0x1C (Table 4.2). -/
def decodeMajor1C (w : Word) : Option Instr :=
  match (fld w 20 6).toNat with
  | 0 => some (.xshape (fld w 15 5) (fld w 0 5))
  | 1 => some (.xcopy (fld w 15 5) (fld w 10 5) (fld w 0 1))
  | 2 => some (.xgather (fld w 15 5) (fld w 10 5) (fld w 5 5) (fld w 0 1))
  | 3 => some (.xscatter (fld w 15 5) (fld w 10 5) (fld w 5 5) (fld w 0 1))
  | 4 => some (.xpin (fld w 15 5) (fld w 10 5) (fld w 5 5) (fld w 1 1) (fld w 0 1))
  | 5 => some (.xunpin (fld w 5 5) (fld w 0 1))
  | _ => none

/-- Major 0x1D (Table 4.2). -/
def decodeMajor1D (w : Word) : Option Instr :=
  match (fld w 20 6).toNat with
  | 0 => some (.coll (fld w 15 5) (fld w 10 5))
  | _ => none

/-- Major 0x1E (Table 4.2). -/
def decodeMajor1E (w : Word) : Option Instr :=
  match (fld w 20 6).toNat with
  | 0 => some (.lease (fld w 15 5))
  | 1 => some (.release (fld w 15 5))
  | 2 => some (.lquery (fld w 15 5) (fld w 0 5))
  | _ => none

/-- Major 0x1F (Table 4.2). -/
def decodeMajor1F (w : Word) : Option Instr :=
  match (fld w 20 6).toNat with
  | 0 => some (.ilmask (fld w 15 5) (fld w 10 5) (fld w 0 5))
  | 1 => some (.ilsamp (fld w 15 5) (fld w 10 5) (fld w 0 5))
  | 2 => some (.iladv (fld w 15 5) (fld w 10 5) (fld w 0 5))
  | 3 => some (.ilload (fld w 15 5) (fld w 10 5) (fld w 0 5))
  | 4 => some (.ilsave (fld w 15 5) (fld w 10 5) (fld w 0 5))
  | 8 => some (.srtopk (fld w 15 5) (fld w 10 5) (fld w 0 5))
  | 9 => some (.srsort (fld w 15 5) (fld w 10 5) (fld w 0 5))
  | 16 => some (.infblk (fld w 15 5) (fld w 10 5) (fld w 0 5))
  | 24 => some (.shgath (fld w 15 5) (fld w 10 5) (fld w 0 5))
  | 25 => some (.shscat (fld w 15 5) (fld w 10 5) (fld w 0 5))
  | 26 => some (.shpack (fld w 15 5) (fld w 10 5) (fld w 0 5))
  | _ => none

/-- Major 0x20 (Table 4.2). -/
def decodeMajor20 (w : Word) : Option Instr :=
  match (fld w 20 6).toNat with
  | 0 => some (.rwmax (fld w 15 5) (fld w 10 5))
  | 1 => some (.rwexs (fld w 15 5) (fld w 10 5))
  | 2 => some (.rwscl (fld w 15 5) (fld w 10 5))
  | 3 => some (.rwnorm (fld w 15 5) (fld w 10 5))
  | _ => none

/-- Major 0x21 (Table 4.2). -/
def decodeMajor21 (w : Word) : Option Instr :=
  match (fld w 20 6).toNat with
  | 0 => some (.point)
  | 1 => some (.depart)
  | 2 => some (.exit)
  | _ => none

/-- Major 0x22 (Table 4.2). -/
def decodeMajor22 (w : Word) : Option Instr :=
  match (fld w 20 6).toNat with
  | 0 => some (.nop)
  | 1 => some (.trap (fld w 0 5))
  | 2 => some (.eret)
  | 3 => some (.csrrd (fld w 15 5) (fld w 3 12))
  | 4 => some (.csrwr (fld w 15 5) (fld w 3 12))
  | 5 => some (.csrset (fld w 15 5) (fld w 3 12))
  | 6 => some (.csrclr (fld w 15 5) (fld w 3 12))
  | 7 => some (.tlbinv (fld w 15 5) (fld w 10 5))
  | 8 => some (.halt)
  | 9 => some (.wfi)
  | _ => none

/-- The driver instruction a word would be by its opcode fields alone (Table 4.2). -/
def candidateDriver (w : Word) : Option Instr :=
  match (fld w 26 6).toNat with
  | 1 => decodeMajor01 w
  | 2 => some (.addi (fld w 21 5) (fld w 16 5) (fld w 0 16))
  | 3 => some (.andi (fld w 21 5) (fld w 16 5) (fld w 0 16))
  | 4 => some (.ori (fld w 21 5) (fld w 16 5) (fld w 0 16))
  | 5 => some (.xori (fld w 21 5) (fld w 16 5) (fld w 0 16))
  | 6 => decodeMajor06 w
  | 7 => some (.lih (fld w 21 5) (fld w 0 16))
  | 8 => some (.movk (fld w 21 5) (fld w 19 2) (fld w 0 16))
  | 9 => some (.cmp (fld w 23 3) (fld w 20 3) (fld w 15 5) (fld w 10 5))
  | 10 => some (.cmpi (fld w 23 3) (fld w 20 3) (fld w 15 5) (fld w 0 15))
  | 11 => some (.plog (fld w 23 3) (fld w 20 3) (fld w 17 3) (fld w 15 2) (fld w 14 1))
  | 12 => decodeMajor0C w
  | 13 => some (.br (fld w 23 3) (fld w 22 1) (fld w 0 22))
  | 14 => some (.call (fld w 0 22))
  | 15 => decodeMajor0F w
  | 16 => some (.dbnz (fld w 21 5) (fld w 0 16))
  | 17 => some (.lds (fld w 21 5) (fld w 16 5) (fld w 14 2) (fld w 0 14))
  | 18 => some (.sts (fld w 21 5) (fld w 16 5) (fld w 14 2) (fld w 0 14))
  | 19 => some (.ldg (fld w 21 5) (fld w 16 5) (fld w 14 2) (fld w 0 14))
  | 20 => some (.stg (fld w 21 5) (fld w 16 5) (fld w 14 2) (fld w 0 14))
  | 21 => some (.amo (fld w 21 5) (fld w 16 5) (fld w 11 5) (fld w 8 3) (fld w 6 1) (fld w 1 5))
  | 22 => decodeMajor16 w
  | 23 => decodeMajor17 w
  | 24 => decodeMajor18 w
  | 25 => decodeMajor19 w
  | 26 => decodeMajor1A w
  | 27 => decodeMajor1B w
  | 28 => decodeMajor1C w
  | 29 => decodeMajor1D w
  | 30 => decodeMajor1E w
  | 31 => decodeMajor1F w
  | 32 => decodeMajor20 w
  | 33 => decodeMajor21 w
  | 34 => decodeMajor22 w
  | _ => none

/-- The common micro-orders (Table 4.6). -/
def candidateCommon (w : Word) : Option Instr :=
  match (fld w 20 6).toNat with
  | 0 => some (.idle (fld w 28 4) (fld w 0 20))
  | 61 => some (.eloop (fld w 28 4) (fld w 18 2) (fld w 8 10))
  | 62 => some (.tkpush (fld w 28 4) (fld w 26 2) (fld w 17 3))
  | 63 => some (.notify (fld w 28 4) (fld w 26 2))
  | _ => none

/-- The micro-order a word would be in the matrix engine by its OP alone (Table 4.7). -/
def candidateMatrix (w : Word) : Option Instr :=
  match (fld w 20 6).toNat with
  | 1 => some (.mlds (fld w 28 4) (fld w 26 1) (fld w 8 4) (fld w 6 2) (fld w 0 1))
  | 2 => some (.mprom (fld w 28 4) (fld w 26 1) (fld w 8 6) (fld w 6 2))
  | 3 => some (.mmul (fld w 28 4) (fld w 26 1) (fld w 14 6) (fld w 8 4) (fld w 6 2))
  | 4 => some (.mmula (fld w 28 4) (fld w 26 1) (fld w 14 6) (fld w 8 6) (fld w 6 2))
  | 5 => some (.maff (fld w 28 4) (fld w 26 1) (fld w 14 6) (fld w 0 6))
  | 6 => some (.mzero (fld w 28 4) (fld w 26 1) (fld w 14 6))
  | 7 => some (.mcopy (fld w 28 4) (fld w 26 1) (fld w 14 6) (fld w 8 6))
  | 8 => some (.miter (fld w 28 4) (fld w 26 1) (fld w 14 6) (fld w 8 6) (fld w 6 2) (fld w 0 2))
  | 9 => if (fld w 4 1) = 1 then some (.mdrainRing (fld w 28 4) (fld w 26 1) (fld w 14 6) (fld w 8 4)) else some (.mdrainQueue (fld w 28 4) (fld w 26 1) (fld w 14 6) (fld w 0 2))
  | 10 => some (.mfill (fld w 28 4) (fld w 26 1) (fld w 14 6) (fld w 8 4) (fld w 0 1))
  | 11 => some (.mmark (fld w 28 4) (fld w 26 1) (fld w 14 6))
  | _ => candidateCommon w

/-- The micro-order a word would be in the vector engine by its OP alone (Table 4.9). -/
def candidateVector (w : Word) : Option Instr :=
  match (fld w 20 6).toNat with
  | 1 => some (.vadd (fld w 28 4) (fld w 26 1) (fld w 15 5) (fld w 10 5) (fld w 5 5) (fld w 2 3) (fld w 0 2))
  | 2 => some (.vsub (fld w 28 4) (fld w 26 1) (fld w 15 5) (fld w 10 5) (fld w 5 5) (fld w 2 3) (fld w 0 2))
  | 3 => some (.vmul (fld w 28 4) (fld w 26 1) (fld w 15 5) (fld w 10 5) (fld w 5 5) (fld w 2 3) (fld w 0 2))
  | 4 => some (.vmulz (fld w 28 4) (fld w 26 1) (fld w 15 5) (fld w 10 5) (fld w 5 5) (fld w 2 3) (fld w 0 2))
  | 5 => some (.vfma (fld w 28 4) (fld w 26 1) (fld w 15 5) (fld w 10 5) (fld w 5 5) (fld w 2 3) (fld w 0 2))
  | 6 => some (.vfms (fld w 28 4) (fld w 26 1) (fld w 15 5) (fld w 10 5) (fld w 5 5) (fld w 2 3) (fld w 0 2))
  | 7 => some (.vmin (fld w 28 4) (fld w 26 1) (fld w 15 5) (fld w 10 5) (fld w 5 5) (fld w 2 3) (fld w 0 2))
  | 8 => some (.vmax (fld w 28 4) (fld w 26 1) (fld w 15 5) (fld w 10 5) (fld w 5 5) (fld w 2 3) (fld w 0 2))
  | 9 => some (.vexp2 (fld w 28 4) (fld w 26 1) (fld w 15 5) (fld w 10 5) (fld w 2 3) (fld w 1 1))
  | 10 => some (.vlog2 (fld w 28 4) (fld w 26 1) (fld w 15 5) (fld w 10 5) (fld w 2 3) (fld w 1 1))
  | 11 => some (.vrcp (fld w 28 4) (fld w 26 1) (fld w 15 5) (fld w 10 5) (fld w 2 3) (fld w 1 1))
  | 12 => some (.vrsq (fld w 28 4) (fld w 26 1) (fld w 15 5) (fld w 10 5) (fld w 2 3) (fld w 1 1))
  | 13 => some (.vtanh (fld w 28 4) (fld w 26 1) (fld w 15 5) (fld w 10 5) (fld w 2 3) (fld w 1 1))
  | 14 => some (.vscl (fld w 28 4) (fld w 26 1) (fld w 15 5) (fld w 10 5) (fld w 0 10))
  | 15 => some (.vabs (fld w 28 4) (fld w 26 1) (fld w 15 5) (fld w 10 5) (fld w 2 3) (fld w 1 1))
  | 16 => some (.viadd (fld w 28 4) (fld w 26 1) (fld w 15 5) (fld w 10 5) (fld w 5 5) (fld w 2 3) (fld w 0 2))
  | 17 => some (.visub (fld w 28 4) (fld w 26 1) (fld w 15 5) (fld w 10 5) (fld w 5 5) (fld w 2 3) (fld w 0 2))
  | 18 => some (.vimul (fld w 28 4) (fld w 26 1) (fld w 15 5) (fld w 10 5) (fld w 5 5) (fld w 2 3) (fld w 0 2))
  | 19 => some (.vand (fld w 28 4) (fld w 26 1) (fld w 15 5) (fld w 10 5) (fld w 5 5) (fld w 2 3) (fld w 0 2))
  | 20 => some (.vor (fld w 28 4) (fld w 26 1) (fld w 15 5) (fld w 10 5) (fld w 5 5) (fld w 2 3) (fld w 0 2))
  | 21 => some (.vxor (fld w 28 4) (fld w 26 1) (fld w 15 5) (fld w 10 5) (fld w 5 5) (fld w 2 3) (fld w 0 2))
  | 22 => some (.vshl (fld w 28 4) (fld w 26 1) (fld w 15 5) (fld w 10 5) (fld w 5 5) (fld w 2 3) (fld w 0 2))
  | 23 => some (.vshr (fld w 28 4) (fld w 26 1) (fld w 15 5) (fld w 10 5) (fld w 5 5) (fld w 2 3) (fld w 0 2))
  | 24 => some (.vsra (fld w 28 4) (fld w 26 1) (fld w 15 5) (fld w 10 5) (fld w 5 5) (fld w 2 3) (fld w 0 2))
  | 25 => some (.vimin (fld w 28 4) (fld w 26 1) (fld w 15 5) (fld w 10 5) (fld w 5 5) (fld w 2 3) (fld w 0 2))
  | 26 => some (.vimax (fld w 28 4) (fld w 26 1) (fld w 15 5) (fld w 10 5) (fld w 5 5) (fld w 2 3) (fld w 0 2))
  | 27 => some (.vcmp (fld w 28 4) (fld w 26 1) (fld w 15 3) (fld w 10 5) (fld w 5 5) (fld w 2 3) (fld w 0 2))
  | 28 => some (.vsel (fld w 28 4) (fld w 26 1) (fld w 15 5) (fld w 10 5) (fld w 5 5) (fld w 2 3) (fld w 0 2))
  | 29 => some (.vmlog (fld w 28 4) (fld w 26 1) (fld w 15 3) (fld w 10 5) (fld w 5 5) (fld w 0 2))
  | 30 => some (.vcvt (fld w 28 4) (fld w 26 1) (fld w 15 5) (fld w 10 5) (fld w 3 3) (fld w 0 2))
  | 31 => some (.vqnt (fld w 28 4) (fld w 26 1) (fld w 15 5) (fld w 10 5) (fld w 6 4) (fld w 3 3) (fld w 2 1) (fld w 0 2))
  | 32 => some (.vdqnt (fld w 28 4) (fld w 26 1) (fld w 15 5) (fld w 10 5) (fld w 6 4) (fld w 3 3) (fld w 2 1))
  | 33 => some (.vhad (fld w 28 4) (fld w 26 1) (fld w 15 5) (fld w 10 5) (fld w 6 4) (fld w 3 3) (fld w 2 1))
  | 34 => some (.vrotr (fld w 28 4) (fld w 26 1) (fld w 15 5) (fld w 10 5) (fld w 0 10))
  | 35 => some (.vrotc (fld w 28 4) (fld w 26 1) (fld w 15 5) (fld w 10 5) (fld w 0 10))
  | 36 => some (.vbcr (fld w 28 4) (fld w 26 1) (fld w 15 5) (fld w 10 5) (fld w 0 10))
  | 37 => some (.vbcc (fld w 28 4) (fld w 26 1) (fld w 15 5) (fld w 10 5) (fld w 0 10))
  | 38 => some (.vredr (fld w 28 4) (fld w 26 1) (fld w 15 5) (fld w 10 5) (fld w 0 2))
  | 39 => some (.vredc (fld w 28 4) (fld w 26 1) (fld w 15 5) (fld w 10 5) (fld w 0 2))
  | 40 => some (.vmov (fld w 28 4) (fld w 26 1) (fld w 15 5) (fld w 10 5) (fld w 2 3) (fld w 1 1))
  | 41 => some (.vldi (fld w 28 4) (fld w 26 1) (fld w 15 5) (fld w 0 10))
  | 42 => some (.viota (fld w 28 4) (fld w 26 1) (fld w 15 5) (fld w 0 10))
  | 43 => some (.vloopb (fld w 28 4) (fld w 26 1) (fld w 15 5) (fld w 10 5) (fld w 0 10))
  | 44 => some (.vloope (fld w 28 4) (fld w 26 1))
  | 45 => some (.vexit (fld w 28 4) (fld w 26 1) (fld w 2 3))
  | 46 => some (.vflag (fld w 28 4) (fld w 26 1))
  | _ => candidateCommon w

/-- The micro-order a word would be in the load engine by its OP alone (Table 4.8). -/
def candidateLoad (w : Word) : Option Instr :=
  match (fld w 20 6).toNat with
  | 1 => some (.ldring (fld w 28 4) (fld w 26 2) (fld w 16 4) (fld w 13 3) (fld w 11 2) (fld w 10 1) (fld w 0 4))
  | 2 => some (.ldq (fld w 28 4) (fld w 26 2) (fld w 16 4) (fld w 13 3) (fld w 11 2) (fld w 10 1) (fld w 4 4) (fld w 0 4))
  | _ => candidateCommon w

/-- The micro-order a word would be in the store engine by its OP alone (Table 4.8). -/
def candidateStore (w : Word) : Option Instr :=
  match (fld w 20 6).toNat with
  | 1 => some (.stq (fld w 28 4) (fld w 26 2) (fld w 16 4) (fld w 13 3) (fld w 11 2) (fld w 10 1) (fld w 4 4) (fld w 0 4))
  | 2 => some (.string (fld w 28 4) (fld w 26 2) (fld w 16 4) (fld w 13 3) (fld w 11 2) (fld w 10 1) (fld w 8 2) (fld w 4 4) (fld w 0 4))
  | 3 => some (.supd (fld w 28 4) (fld w 26 2) (fld w 16 4) (fld w 13 3) (fld w 11 2) (fld w 10 1) (fld w 4 4) (fld w 0 4))
  | 4 => some (.sqnt (fld w 28 4) (fld w 26 2) (fld w 16 4) (fld w 13 3) (fld w 10 3) (fld w 8 2) (fld w 7 1) (fld w 5 2) (fld w 1 4))
  | _ => candidateCommon w

/-- The instruction a word would be in a stream by its opcode fields alone. -/
def candidate (st : Stream) (w : Word) : Option Instr :=
  match st with
  | .driver => candidateDriver w
  | .engine .load => candidateLoad w
  | .engine .matrix => candidateMatrix w
  | .engine .vector => candidateVector w
  | .engine .store => candidateStore w

/-- Whether stream `st` has the instruction with these operands. -/
def Instr.legalIn (st : Stream) (i : Instr) : Bool :=
  i.wellFormed &&
    match st, i.engine with
    | .driver, none => !i.common
    | .driver, some _ => false
    | .engine e, some e' => e = e'
    | .engine e, none => commonOk e i

/-- The instruction of a word in a stream, or why there is none (R64, R71). -/
def decode (st : Stream) (w : Word) : Except Reject Instr :=
  match candidate st w with
  | none => .error .reservedOpcode
  | some i =>
    if encode i ≠ some w then .error .nonzeroZeroField
    else if i.legalIn st then .ok i
    else .error .excludedField

/-- The first stream in which a word is an instruction, in the order driver, matrix, load, store, vector:
the same 32 bits can be an order of several engines. -/
def streamOf (w : Word) : Stream :=
  let ok := fun st => match decode st w with
    | .ok _ => true
    | .error _ => false
  if ok .driver then .driver
  else if ok (.engine .matrix) then .engine .matrix
  else if ok (.engine .load) then .engine .load
  else if ok (.engine .store) then .engine .store
  else .engine .vector

/-- The instruction the decoder reads from a table row's bits: one little-endian word, bit 0 its least
significant bit (R59). -/
def decodeTableWord (_nbits w : Nat) : Option Instr :=
  let w := BitVec.ofNat 32 w
  match decode (streamOf w) w with
  | .ok i => some i
  | .error _ => none

end Sys2Proof
end

