-- ==== Sys2Proof/Machine/Store.lean ====
section
/-! DEFINITION. Cells, memory bytes and tables of objects: reading and writing them so that the list stays in
its one canonical form (numbers rising, no cell equal to the zero an unlisted cell holds). -/

namespace Sys2Proof

/-- The value of cell `a`; an unlisted cell holds zero (for memory: log 2). -/
def Cells.get {w : Nat} : Cells w → Nat → BitVec w
  | [], _ => 0
  | (k, v) :: r, a => if a < k then 0 else if a = k then v else Cells.get r a

/-- The cells from number `a` on. -/
def Cells.above {w : Nat} : Cells w → Nat → Cells w
  | [], _ => []
  | (k, v) :: r, a => if k < a then Cells.above r a else (k, v) :: r

/-- Cell `a` set to `v`; a zero removes the entry. -/
def Cells.set {w : Nat} : Cells w → Nat → BitVec w → Cells w
  | [], a, v => if v = 0 then [] else [(a, v)]
  | (k, x) :: r, a, v =>
    if a < k then (if v = 0 then (k, x) :: r else (a, v) :: (k, x) :: r)
    else if a = k then (if v = 0 then Cells.above r (a + 1) else (a, v) :: r)
    else (k, x) :: Cells.set r a v

/-- The cells below number `a`. -/
def Cells.below {w : Nat} : Cells w → Nat → Cells w
  | [], _ => []
  | (k, v) :: r, a => if k < a then (k, v) :: Cells.below r a else []

/-- A run of values from number `a` on, as cells. -/
def Cells.dense {w : Nat} : Nat → List (BitVec w) → Cells w
  | _, [] => []
  | a, v :: r => if v = 0 then Cells.dense (a + 1) r else (a, v) :: Cells.dense (a + 1) r

/-- Consecutive cells from `a` on set to the values of a list. -/
def Cells.setRange {w : Nat} (m : Cells w) (a : Nat) (vs : List (BitVec w)) : Cells w :=
  m.below a ++ (Cells.dense a vs ++ m.above (a + vs.length))

/-- The `n` cells from `a` on, read along a list that starts at or before `a`. -/
def Cells.run {w : Nat} : Cells w → Nat → Nat → List (BitVec w)
  | _, _, 0 => []
  | [], a, n + 1 => 0 :: Cells.run [] (a + 1) n
  | (k, v) :: r, a, n + 1 =>
    if k = a then v :: Cells.run (Cells.above r (a + 1)) (a + 1) n else 0 :: Cells.run ((k, v) :: r) (a + 1) n

/-- The `n` consecutive cells from `a` on. -/
def Cells.getRange {w : Nat} (m : Cells w) (a n : Nat) : List (BitVec w) := Cells.run (m.above a) a n

/-- Several cells set, one after another. -/
def Cells.setMany {w : Nat} (m : Cells w) (vs : List (Nat × BitVec w)) : Cells w :=
  vs.foldl (fun m p => m.set p.1 p.2) m

/-- The canonical form: numbers strictly rising from `lo`, no zero. -/
def Cells.wfFrom {w : Nat} : Nat → Cells w → Bool
  | _, [] => true
  | lo, (k, v) :: r => lo ≤ k && v ≠ 0 && Cells.wfFrom (k + 1) r

/-- The canonical form of a cell list. -/
def Cells.wf {w : Nat} (m : Cells w) : Bool := m.wfFrom 0

/-- Memory: bytes by address. -/
abbrev Memory := Cells 8

/-- The one canonical form of a memory. -/
abbrev Memory.wf (m : Memory) : Bool := Cells.wf m

/-- The number whose little-endian bytes are the list (R36, R59). -/
def leNat : List Byte → Nat
  | [] => 0
  | b :: r => b.toNat + 256 * leNat r

/-- The `n` little-endian bytes of a number. -/
def leBytes : Nat → Nat → List Byte
  | 0, _ => []
  | n + 1, v => BitVec.ofNat 8 v :: leBytes n (v / 256)

/-- The `n` bytes at an address as a number, little-endian. -/
def Memory.readLE (m : Memory) (a n : Nat) : Nat := leNat (Cells.getRange m a n)

/-- The `n` little-endian bytes of `v` stored at an address. -/
def Memory.writeLE (m : Memory) (a n v : Nat) : Memory := Cells.setRange m a (leBytes n v)

/-- The little-endian words of a byte list. -/
def wordsOf : List Byte → List Word
  | a :: b :: c :: d :: r => BitVec.ofNat 32 (leNat [a, b, c, d]) :: wordsOf r
  | _ => []

/-- The little-endian bytes of a word list. -/
def bytesOf (ws : List Word) : List Byte := ws.flatMap (fun w => leBytes 4 w.toNat)

/-- The object under number `k`. -/
def Table.find {α : Type} : Table α → Nat → Option α
  | [], _ => none
  | (j, v) :: r, k => if k = j then some v else Table.find r k

/-- The object under number `k` put in its place. -/
def Table.put {α : Type} : Table α → Nat → α → Table α
  | [], k, v => [(k, v)]
  | (j, x) :: r, k, v =>
    if k = j then (k, v) :: r else if k < j then (k, v) :: (j, x) :: r else (j, x) :: Table.put r k v

/-- The table without number `k`. -/
def Table.drop {α : Type} (t : Table α) (k : Nat) : Table α := t.filter (fun p => p.1 ≠ k)

/-- A number above every number of the table. -/
def Table.fresh {α : Type} (t : Table α) : Nat := t.foldl (fun n p => max n (p.1 + 1)) 0

end Sys2Proof
end

