-- ==== Sys2Proof/Machine/Arith.lean ====
section
/-! DEFINITION. Exact arithmetic and rounding (02, R31 to R33, R39 to R43, R52): a number is a NaN, an
infinity, or an integer times a power of two, and every operation is exact until one rounding. -/

namespace Sys2Proof

/-- An exact number: `fin neg m e` is m * 2^e with the sign of m; `neg` is the sign of a zero. -/
inductive Num where
  | nan
  | inf (neg : Bool)
  | fin (neg : Bool) (m : Int) (e : Int)
  deriving DecidableEq, Repr

/-- The rounding modes (R39): SR adds u / 2^32. -/
inductive Rnd where
  | rne
  | rtz
  | sr (u : Nat)
  deriving DecidableEq, Repr

/-- Special encodings of a format (Table 2.1). -/
inductive Special where
  | ieee | e4m3 | none
  deriving DecidableEq, Repr

/-- A floating-point format (R31). -/
structure FpFmt where
  eb : Nat
  fb : Nat
  bias : Nat
  special : Special
  deriving DecidableEq, Repr

def fp32 : FpFmt := ⟨8, 23, 127, .ieee⟩
def bf16 : FpFmt := ⟨8, 7, 127, .ieee⟩
def fp16 : FpFmt := ⟨5, 10, 15, .ieee⟩
def e4m3 : FpFmt := ⟨4, 3, 7, .e4m3⟩
def e5m2 : FpFmt := ⟨5, 2, 15, .ieee⟩
def e2m1 : FpFmt := ⟨2, 1, 1, .none⟩

/-- Largest exponent field and bits without sign. -/
def FpFmt.emax (f : FpFmt) : Nat := 2 ^ f.eb - 1
def FpFmt.signBit (f : FpFmt) : Nat := 2 ^ (f.eb + f.fb)

/-- Bits of the largest finite value (Table 2.1). -/
def FpFmt.maxBits (f : FpFmt) : Nat :=
  match f.special with
  | .ieee => f.emax * 2 ^ f.fb - 1
  | .e4m3 => f.signBit - 2
  | .none => f.signBit - 1

/-- Bits of the canonical NaN (R32); FP4E2M1 has none and takes +0 (log 6). -/
def FpFmt.nanBits (f : FpFmt) : Nat :=
  match f.special with
  | .ieee => f.emax * 2 ^ f.fb + 2 ^ (f.fb - 1)
  | .e4m3 => f.signBit - 1
  | .none => 0

/-- Exponent of the smallest subnormal. -/
def FpFmt.qmin (f : FpFmt) : Int := 1 - (f.bias : Int) - f.fb

/-- The value of an encoding (R31). -/
def FpFmt.decode (f : FpFmt) (bits : Nat) : Num :=
  let neg := f.signBit ≤ bits % (2 * f.signBit)
  let body := bits % f.signBit
  let e := body / 2 ^ f.fb
  let m := body % 2 ^ f.fb
  let sgn := fun (n : Nat) => if neg then -(n : Int) else (n : Int)
  if f.special = .ieee ∧ e = f.emax then (if m = 0 then .inf neg else .nan)
  else if f.special = .e4m3 ∧ body = f.signBit - 1 then .nan
  else if e = 0 then .fin neg (sgn m) f.qmin
  else .fin neg (sgn (m + 2 ^ f.fb)) (f.qmin + e - 1)

/-- One rounding of the non-negative quotient num / den to an integer (R39). -/
def roundQuot (r : Rnd) (num den : Nat) : Nat :=
  match r with
  | .rne =>
    let q := num / den
    let t := 2 * (num % den)
    if t > den ∨ (t = den ∧ q % 2 = 1) then q + 1 else q
  | .rtz => num / den
  | .sr u => (num * 4294967296 + u * den) / (den * 4294967296)

/-- num / den of any sign rounded to an integer, the sign kept (R39). -/
def roundInt (r : Rnd) (num : Int) (den : Nat) : Int :=
  let q : Int := roundQuot r num.natAbs den
  if num < 0 then -q else q

/-- Which flag a conversion raises (Table 2.5). -/
inductive Flag where
  | none | ovf | sat
  deriving DecidableEq, Repr

/-- The magnitude (num / den) * 2^e rounded to bits of format `f` without sign; may pass the largest
finite value. -/
def FpFmt.roundMag (f : FpFmt) (r : Rnd) (num den : Nat) (e : Int) : Nat :=
  if num = 0 then 0
  else
    let lead : Int := (Nat.log2 (num * 2 ^ (den.log2 + 1) / den) : Int) - (den.log2 + 1) + e
    let q := max (lead - f.fb) f.qmin
    let m := if e ≥ q then roundQuot r (num * 2 ^ (e - q).toNat) den
             else roundQuot r num (den * 2 ^ (q - e).toNat)
    (q - f.qmin).toNat * 2 ^ f.fb + m

/-- The bits of a rounded value with its overflow rule and flag (R39, R41, Table 2.5). -/
def FpFmt.finish (f : FpFmt) (r : Rnd) (sat neg : Bool) (mag : Nat) : Nat × Flag :=
  let s := if neg then f.signBit else 0
  if mag ≤ f.maxBits then (s + mag, .none)
  else if sat then (s + f.maxBits, .sat)
  else match r with
    | .rtz => (s + f.maxBits, .none)
    | _ => match f.special with
      | .ieee => (s + f.emax * 2 ^ f.fb, .ovf)
      | .e4m3 => (f.nanBits, .ovf)
      | .none => (s + f.maxBits, .ovf)

/-- Conversion of an exact number to a format (R39, R41, R42); a NaN or infinity that FP8E4M3 and FP4E2M1
cannot hold outside a block: log 6. -/
def FpFmt.round (f : FpFmt) (r : Rnd) (sat : Bool) : Num → Nat × Flag
  | .nan => (f.nanBits, .none)
  | .inf neg =>
    let s := if neg then f.signBit else 0
    match f.special with
    | .ieee => (s + f.emax * 2 ^ f.fb, .none)
    | .e4m3 => (f.nanBits, .none)
    | .none => (s + f.maxBits, .none)
  | .fin neg m e =>
    if m = 0 then ((if neg then f.signBit else 0), .none)
    else f.finish r sat (m < 0) (f.roundMag r m.natAbs 1 e)

/-- The exact product (R52: infinity times zero is a NaN). -/
def Num.mul : Num → Num → Num
  | .nan, _ => .nan
  | _, .nan => .nan
  | .inf s, .inf t => .inf (s != t)
  | .inf s, .fin t m _ => if m = 0 then .nan else .inf (s != t)
  | .fin t m _, .inf s => if m = 0 then .nan else .inf (s != t)
  | .fin s m e, .fin t n d => .fin (s != t) (m * n) (e + d)

/-- The exact sum; opposing infinities give a NaN, opposite finite numbers +0 (R39). -/
def Num.add : Num → Num → Num
  | .nan, _ => .nan
  | _, .nan => .nan
  | .inf s, .inf t => if s = t then .inf s else .nan
  | .inf s, .fin _ _ _ => .inf s
  | .fin _ _ _, .inf s => .inf s
  | .fin s m e, .fin t n d =>
    let q := min e d
    let k := m * 2 ^ (e - q).toNat + n * 2 ^ (d - q).toNat
    if k = 0 then .fin (s && t) 0 q else .fin (k < 0) k q

def Num.neg : Num → Num
  | .nan => .nan
  | .inf s => .inf (!s)
  | .fin s m e => .fin (!s) (-m) e

def Num.sub (a b : Num) : Num := a.add b.neg

/-- A number times 2^k. -/
def Num.scale : Num → Int → Num
  | .fin s m e, k => .fin s m (e + k)
  | x, _ => x

def Num.ofInt (i : Int) : Num := .fin (i < 0) i 0
def Num.zero : Num := .fin false 0 0

def Num.isFinite : Num → Bool
  | .fin .. => true
  | _ => false

def Num.isNaN : Num → Bool
  | .nan => true
  | _ => false

/-- The order of exact numbers; false with a NaN; -0 equals +0. -/
def Num.lt : Num → Num → Bool
  | .nan, _ => false
  | _, .nan => false
  | .inf s, .inf t => s && !t
  | .inf s, .fin .. => s
  | .fin .., .inf t => !t
  | .fin _ m e, .fin _ n d =>
    let q := min e d
    m * 2 ^ (e - q).toNat < n * 2 ^ (d - q).toNat

def Num.eq : Num → Num → Bool
  | .inf s, .inf t => s = t
  | .fin _ m e, .fin _ n d =>
    let q := min e d
    m * 2 ^ (e - q).toNat = n * 2 ^ (d - q).toNat
  | _, _ => false

/-- A word read as FP32. -/
def f32 (w : Word) : Num := fp32.decode w.toNat

/-- An exact number rounded RNE to FP32. -/
def toF32 (x : Num) : Word := BitVec.ofNat 32 (fp32.round .rne false x).1

def f32nan : Word := 0x7FC00000#32

def f32finite (w : Word) : Bool := w.extractLsb' 23 8 ≠ 0xFF#8
def f32isNaN (w : Word) : Bool := w.extractLsb' 23 8 = 0xFF#8 && w.extractLsb' 0 23 ≠ 0#23

def fadd (a b : Word) : Word := toF32 ((f32 a).add (f32 b))
def fsub (a b : Word) : Word := toF32 ((f32 a).sub (f32 b))
def fmul (a b : Word) : Word := toF32 ((f32 a).mul (f32 b))

/-- a * b + c with one rounding. -/
def ffma (a b c : Word) : Word := toF32 (((f32 a).mul (f32 b)).add (f32 c))

/-- c - a * b with one rounding. -/
def ffms (a b c : Word) : Word := toF32 ((f32 c).sub ((f32 a).mul (f32 b)))

/-- MulZ (R43): a zero operand always gives zero. -/
def mulZ (a b : Word) : Word :=
  let az := a.extractLsb' 0 31 = 0#31
  let bz := b.extractLsb' 0 31 = 0#31
  let sgn : Word := if a.msb != b.msb then 0x80000000#32 else 0
  if az then (if f32finite b then sgn else 0)
  else if bz then (if f32finite a then sgn else 0)
  else fmul a b

/-- Key that orders FP32 numbers with -0 below +0 (R158). -/
def fkey (w : Word) : Int := if w.msb then -(w.toNat % 2147483648 : Nat) - 1 else (w.toNat : Int)

def fmin (a b : Word) : Word :=
  if f32isNaN a || f32isNaN b then f32nan else if fkey a ≤ fkey b then a else b

def fmax (a b : Word) : Word :=
  if f32isNaN a || f32isNaN b then f32nan else if fkey b ≤ fkey a then a else b

/-- Mix64 (R40). -/
def mix64 (seed counter : DWord) : DWord :=
  let x := seed ^^^ (counter * 0x9E3779B97F4A7C15#64)
  let x := x ^^^ (x >>> 30)
  let x := x * 0xBF58476D1CE4E5B9#64
  let x := x ^^^ (x >>> 27)
  let x := x * 0x94D049BB133111EB#64
  x ^^^ (x >>> 31)

/-- u of an SR rounding: the upper half of Mix64(RNGSEED, c), c = e + 4,096 n (R39, R40). -/
def srDraw (seed : DWord) (n e : Nat) : Nat :=
  (mix64 seed (BitVec.ofNat 64 (e + 4096 * n)) >>> 32).toNat

/-- floor(log2 |x|) of a nonzero finite number. -/
def Num.log2 : Num → Int
  | .fin _ m e => (m.natAbs.log2 : Int) + e
  | _ => 0

/-- The maximum over a list, or `d` for an empty one. -/
def maxInt (d : Int) (l : List Int) : Int := l.foldl max d

/-- Adjacent pairs combined: one level of a reduction tree (R53). -/
def pairUp {α : Type} (f : α → α → α) : List α → List α
  | a :: b :: r => f a b :: pairUp f r
  | l => l

/-- `n` levels of pairwise combination (R53). -/
def reduceLevels {α : Type} (f : α → α → α) : Nat → List α → List α
  | 0, l => l
  | n + 1, l => reduceLevels f n (pairUp f l)

end Sys2Proof
end

