-- ==== Sys2Proof/Machine/State.lean ====
section
/-! DEFINITION. The state of one HX7 package: every core, the device around it, the steps that are due and
the inputs from outside. INVENTORY.md names the rule and the reset value of each piece. Cycle fields of a
core count timetable time (R281) unless a line says otherwise. -/

namespace Sys2Proof.Machine

/-- Why a step of the machine stops for good. -/
inductive Fault where
  /-- raised by a step in boot phase 15 (R331): the device has stopped, and no device reset is to come; safe, the spec says so
  -/
  | bootFailed
  deriving DecidableEq, Repr

/-- Why a step has no meaning. -/
inductive Refusal where
  /-- an instruction of the table with no meaning in the model; safe -/
  | notModelled (mnemonic : String)
  deriving DecidableEq, Repr

/-! ### One core -/

/-- Table 6.2. -/
inductive EngStatus where
  | stopped | armed | running | done
  deriving DecidableEq, Repr

/-- One ELOOP in progress: first and last step of the body and the passes left after this one (R187). -/
structure Loop where
  first : Nat
  last : Nat
  left : Nat
  deriving DecidableEq, Repr

/-- One engine (R11, R12, R55, R109). -/
structure Engine where
  status : EngStatus
  /-- start cycle; in free mode the offset from the coming departure -/
  start : Nat
  step : BitVec 10
  bank : Bool
  /-- word i of bank b at 1024 b + i -/
  table : Cells 32
  /-- poisoned table words (R276) -/
  bad : Cells 1
  lc : Vector Half 2
  loops : List Loop
  /-- SR-rounding operations issued (R40) -/
  sr : Word
  /-- next order issues at base + its DLY, or at base when it is the first after TSTART -/
  base : Nat
  first : Bool
  /-- functional unit busy up to, not including, this cycle -/
  busy : Nat
  ag : Vector Agen 8
  /-- issue cycle, counted from 1, of the last AGSET of each generator whose descriptor has been read (R108) -/
  agSet : Vector Nat 8
  deriving DecidableEq, Repr

def Engine.reset : Engine :=
  { status := .stopped, start := 0, step := 0, bank := false, table := [], bad := [],
    lc := Vector.replicate 2 0, loops := [], sr := 0, base := 0, first := false, busy := 0,
    ag := Vector.replicate 8 ⟨0, 0, 0, 1, 1, 0⟩, agSet := Vector.replicate 8 0 }

/-- One operand ring (Tables 1.5 and 1.6, R178). -/
structure Ring where
  base : BitVec 20
  slot : BitVec 8
  count : BitVec 7
  head : BitVec 6
  tail : BitVec 6
  seqIn : Half
  seqOut : Half
  swz : BitVec 7
  fill : Nat
  /-- template of the slot being filled and whether it was read poisoned; the order that filled it last, as engine and
  table word (the model's own) -/
  template : Word
  templateBad : Bool
  filler : Eng
  site : Nat
  /-- beats of the slot being filled that are not yet written, and how often the ring was cleared (the
  model's own) -/
  writes : Nat
  gen : Nat
  /-- tag words, one a slot -/
  tags : Cells 32
  /-- poisoned tag words -/
  bad : Cells 1
  deriving DecidableEq, Repr

def Ring.reset : Ring :=
  { base := 0, slot := 1, count := 1, head := 0, tail := 0, seqIn := 0, seqOut := 0, swz := 0, fill := 0,
    template := 0, templateBad := false, filler := .load, site := 0, writes := 0, gen := 0, tags := [], bad := [] }

/-- What holds the driver's issue besides a cycle (R80, R100 to R107, R123, R129, R131, R133). -/
inductive Hold where
  | descriptor (op : Nat)
  | fence (mask : BitVec 5)
  | xfence (mask : BitVec 5)
  | waits (target : DWord)
  | wfi
  | lease
  | depart
  | pin
  | tlbinv
  /-- handed over to the walker for a save (R243) -/
  | saved
  /-- EXIT (R130) -/
  | exited
  /-- halted signal box (R270) -/
  | halted
  /-- stopped by a fault (R273) -/
  | stopped
  deriving DecidableEq, Repr

/-- A trap for an uncorrectable word that the driver takes once the hold of its issue ends (R97, R100, R101): PC and
address of the access, Station Clock cycle of the read. -/
structure LateTrap where
  pc : Half
  va : DWord
  cyc : Nat
  /-- not such a word but a lease-wait pre-emption, which waits for the end of an AMO's fence (R98, R242) -/
  lease : Bool
  deriving DecidableEq, Repr

/-- The scalar control core (R10, R80 to R82). -/
structure Driver where
  g : Vector DWord 32
  p : BitVec 8
  x : Vector Word 32
  pc : Half
  code : Memory
  /-- cycle of the next issue -/
  ready : Nat
  hold : Option Hold
  /-- registers that an outstanding load has yet to write (R81) -/
  owedG : List Nat
  owedX : List Nat
  /-- cycle from which the last own write of a register is visible (R82) -/
  wroteG : Vector Nat 32
  wroteX : Vector Nat 32
  /-- Station Clock cycles from which the next untimed load and store may perform (R227) -/
  loadFree : Nat
  storeFree : Nat
  /-- Station Clock cycle from which an access behind a MARK that has left the queues may perform (R219) -/
  markFree : Nat
  /-- traps that wait for the end of a hold, in the order of their reads -/
  late : List LateTrap
  /-- instructions whose guard copy differs: PC and timetable cycle of the compare (R275) -/
  mismatch : List (Half × Nat)
  /-- trapped to TVEC with no instruction issued since (R270) -/
  entered : Bool
  deriving DecidableEq, Repr

/-- CSRs held as registers; VSTAT, LEASESET and the growth registers are views of other state. -/
structure Csrs where
  status : DWord
  cause : DWord
  epc : DWord
  faultInfo : DWord
  faultCyc : DWord
  faultVa : DWord
  sscratch : DWord
  tvec : DWord
  ctxid : DWord
  pgroot : DWord
  coreix : DWord
  region : DWord
  depart : DWord
  plevel : DWord
  variant : DWord
  pointstat : DWord
  slewstep : DWord
  mstat : DWord
  rngseed : DWord
  energy : DWord
  ectl : DWord
  eres : DWord
  estatic : DWord
  ewt : Vector DWord 8
  holdcnt : DWord
  cecnt : DWord
  deriving DecidableEq, Repr

/-- Values a driver write has not reached engine work with yet are the CSRs'; these are the ones engine
work sees (R27). -/
structure EngineView where
  rngseed : DWord
  slewstep : DWord
  ectl : DWord
  estatic : DWord
  ewt : Vector DWord 8
  deriving DecidableEq, Repr

/-- A word of the waybill or parameter queue. -/
structure Pushed where
  word : Word
  bad : Bool
  deriving DecidableEq, Repr

/-- Queues and FIFOs (Table 1.4). A token is the cycle from which it can be popped. -/
structure Queues where
  waybill : List Pushed
  param : List Pushed
  /-- pushes the driver issued that have not taken effect -/
  waybillIn : Nat
  paramIn : Nat
  vq : Vector (List Entry) 4
  oq : Vector (List Entry) 4
  token : Vector (List Nat) 6
  /-- tokens popped in a cycle, and the cycle (R186) -/
  popped : Vector (Nat × Nat) 6
  deriving DecidableEq, Repr

/-- One stationary slot (R18, R34, R141). Element (k, j) at 64 k + j, as the bits of its format, or as the
integer q - z of a group in two's complement; scale of block or group h of column j at 64 h + j. -/
structure Slot where
  fmt : BitVec 4
  grp : BitVec 2
  tag : Tag
  elems : Cells 32
  bad : Cells 1
  scale : Cells 16
  /-- group code and the column sums of each group, or absent; poisoned sums, numbered alike -/
  corr : Option (BitVec 2 × Cells 32)
  corrBad : Cells 1
  deriving DecidableEq, Repr

def Slot.reset : Slot :=
  { fmt := 0, grp := 0, tag := Tag.none, elems := [], bad := [], scale := [], corr := none, corrBad := [] }

/-- Pending half of a 128-group (R144): P per cell, the sum of S per column, and the poisoned cells. -/
structure Carry where
  sum : Cells 32
  corr : Cells 32
  bad : Cells 1
  deriving DecidableEq, Repr

/-- One open milestone window (R149, R278). -/
structure Window where
  tile : Nat
  opened : Nat
  replayable : Bool
  /-- its MDRAIN has issued -/
  draining : Bool
  shadow : Cells 32
  shadowBad : Cells 1
  /-- ring slots taken while it is open, released when the last window that holds them closes -/
  held : List (Nat × Nat)
  /-- slots its products read and tiles used as left operands, each with the issue cycle of the order that did so -/
  reads : List (Nat × Nat)
  leftTiles : List (Nat × Nat)
  deriving DecidableEq, Repr

/-- A matrix order whose feed or result is still on its way (R135, R340, R141, R147, R148, R150). -/
structure MatrixJob where
  order : Instr
  issue : Nat
  /-- bank and index of its word -/
  site : Nat
  waybill : Word
  tile : Nat
  /-- ring and slot of the feed or of the drain; 16 when the ring has been cleared since -/
  ring : Nat
  slot : Nat
  /-- first byte of the ring slot, its swizzle and its tag word -/
  base : Nat
  swz : BitVec 7
  tag : Word
  /-- the slot is released after its last beat (R17) -/
  release : Bool
  /-- bytes the feed has read, by byte of the slot, and their poisoned words -/
  bytes : Memory
  bad : Cells 1
  beatsLeft : Nat
  /-- beats of the feed that have been read (R340) -/
  came : List Nat
  /-- sign seed as it stood at issue -/
  seed : Word
  /-- left operand, element (i, k) at 64 i + k, and the stationary slot -/
  left : Slot
  right : Slot
  /-- first half of a 128-group: its sums, and in the second half the job of the first (R144) -/
  carry : Option Carry
  first : Option Nat
  /-- MITER: iterations asked for, RNGSEED as its sub-steps draw with it, and whether `seed`, its first coefficient, is
  poisoned (R15, R27, R276) -/
  count : Nat
  rng : DWord
  seedBad : Bool
  /-- its last visibility has passed; beats of its feed may still come late (R340) -/
  seen : Bool
  deriving DecidableEq, Repr

/-- Tiles, slots and their bookkeeping (R18, R19, R144, R149). Cell (i, j) of tile t at 4096 t + 64 i + j. -/
structure MatrixStore where
  acc : Cells 32
  bad : Cells 1
  slots : Vector Slot 4
  growth : Vector Byte 64
  /-- tiles with a carry pending, and the job that holds it -/
  carry : Table Nat
  windows : List Window
  jobs : Table MatrixJob
  /-- last visibility cycle owed (R128, R152) -/
  owed : Nat
  /-- intervals of cycles with k-steps, and the counts of the last window (R252) -/
  ksteps : List (Nat × Nat)
  lastCount : Nat
  /-- issue of the MLDS that filled each slot, and the tiles that products have written from it since (R279) -/
  loadedAt : Vector (Option Nat) 4
  usedFor : Vector (List Nat) 4
  /-- tile that each slot was promoted from, and the tiles written from another tile since that was last written whole:
  pairs of source and destination (R279) -/
  madeFrom : Vector (Option Nat) 4
  drawn : List (Nat × Nat)
  deriving DecidableEq, Repr

/-- The vector loop (R168 to R170). -/
structure VLoop where
  head : Nat
  passes : Nat
  stages : Nat
  pass : Nat
  /-- step of its VLOOPE, once met -/
  tail : Option Nat
  deriving DecidableEq, Repr

/-- Vector registers (word 64 r + c of register n at 1024 n + 64 r + c), masks (row r of mask n at
16 n + r) and the flags (R21, R22). -/
structure VectorStore where
  v : Cells 32
  bad : Cells 1
  m : Cells 64
  sp : Byte
  rrb : BitVec 4
  vnf : Bool
  vloop : Option VLoop
  /-- RRB, stage predicates and LOOP as a driver reads them before cycle `loopFrom`: a loop order has its effect one cycle
  after its issue (R27, R157, R216) -/
  before : BitVec 4 × Byte × Bool
  loopFrom : Nat
  /-- last visibility cycle owed -/
  owed : Nat
  deriving DecidableEq, Repr

/-- What a granted bank claim does (R92, R93, R107, R176, R199). -/
inductive Act where
  /-- LDS or an XILD group: `n` words or one datum of `size` bytes at `addr` into g or x registers -/
  | load (toX : Bool) (reg addr size n : Nat) (pc : Half)
  | descriptor (op group addr n : Nat)
  | store (addr size : Nat) (v : DWord)
  | read (addr n : Nat) (dest : BeatDest)
  | write (addr : Nat) (data : Payload) (done : BeatDone)
  | copyRead (copy u : Nat)
  | copyWrite (copy u : Nat)
  | rowRead (cmd word addr n : Nat)
  | rowWrite (addr : Nat) (data : Payload)
  | leaseRead (cmd addr n : Nat)
  | leaseWrite (cmd addr : Nat) (data : Payload)
  deriving DecidableEq, Repr

/-- A bank claim that waits (R194, R195). -/
structure Claim where
  asked : Nat
  rank : Nat
  block : Nat
  banks : Byte
  /-- banks of the next block, for a group that crosses into it -/
  banks2 : Byte
  act : Act
  deriving DecidableEq, Repr

/-- A bank assigned up to, not including, a cycle (R93, R195). -/
structure Assigned where
  block : Nat
  banks : Byte
  until_ : Nat
  deriving DecidableEq, Repr

/-- A lane, or the store engine's arithmetic stage as number 8, held by an engine's order from one cycle up to,
not including, another (R177, R193). -/
structure LaneHold where
  lane : Nat
  eng : Eng
  from_ : Nat
  until_ : Nat
  deriving DecidableEq, Repr

/-- The scratchpad and its arbiter (R191 to R195, R276). -/
structure Scratch where
  mem : Memory
  bad : Cells 1
  claims : List Claim
  assigned : List Assigned
  lanes : List LaneHold
  deriving DecidableEq, Repr

/-- An LDQ or SUPD or SQNT in flight: what its beats have brought (R180, R184, R185). -/
structure MoveJob where
  order : Instr
  issue : Nat
  addr : Nat
  queue : Nat
  beats : Nat
  lane : Nat
  entry : Entry
  words : Cells 32
  bad : Cells 1
  left : Nat
  /-- cycle in which the last beat so far reaches the station -/
  arrive : Nat
  site : Nat
  deriving DecidableEq, Repr

/-- A driver instruction that reads a descriptor (R107): its operands, what has been read so far. -/
structure DescOp where
  /-- its number among the core's descriptor reads -/
  id : Nat
  instr : Instr
  pc : Half
  issue : Nat
  addr : Nat
  va : DWord
  vb : DWord
  vd : DWord
  xs : List Word
  flag : Bool
  need : Nat
  got : Nat
  words : Cells 32
  bad : Cells 1
  free : Bool
  /-- the guard's copy differs: nothing it sends takes effect (R275) -/
  void : Bool
  deriving DecidableEq, Repr

/-- Kinds of untimed access (R97 to R99). -/
inductive AccessKind where
  | load | store | amo | mark
  deriving DecidableEq, Repr

/-- One entry of the driver's load and store queues (R97). -/
structure Access where
  id : Nat
  kind : AccessKind
  pc : Half
  va : DWord
  pa : Nat
  size : Nat
  reg : Nat
  value : DWord
  cmp : DWord
  op : BitVec 3
  obs : BitVec 5
  /-- performed at its front buffer -/
  performed : Bool
  /-- waits for an open window of its pseudo-channel (R207) -/
  queued : Bool
  /-- waits in the die's replay queue (R214) -/
  replay : Bool
  /-- own-die depot with the translation at hand: the figures of Table 13.1 hold (R227) -/
  fixed : Bool
  /-- Station Clock cycle before which it may not perform; of a MARK, before which nothing behind it may (R219) -/
  free : Nat
  /-- core and number of the access released from the replay queue just before it, which performs first (R214) -/
  behind : Option (Nat × Nat)
  /-- page-table entries that its walk has still to read (R207, R212) -/
  walk : List Nat
  deriving DecidableEq, Repr

/-- One lease (R122 to R124, R255 to R257). -/
structure Lease where
  kind : BitVec 3
  boost : Nat
  inst : Nat
  ready : Bool
  evict : Bool
  /-- powered off by a thermal trip (R258) -/
  off : Bool
  expired : Bool
  /-- number of its grant (the model's own) -/
  serial : Nat
  deriving DecidableEq, Repr

/-- One pinned span (R24, R119): frames of 64 KiB pages in order, or one of 512 MiB. -/
structure Span where
  write : Bool
  vbase : Nat
  extent : Nat
  big : Bool
  frames : List Nat
  deriving DecidableEq, Repr

/-- One row-engine command (R126, R127). -/
structure RowCmd where
  op : Nat
  src : Nat
  dst : Nat
  aux : Nat
  rows : Nat
  len : Nat
  stride : Nat
  c : Word
  start : Nat
  /-- words read so far: word i of row n at 16384 n + i, AUX[n] at 2^26 + n -/
  words : Cells 32
  bad : Cells 1
  /-- rows begun -/
  begun : Nat
  deriving DecidableEq, Repr

/-- A window slot given to a 64-byte HBM unit of a command: its Station Clock cycle, moved by holds (R205). -/
structure Booked where
  pc : Nat
  cycle : Nat
  unit : Nat
  write : Bool
  deriving DecidableEq, Repr

/-- An interlocking engine's current sequence (R291). -/
structure Sequence where
  state : BitVec 20
  stalled : Bool
  sp : Nat
  step : DWord
  dead : BitVec 18
  stack : Cells 12
  /-- progress that IL.SAVE has not stored (R258) -/
  dirty : Bool
  deriving DecidableEq, Repr

/-- One leased-engine command (R125, R287). -/
structure LeasedCmd where
  op : Nat
  lease : Nat
  /-- grant under which it was issued -/
  serial : Nat
  inst : Nat
  reg : Nat
  desc : List Word
  operand : DWord
  seed : DWord
  start : Nat
  finish : Option Nat
  /-- memory as read at the start, and scratchpad bytes read -/
  depot : Memory
  depotBad : Cells 1
  local_ : Memory
  localBad : Cells 1
  spanA : Option Span
  spanB : Option Span
  spanL : Option Span
  /-- shunter: slots given to its HBM units, list or bitmap bytes, rows moved or skipped -/
  slots : List Booked
  list : Memory
  rows : Nat
  /-- results: the status word, the sequence it leaves, bytes for a span offset at a cycle -/
  status : Option DWord
  seqOut : Option Sequence
  depotOut : List (Nat × Span × Nat × Payload)
  deriving DecidableEq, Repr

/-- What the walker and the combiner know of a core (R28, R129, R241, R280). -/
structure Place where
  /-- graph slot of the timetable that holds the core -/
  node : Option Nat
  /-- segment that runs, or the one a DEPART has arrived for -/
  segment : Nat
  /-- entry of the point directory the free code stands at -/
  point : Option Nat
  arrived : Bool
  fired : Bool
  /-- first Station Clock cycle in which the context is resident (R260) -/
  resident : Option Nat
  /-- tables that reached DONE before the last point (R130) -/
  doneAtPoint : Bool
  hshift : Nat
  /-- no issue before this Station Clock cycle (hold, R280) -/
  frozenUntil : Nat
  /-- Station Clock cycle from which nothing issues (stop pulse, R273) -/
  stopAt : Option Nat
  /-- a hold, a lowered grant since the previous point (R29) -/
  heldSince : Bool
  throttled : Bool
  deriving DecidableEq, Repr

/-- One core, timetable core or signal box. -/
structure Core where
  drv : Driver
  csr : Csrs
  view : EngineView
  eng : Vector Engine 4
  q : Queues
  ring : Vector Ring 16
  mx : MatrixStore
  vec : VectorStore
  ss : Vector Word 16
  pad : Scratch
  moves : Table MoveJob
  ops : Table DescOp
  acc : List Access
  /-- page-table entries that the walk of the instruction on which the driver is held has still to read (R207, R212) -/
  walk : List Nat
  lease : Vector (Option Lease) 8
  span : Table Span
  /-- spans emptied by XUNPIN whose pins commands still hold (R120): the span, its number -/
  unpinned : List (Nat × Span)
  rows : Table RowCmd
  /-- end of the row engine's occupancy -/
  rowBusy : Nat
  leased : Table LeasedCmd
  seqs : Table Sequence
  /-- COLLs issued so far, by group (R312) -/
  colls : Table Nat
  place : Place
  /-- events of each class in this cycle (R259) -/
  charge : Vector Nat 8
  deriving DecidableEq, Repr

def Driver.reset : Driver :=
  { g := Vector.replicate 32 0, p := 0, x := Vector.replicate 32 0, pc := 0, code := [], ready := 0,
    hold := none, owedG := [], owedX := [], wroteG := Vector.replicate 32 0,
    wroteX := Vector.replicate 32 0, loadFree := 0, storeFree := 0, markFree := 0, late := [], mismatch := [],
    entered := false }

/-- Table 1.9: the values at a first departure (log 1 for those set at load or departure). -/
def Csrs.reset : Csrs :=
  { status := 1, cause := 0, epc := 0, faultInfo := 0, faultCyc := 0, faultVa := 0, sscratch := 0,
    tvec := 0, ctxid := 0, pgroot := 0, coreix := 0, region := 0, depart := 0, plevel := 0, variant := 0,
    pointstat := 0, slewstep := 0, mstat := 0, rngseed := 0, energy := 0, ectl := 0x1FF00, eres := 0,
    estatic := 0, ewt := Vector.replicate 8 0, holdcnt := 0, cecnt := 0 }

def EngineView.reset : EngineView :=
  { rngseed := 0, slewstep := 0, ectl := 0x1FF00, estatic := 0, ewt := Vector.replicate 8 0 }

def Queues.reset : Queues :=
  { waybill := [], param := [], waybillIn := 0, paramIn := 0, vq := Vector.replicate 4 [],
    oq := Vector.replicate 4 [], token := Vector.replicate 6 [], popped := Vector.replicate 6 (0, 0) }

def MatrixStore.reset : MatrixStore :=
  { acc := [], bad := [], slots := Vector.replicate 4 Slot.reset, growth := Vector.replicate 64 0x80,
    carry := [], windows := [], jobs := [], owed := 0, ksteps := [], lastCount := 0,
    loadedAt := Vector.replicate 4 none, usedFor := Vector.replicate 4 [],
    madeFrom := Vector.replicate 4 none, drawn := [] }

def VectorStore.reset : VectorStore :=
  { v := [], bad := [], m := [], sp := 1, rrb := 0, vnf := false, vloop := none, before := (0, 1, false), loopFrom := 0, owed := 0 }

def Scratch.reset : Scratch := { mem := [], bad := [], claims := [], assigned := [], lanes := [] }

def Place.reset : Place :=
  { node := none, segment := 0, point := none, arrived := false, fired := false,
    resident := none, doneAtPoint := false, hshift := 0, frozenUntil := 0, stopAt := none,
    heldSince := false, throttled := false }

/-- A core that no timetable has held: everything as at a first departure. -/
def Core.reset : Core :=
  { drv := Driver.reset, csr := Csrs.reset, view := EngineView.reset,
    eng := Vector.replicate 4 Engine.reset, q := Queues.reset, ring := Vector.replicate 16 Ring.reset,
    mx := MatrixStore.reset, vec := VectorStore.reset, ss := Vector.replicate 16 0, pad := Scratch.reset,
    moves := [], ops := [], acc := [], walk := [], lease := Vector.replicate 8 none, span := [], unpinned := [],
    rows := [], rowBusy := 0, leased := [], seqs := [], colls := [], place := Place.reset,
    charge := Vector.replicate 8 0 }

/-! ### Timetables and the graph -/

/-- Table 14.3, with the two halves of RUNNING and LOADING that a save and a restore make, and the cycle before a
record is written for a node that never ran. -/
inductive NodeState where
  | waiting | held | ready | loading | running | saving | restoring | ending | done
  deriving DecidableEq, Repr

/-- A segment entry (Table 14.9). -/
structure Segment where
  entry : Vector Word 3
  level : Vector Nat 3
  src : Byte
  slew : Vector Nat 3
  deriving DecidableEq, Repr

/-- A point entry (Table 14.10). -/
structure PointEntry where
  addr : Nat
  next : Nat
  leases : Vector Nat 4
  boost : Nat
  wait : Nat
  deriving DecidableEq, Repr

/-- A departure setting (Table 14.12). -/
structure Setting where
  seg : Nat
  kind : Nat
  num : Nat
  value : DWord
  deriving DecidableEq, Repr

/-- A fault as the completion record reports it (Table 17.5, R274). -/
structure Report where
  verdict : Nat
  cause : BitVec 8
  info : DWord
  cyc : Nat
  site : Half
  stream : BitVec 3
  core : BitVec 24
  aux : DWord
  deriving DecidableEq, Repr

/-- A copy, gather or scatter (Table 6.5, R116, R199). -/
structure Copy where
  core : Nat
  node : Option Nat
  engine : Nat
  /-- 0 copy, 1 gather, 2 scatter -/
  form : Nat
  /-- as the instruction gave it, and its Station Clock cycle, moved by holds -/
  stamp : Nat
  due : Nat
  desc : List Word
  xs : List Word
  token : Option Nat
  src : Option Span
  dst : Option Span
  dstCore : Nat
  total : Nat
  /-- units that have asked and are not yet read, or not yet written -/
  reading : List Nat
  writing : List Nat
  /-- lines of a unit still to be granted, by unit: read and write -/
  readLines : Table Nat
  writeLines : Table Nat
  /-- data of units read and not written -/
  units : Table Payload
  slots : List Booked
  /-- rings whose swizzle has been compared (R197) -/
  checked : List Nat
  /-- units written so far -/
  written : List Nat
  deriving DecidableEq, Repr

/-- A copy withdrawn at a save: its lead and what it was (R243, R244). -/
structure Withdrawn where
  lead : Nat
  copy : Copy
  deriving DecidableEq, Repr

/-- The context of one core as saved (R7, R243). -/
structure Saved where
  x : Nat
  y : Nat
  context : Core
  deriving DecidableEq, Repr

/-- A graph node and, for a kernel, its timetable. -/
structure Node where
  state : NodeState
  words : List Word
  /-- submission order -/
  seq : Nat
  readyAt : Nat
  /-- verdict so far and the fault that stopped it -/
  verdict : Nat
  data : Option Report
  report : Option Report
  more : Nat
  firstDreg : Nat
  holds : Nat
  preempts : Nat
  /-- image header and directories -/
  hn : Nat
  space : Nat
  tvec : Word
  saveUnits : Nat
  segments : List Segment
  points : List PointEntry
  settings : List Setting
  pcs : List (Nat × Nat × List DWord)
  slots : List (Nat × List Word)
  entry : DWord
  root : DWord
  /-- placement: origin, segment that runs, departure announced -/
  ox : Nat
  oy : Nat
  segment : Nat
  dreg : Option Nat
  /-- PLEVEL.LEVEL as sampled, the variant slot chosen and the slew step (R245, R251) -/
  level : Nat
  variant : Nat
  slew : Nat
  /-- engine instances reserved for the first point, by kind (R237) -/
  reserved : Vector Nat 4
  /-- proposals of the other packages: Dreg, E and slew step -/
  proposals : List (Nat × Nat × Nat)
  arrived : Nat
  departed : Nat
  /-- Station Clock cycle in which the first core has issued the POINT of this point, pre-emption latched for it -/
  firstPoint : Option Nat
  latched : Bool
  /-- marked as the victim of a kernel node, or to be taken by a lease-wait expiry -/
  victimFor : Option Nat
  leaseWait : Bool
  cut : Nat
  handed : Nat
  stopping : Option Nat
  holdAt : Option Nat
  /-- end of the hold that is in progress; tiles that a hold replays: its start, core and tile -/
  holdEnd : Option Nat
  replay : List (Nat × Nat × Nat)
  saved : List Saved
  withdrawn : List Withdrawn
  /-- pairs and pseudo-channels that a victim has freed for this node (R240) -/
  kept : List Nat
  keptPcs : List Nat
  /-- lease slots to take again at a restore: core x, y, slot, kind and boost -/
  relet : List (Nat × Nat × Nat × BitVec 3 × Nat)
  /-- pairs on which it has been saved (R263, R326) -/
  savedOn : List Nat
  deriving DecidableEq, Repr

/-! ### Copies, memory and translation -/

/-- An untimed store that has performed and has not reached its array (R215, R220). -/
structure Front where
  id : Nat
  core : Nat
  pa : Nat
  bytes : Cells 8
  size : Nat
  /-- bytes that a co-later write has taken over -/
  dead : List Nat
  prf : Nat
  deriving DecidableEq, Repr

/-- Save areas that the walker has allocated from the pool for a timetable: its graph slot, the first unit of each
pair's area in the order of `Node.pairs`, and the units of one area (R243, R249). -/
structure SaveArea where
  node : Nat
  starts : List Nat
  units : Nat
  deriving DecidableEq, Repr

/-- Memory whose bytes the spec does not state: a save record in a save area (R243), as a range of addresses and the number
of its free values. -/
structure Unstated where
  lo : Nat
  hi : Nat
  seed : Nat
  deriving DecidableEq, Repr

/-- One TLB entry (R212). -/
structure TlbEntry where
  asid : BitVec 13
  vpage : Nat
  big : Bool
  pte : DWord
  deriving DecidableEq, Repr

/-- One pin of a page, and the timetable that holds it (R119, R133). -/
structure Pin where
  asid : BitVec 13
  vpage : Nat
  big : Bool
  owner : Option Nat
  deriving DecidableEq, Repr

/-- One bank of a pseudo-channel: the cycles of its last commands (Table 11.7). -/
structure DramBank where
  row : Option Nat
  act : Option Nat
  pre : Option Nat
  read : Option Nat
  write : Option Nat
  refpb : Option Nat
  deriving DecidableEq, Repr

/-- A request to an open window (R207). -/
structure Request where
  core : Nat
  access : Nat
  pa : Nat
  deriving DecidableEq, Repr

/-- One pseudo-channel (R203 to R208). -/
structure PseudoChannel where
  owner : Option Nat
  absent : Bool
  banks : Table DramBank
  /-- last ACTs: cycle and bank, newest first -/
  acts : List (Nat × Nat)
  /-- last slot: cycle and bank -/
  slot : Option (Nat × Nat)
  refab : Option Nat
  /-- sixteenths of the refresh debt -/
  debt : Int
  /-- a segment's timeline runs: Station Clock cycle of its CYC 0, moved by holds, its busy cycles counted from
  there, and the entries still to issue -/
  running : Bool
  base : Nat
  busy : List Nat
  line : List DWord
  queue : List Request
  /-- the first request, once its ACT has issued: that cycle, its bank, and whether its column command has issued -/
  serving : Option (Nat × Nat × Bool)
  /-- open rows that a hold recorded, and sixteenths of refreshes to skip after it (R208) -/
  recorded : List (Nat × Nat)
  skip : Nat
  deriving DecidableEq, Repr

def PseudoChannel.reset : PseudoChannel :=
  { owner := none, absent := false, banks := [], acts := [], slot := none, refab := none, debt := 0,
    running := false, base := 0, busy := [], line := [], queue := [], serving := none, recorded := [],
    skip := 0 }

/-- A host piece on its way to HBM (R317). -/
structure HostOp where
  pa : Nat
  write : Bool
  n : Nat
  bytes : List Byte
  deriving DecidableEq, Repr

/-! ### Dies, power, host, fabric -/

/-- A cluster pair (Table 15.4). -/
structure Pair where
  req : Bool
  ack : Bool
  clk : Bool
  rail : Bool
  wake : Bool
  rbusy : Bool
  seqerr : Bool
  state : BitVec 2
  pretb : DWord
  pimb : Word
  clkOff : Nat
  reqAt : Nat
  /-- pair-local balancer setting (R325) -/
  balance : Word
  retired : Bool
  /-- end of the rail's ramp; retention state caught by a save or to be put back by a restore; a wrong check
  word found (R325) -/
  ramp : Nat
  /-- cycle of the last set of WAKE: a clear in the same cycle does not stand (R327); first cycle in which WAKE reads 1
  (R324) -/
  wakeAt : Nat
  wakeFrom : Nat
  shot : Option (Word × Word)
  badImage : Bool
  deriving DecidableEq, Repr

def Pair.reset : Pair :=
  { req := false, ack := false, clk := true, rail := true, wake := false, rbusy := false, seqerr := false,
    state := 2, pretb := 0, pimb := 0, clkOff := 0, reqAt := 0, balance := 0, retired := false,
    ramp := 0, wakeAt := 0, wakeFrom := 0, shot := none, badImage := false }

/-- A core that waits in a lease queue (R123). -/
structure LeaseWait where
  core : Nat
  slot : Nat
  kind : BitVec 3
  boost : Nat
  prio : Nat
  since : Nat
  deriving DecidableEq, Repr

/-- A granted lease in the die's book: most recent first. -/
structure Granted where
  kind : BitVec 3
  inst : Nat
  boost : Nat
  core : Nat
  slot : Nat
  marked : Bool
  deriving DecidableEq, Repr

/-- One compute die: signal-box registers, lease books, TLB and replay queue. -/
structure Die where
  slew : Vector (BitVec 7) 8
  capIl : Nat
  capSrt : Nat
  capInf : Nat
  capSh : Nat
  capBoost : Nat
  blen : BitVec 40
  pair : Vector Pair 16
  waits : List LeaseWait
  granted : List Granted
  /-- Station Clock cycle in which the last command of an engine has completed, by 64 times the kind plus the instance (R300) -/
  busyTo : Table Nat
  tlb : List TlbEntry
  replay : List (Nat × Nat)
  /-- untimed accesses that wait for a free cycle of the depot, in arrival order (R198): core and number of a driver's access,
  or one of the agents below -/
  waiting : List (Nat × Nat)
  /-- interrupts pending at the signal box: power alarm, self-test -/
  alarm : Bool
  selfTest : Bool
  transient : Table Nat
  deriving DecidableEq, Repr

/-- Table 15.4's reset column. -/
def Die.reset : Die :=
  { slew := Vector.replicate 8 64, capIl := 16, capSrt := 16, capInf := 32, capSh := 8, capBoost := 0,
    blen := 0x1000000, pair := Vector.replicate 16 Pair.reset, waits := [], granted := [], busyTo := [], tlb := [],
    replay := [], waiting := [], alarm := false, selfTest := false, transient := [] }

/-- Host-visible registers (Tables 20.5 and 23.4) and boot state. -/
structure HostRegs where
  gbase : DWord
  gn : BitVec 5
  mbase : DWord
  msize : BitVec 4
  mhead : Word
  mtail : Word
  miaddr : DWord
  midata : Word
  phase : BitVec 4
  err : BitVec 4
  hbmok : Half
  /-- stacks whose mode registers hold the options of Table 11.9, set once at training (R209, R334) -/
  hbmMode : Half
  retired : Half
  roottab : DWord
  svbase : DWord
  svsize : Word
  nonce : Vector DWord 4
  attaddr : DWord
  atterr : Bool
  attbusy : Bool
  repcnt : DWord
  latched : Vector DWord 4
  latchedBoot : DWord
  /-- accepted image headers in load order, and the fused minimum version of each kind (R332) -/
  headers : List (List Byte)
  minVersion : Vector Word 3
  /-- signal-box image payload -/
  boxImage : List Byte
  /-- retired pairs in the non-volatile store: die and pair (R335) -/
  retiredStore : List (Nat × Nat)
  deriving DecidableEq, Repr

def HostRegs.reset : HostRegs :=
  { gbase := 0, gn := 0, mbase := 0, msize := 0, mhead := 0, mtail := 0, miaddr := 0, midata := 0,
    phase := 0, err := 0, hbmok := 0, hbmMode := 0, retired := 0, roottab := 0, svbase := 0, svsize := 0,
    nonce := Vector.replicate 4 0, attaddr := 0, atterr := false, attbusy := false, repcnt := 0,
    latched := Vector.replicate 4 0, latchedBoot := 0, headers := [], minVersion := Vector.replicate 3 0,
    boxImage := [], retiredStore := [] }

/-- One Junction port (R303 to R309). -/
structure Port where
  admitted : Bool
  /-- its lane has failed for good: not admitted at the next join (R284) -/
  withdrawn : Bool
  parent : Bool
  master : Option Nat
  /-- one-way difference of the last Sync in cycles, and when the last Delay_Req left -/
  sync : Int
  req : Nat
  /-- offset to the neighbour's Station Clock and one-way delay, as last measured, in half cycles: a measurement halves a sum
  of whole cycles; no delay before the first measurement (R307, R308) -/
  offset : Int
  delay : Option Int
  locked : Bool
  /-- control flits that wait for a guard band: hold and stop notices, walker messages, time (R310) -/
  notices : List (Nat × Nat × Nat)
  deriving DecidableEq, Repr

def Port.reset : Port :=
  { admitted := false, withdrawn := false, parent := false, master := none, sync := 0, req := 0, offset := 0, delay := none, locked := false,
    notices := [] }

/-- A participant of a bucket (R312). -/
structure Member where
  pkg : Nat
  y : Nat
  x : Nat
  /-- local core, none on another package -/
  core : Option Nat
  /-- PC of its COLL, 0 on another package -/
  pc : Half
  flag : Bool
  soff : Nat
  doff : Nat
  foff : Nat
  src : Option Span
  dst : Option Span
  fspan : Option Span
  spans : List Nat
  deriving DecidableEq, Repr

/-- One collective bucket (R121, R312 to R315). -/
structure Bucket where
  node : Nat
  group : Nat
  bseq : Nat
  /-- Station Clock cycle for a COLL of free mode, until the stamp comes; else timetable time (R281) -/
  stamp : Nat
  free : Bool
  bytes : Nat
  kind : Nat
  fmt : Nat
  members : List Member
  /-- contributed bytes of rank r at 2^32 r + offset, reduced bytes by offset in the bucket -/
  contrib : Memory
  contribBad : Cells 1
  result : Memory
  resultBad : Cells 1
  /-- ranks are fixed (at the stamp) -/
  started : Bool
  /-- own chunks of an all-gather have been read for the final write (R216) -/
  ownRead : Bool
  /-- flits sent through each port, contributed bytes that have come for each owner, cycle in which the reduction
  of each owner ends -/
  sent : Table Nat
  got : Table Nat
  ends : Table Nat
  /-- flits that have come from each other package (R315) -/
  recv : Table Nat
  anf : Bool
  /-- a flag word has come from another package: its CNF, and whether FEC could not correct it -/
  flagIn : Bool
  cnfIn : Bool
  flagBad : Bool
  deriving DecidableEq, Repr

/-- A COLL of another package: timetable, bucket, stamp in timetable time, length, participant (R312, R315). -/
structure Remote where
  node : Nat
  group : Nat
  bseq : Nat
  stamp : Nat
  bytes : Nat
  member : Member
  deriving DecidableEq, Repr

/-- What the walker of another package of a timetable tells of it (R237, R240 to R242). -/
inductive PeerNote where
  /-- the node is submitted there: its PKGIX, whether that package lies in one timing tree with all the others of the
  node, and the most admitted hops from it to any of them -/
  | submitted (pkgix : Nat) (tree : Bool) (hops : Nat)
  /-- the timetable is marked as the victim of the kernel in a graph slot, which is that kernel's on every package -/
  | marked (kernel : Nat)
  /-- a core of it has issued POINT, or has been trapped by an expired lease wait, in a Station Clock cycle -/
  | pointed (cycle : Nat)
  /-- a LEASE of it has waited past its limit -/
  | leaseOver
  deriving DecidableEq, Repr

/-- The fabric side of the package. -/
structure Fabric where
  ports : Vector Port 24
  buckets : Table Bucket
  /-- members on other packages, told from outside before the stamp -/
  remote : List Remote
  /-- participants of the groups of a timetable, as its first bucket of the group has fixed them: graph slot, group, and
  package, Y and X of each in rank order (R312) -/
  groups : List (Nat × Nat × List (Nat × Nat × Nat))
  /-- submissions that other packages have told: graph slot, and PKGIX, tree and hops (R237) -/
  peers : List (Nat × Nat × Bool × Nat)
  /-- the device's corrected-error count -/
  corrected : Nat
  joined : Bool
  /-- ports whose next flit cannot be corrected (R303) -/
  badNext : List Nat
  deriving DecidableEq, Repr

def Fabric.reset : Fabric :=
  { ports := Vector.replicate 24 Port.reset, buckets := [], remote := [], groups := [], peers := [], corrected := 0, joined := false,
    badNext := [] }

/-! ### The whole package -/

/-- A step that is due: its Station Clock cycle, its place within the cycle, the timetable whose holds move
it, the subject it acts for, and the step. -/
structure Due where
  cycle : Nat
  rank : Nat
  node : Option Nat
  who : Nat
  instr : Instr
  deriving DecidableEq, Repr

/-- Where a storage error strikes (R276). -/
inductive Place2 where
  | scratch (core word : Nat)
  | array (dword : Nat)
  | tile (core tile cell : Nat)
  | slot (core slot cell : Nat)
  /-- the correction sum of a group and column -/
  | correction (core slot sum : Nat)
  | vreg (core cell : Nat)
  | table (core : Nat) (e : Eng) (word : Nat)
  | ringTag (core ring slot : Nat)
  | vqueue (core q cell : Nat)
  | oqueue (core q cell : Nat)
  | waybill (core i : Nat)
  | param (core i : Nat)
  /-- the next flit on the lane of a Junction port (R303) -/
  | lane (port : Nat)
  deriving DecidableEq, Repr

/-- What comes from outside the package, or from physics. -/
inductive Input where
  /-- an event of the table that the outside begins, and its subject -/
  | event (who : Nat) (i : Instr)
  /-- an error that the code cannot correct, and one that it corrects for the context of a core, or for none of them -/
  | poison (at_ : Place2)
  | corrected (core : Nat) (at_ : Place2)
  /-- an array residue check fails in a cell of a tile (R279) -/
  | residue (core tile cell : Nat)
  /-- the guard's copy of what the driver is to send out differs (R275) -/
  | guardFlip (core : Nat)
  /-- a flit that FEC cannot correct comes next on a port (R303) -/
  | badFlit (port : Nat)
  /-- a participant of a bucket on another package (R312) -/
  | member (r : Remote)
  /-- a walker message of another package about a timetable: its graph slot and what it tells (R237, R240 to R242) -/
  | peer (node : Nat) (note : PeerNote)
  /-- a page of 64 KiB of the host tier becomes available, or no longer is (R319) -/
  | hostPage (page : Nat) (available : Bool)
  deriving DecidableEq, Repr

/-- An input and its cycle. -/
structure Arrival where
  cycle : Nat
  input : Input
  deriving DecidableEq, Repr

/-- The state of the machine. -/
structure State where
  /-- Station Clock (R25) -/
  clock : Nat
  /-- subject the next meaning acts for, a core for a driver instruction or micro-order, and the engine of a
  common micro-order (the model's own) -/
  cur : Nat
  curEng : Eng
  /-- steps due, by cycle and rank (the model's own) -/
  agenda : List Due
  /-- what the outside will do, by cycle (the model's own) -/
  inputs : List Arrival
  cores : Table Core
  dies : Vector Die 8
  /-- depot, HBM and host tier, by physical address, and their poisoned 64-bit words -/
  mem : Memory
  bad : Cells 1
  front : List Front
  /-- cycle after the last arrival at each memory (R227), by memory number -/
  arrived : Table Nat
  /-- TLBINVs that wait: core, address space, address (R133) -/
  invs : List (Nat × BitVec 13 × DWord)
  pins : List Pin
  copies : Table Copy
  /-- bytes each transfer engine carries in this cycle, and accesses of each depot from number 64 on (R198,
  R200) -/
  carried : Table Nat
  /-- array ranges that timed writes have written in this cycle: address and length (R217, R222) -/
  wroteNow : List (Nat × Nat)
  pcs : Table PseudoChannel
  hostOps : Table HostOp
  /-- pages of 64 KiB of the host tier that the host makes available (R319) -/
  hostPages : List Nat
  /-- what host reads have brought back, newest first -/
  replies : List (Nat × Payload)
  nodes : Table Node
  /-- next slot to submit, order of submissions, save areas in use (R231, R249) -/
  tail : Nat
  submitted : Nat
  saveUsed : List SaveArea
  /-- save records that nothing has written over since -/
  records : List Unstated
  /-- PGRANT (Table 15.4) -/
  pgrant : DWord
  /-- what the last grant boundary latched: every core's PLEVEL (R250) -/
  plevel : DWord
  host : HostRegs
  messages : List Message
  fabric : Fabric
  /-- cores whose guard copy of the next instruction that sends something out will not match (R275) -/
  guardBad : List Nat
  /-- next free value (the model's own, log 3) -/
  fresh : Nat
  deriving DecidableEq, Repr

/-- The machine right after device reset: clock 0, boot phase 0, nothing submitted, no core held. -/
def State.reset : State :=
  { clock := 0, cur := 0, curEng := .load, agenda := [], inputs := [], cores := [],
    dies := Vector.replicate 8 Die.reset, mem := [], bad := [], front := [], arrived := [], invs := [], pins := [], copies := [],
    carried := [], wroteNow := [], pcs := [], hostOps := [], hostPages := [], replies := [], nodes := [], tail := 0, submitted := 0, saveUsed := [], records := [],
    pgrant := 0, plevel := 0,
    host := HostRegs.reset, messages := [], fabric := Fabric.reset, guardBad := [], fresh := 0 }

end Sys2Proof.Machine
end

