-- ==== Sys2Proof/Machine/Ops.lean ====
section
/-! DEFINITION. The operations that every meaning shares: reaching a core, its registers and its time,
placing a step on the agenda, taking an exception and returning from one, stopping a timetable. -/

namespace Sys2Proof.Machine

/-! ### Cores -/

/-- Number of the first signal box; box of die d is 4096 + d (the model's own numbering). -/
def boxBase : Nat := 4096

/-- Whether a core number is a signal box. -/
def isBox (c : Nat) : Bool := boxBase ≤ c

/-- Package core column and row of a timetable core (R28). -/
def coreCol (c : Nat) : Nat := c % 128
def coreRow (c : Nat) : Nat := c / 128

/-- The core at a package column and row. -/
def coreAt (px py : Nat) : Nat := 128 * py + px

/-- Compute die of a core (R28). -/
def coreDie (c : Nat) : Nat := if isBox c then c - boxBase else coreCol c / 32 + 4 * (coreRow c / 16)

/-- Pair of a core within its die (R28). -/
def corePair (c : Nat) : Nat := coreCol c % 32 / 8 + 4 * (coreRow c % 16 / 4)

/-- The core under a number; one that no timetable has held is in its reset state. -/
def State.core (s : State) (c : Nat) : Core := (s.cores.find c).getD Core.reset

/-- A core changed. -/
def State.modCore (s : State) (c : Nat) (f : Core → Core) : State :=
  { s with cores := s.cores.put c (f (s.core c)) }

/-- The core the meaning acts for. -/
def State.me (s : State) : Core := s.core s.cur

/-- That core changed. -/
def State.modMe (s : State) (f : Core → Core) : State := s.modCore s.cur f

/-- A driver changed within its core. -/
def Core.modDrv (c : Core) (f : Driver → Driver) : Core := { c with drv := f c.drv }

/-- The CSRs changed within their core. -/
def Core.modCsr (c : Core) (f : Csrs → Csrs) : Core := { c with csr := f c.csr }

def Core.modMx (c : Core) (f : MatrixStore → MatrixStore) : Core := { c with mx := f c.mx }
def Core.modVec (c : Core) (f : VectorStore → VectorStore) : Core := { c with vec := f c.vec }
def Core.modQ (c : Core) (f : Queues → Queues) : Core := { c with q := f c.q }
def Core.modPad (c : Core) (f : Scratch → Scratch) : Core := { c with pad := f c.pad }
def Core.modPlace (c : Core) (f : Place → Place) : Core := { c with place := f c.place }

/-- Number of an engine (Table 4.4). -/
def engIx : Eng → Fin 4
  | .load => 0
  | .matrix => 1
  | .vector => 2
  | .store => 3

/-- The engine of a number. -/
def engOf (n : Nat) : Eng :=
  match n % 4 with
  | 0 => .load
  | 1 => .matrix
  | 2 => .vector
  | _ => .store

def Core.engine (c : Core) (e : Eng) : Engine := c.eng[engIx e]

def Core.modEng (c : Core) (e : Eng) (f : Engine → Engine) : Core :=
  { c with eng := c.eng.set (engIx e) (f c.eng[engIx e]) }

/-- A list element changed, if there is one. -/
def listSet {α : Type} : List α → Nat → α → List α
  | [], _, _ => []
  | _ :: r, 0, v => v :: r
  | a :: r, n + 1, v => a :: listSet r n v

/-- A vector entry changed; an index outside leaves the vector as it is. -/
def vecMod {α : Type} {n : Nat} (v : Vector α n) (i : Nat) (f : α → α) : Vector α n :=
  if h : i < n then v.set i (f v[i]) else v

/-- A vector entry, or a default outside. -/
def vecGet {α : Type} {n : Nat} (v : Vector α n) (d : α) (i : Nat) : α :=
  if h : i < n then v[i] else d

def Core.modRing (c : Core) (r : Nat) (f : Ring → Ring) : Core := { c with ring := vecMod c.ring r f }
def Core.getRing (c : Core) (r : Nat) : Ring := vecGet c.ring Ring.reset r

/-! ### Registers (R10) -/

/-- g register; g0 reads as zero. -/
def Driver.readG (d : Driver) (r : BitVec 5) : DWord := if r = 0 then 0 else d.g[r.toNat]

/-- g register written; a write to g0 is discarded. -/
def Driver.writeG (d : Driver) (r : BitVec 5) (v : DWord) : Driver :=
  if r = 0 then d else { d with g := d.g.set r.toNat v }

/-- Predicate; p0 reads as true. -/
def Driver.readP (d : Driver) (r : BitVec 3) : Bool := r = 0 || d.p.getLsbD r.toNat

/-- Predicate written; a write to p0 is discarded. -/
def Driver.writeP (d : Driver) (r : BitVec 3) (v : Bool) : Driver :=
  if r = 0 then d
  else { d with p := (d.p &&& ~~~(1#8 <<< r.toNat)) ||| (if v then 1#8 <<< r.toNat else 0) }

def Driver.readX (d : Driver) (r : BitVec 5) : Word := d.x[r.toNat]
def Driver.writeX (d : Driver) (r : BitVec 5) (v : Word) : Driver := { d with x := d.x.set r.toNat v }

/-- g register of the meaning's core. -/
def State.readG (s : State) (r : BitVec 5) : DWord := s.me.drv.readG r

/-- PC advanced to the next word, within the 64 KiB store. -/
def nextPc (pc : Half) : Half := pc + 4

/-- PC at a word offset (R90). -/
def pcAt (pc : Half) (words : Int) : Half := BitVec.ofInt 16 ((pc.toNat : Int) + 4 * words)

/-! ### Modes and time -/

/-- STATUS fields (Table 1.2). -/
def Core.timed (c : Core) : Bool := c.csr.status.getLsbD 0
def Core.priv (c : Core) : Bool := c.csr.status.getLsbD 1
def Core.ppriv (c : Core) : Bool := c.csr.status.getLsbD 2
def Core.ie (c : Core) : Bool := c.csr.status.getLsbD 3
def Core.pie (c : Core) : Bool := c.csr.status.getLsbD 4

/-- STATUS from its fields. -/
def mkStatus (mode priv ppriv ie pie : Bool) : DWord :=
  (BitVec.ofBool pie ++ BitVec.ofBool ie ++ BitVec.ofBool ppriv ++ BitVec.ofBool priv
    ++ BitVec.ofBool mode).setWidth 64

/-- Timetable time of a core: the Station Clock less its HSHIFT (R281). -/
def State.ttOf (s : State) (c : Nat) : Nat := s.clock - (s.core c).place.hshift

/-- Timetable time of the meaning's core. -/
def State.tt (s : State) : Nat := s.ttOf s.cur

/-! ### The agenda -/

/-- A step placed by cycle and rank, after those of the same place. -/
def insertDue (d : Due) : List Due → List Due
  | [] => [d]
  | e :: r => if d.cycle < e.cycle ∨ (d.cycle = e.cycle ∧ d.rank < e.rank) then d :: e :: r
              else e :: insertDue d r

/-- A step due at a Station Clock cycle for a subject, moved by the holds of a timetable if one is named. -/
def State.due (s : State) (cycle rank : Nat) (node : Option Nat) (who : Nat) (i : Instr) : State :=
  { s with agenda := insertDue ⟨cycle, rank, node, who, i⟩ s.agenda }

/-- A timed step of core `c`, `n` cycles on: holds of the core's timetable move it (R280). -/
def State.timedAt (s : State) (c n rank : Nat) (i : Instr) : State :=
  s.due (s.clock + n) rank (s.core c).place.node c i

/-- An untimed step for a subject, `n` cycles on. -/
def State.laterAt (s : State) (n rank who : Nat) (i : Instr) : State := s.due (s.clock + n) rank none who i

/-- A timed step of the meaning's core. -/
def State.soon (s : State) (n rank : Nat) (i : Instr) : State := s.timedAt s.cur n rank i

/-- Places within a cycle: what performs before issue, issue, claims, reads, timed writes, then untimed writes, and what
follows. Of two writes in one cycle the timed one is co-earlier (R217). -/
def rankGrantBoundary : Nat := 0
def rankHold : Nat := 1
def rankUnit : Nat := 2
def rankVisible : Nat := 3
def rankIssue : Nat := 4
def rankClaim : Nat := 5
def rankRead : Nat := 6
def rankWrite : Nat := 7
def rankCopy : Nat := 8
def rankStore : Nat := 9
def rankFlag : Nat := 10
def rankVnf : Nat := 11
def rankWalker : Nat := 12
def rankCheck : Nat := 13
def rankBalance : Nat := 14

/-- A free latency (log 3). -/
def State.freeCycles (s : State) : Nat × State := (Config.freeCycles s.fresh, { s with fresh := s.fresh + 1 })

/-- A free value (log 3). -/
def State.freeValue (s : State) : DWord × State := (Config.freeValue s.fresh, { s with fresh := s.fresh + 1 })

/-! ### The targeted self-test (R284) -/

/-- Kinds of structure that a targeted test is for: the rows of Table 17.8. -/
def testSram : Nat := 0
def testArray : Nat := 1
def testDriver : Nat := 2
def testDepot : Nat := 3
def testHbm : Nat := 4
def testLane : Nat := 5

/-- WHERE of a structure of a core: pair of its die in [8:5], core of the pair in [4:0] (log 51). -/
def whereCore (c : Nat) : Nat := 32 * corePair c + coreCol c % 8 + 8 * (coreRow c % 4)

/-- An error makes the test of the structure on which it lies due; whether the test fails is physics' answer, a free value
(log 122). -/
def State.testDue (s : State) (die kind place : Nat) : State :=
  let f := s.freeValue
  f.2.laterAt 1 rankWalker die (.selfTest (BitVec.ofNat 8 kind) (BitVec.ofNat 32 place) (f.1.getLsbD 0))

/-- The test of a structure of a core; a signal box is no part of a pair. -/
def State.testCore (s : State) (c kind : Nat) : State :=
  if isBox c then s else s.testDue (coreDie c) kind (whereCore c)

/-! ### Timetables -/

/-- The timetable of a core. -/
def State.nodeOf (s : State) (c : Nat) : Option Node :=
  match (s.core c).place.node with
  | none => none
  | some n => s.nodes.find n

/-- A node changed, if there is one. -/
def State.modNode (s : State) (n : Nat) (f : Node → Node) : State :=
  match s.nodes.find n with
  | none => s
  | some nd => { s with nodes := s.nodes.put n (f nd) }

/-- The node of a core changed. -/
def State.modNodeOf (s : State) (c : Nat) (f : Node → Node) : State :=
  match (s.core c).place.node with
  | none => s
  | some n => s.modNode n f

/-- The cores of a timetable on this package. -/
def State.coresOf (s : State) (n : Nat) : List Nat :=
  (s.cores.filter (fun p => p.2.place.node = some n)).map Prod.fst

/-- A core changed for each number of a list. -/
def State.modCores (s : State) (cs : List Nat) (f : Core → Core) : State :=
  cs.foldl (fun s c => s.modCore c f) s

/-! ### Faults (R9, R268 to R274) -/

/-- FAULTINFO (Table 17.3). -/
def faultInfo (unit sub : Nat) (phys : Bool) (addr : Nat) : DWord :=
  (BitVec.ofNat 4 unit ++ BitVec.ofNat 6 sub ++ BitVec.ofBool phys ++ 0#1 ++ BitVec.ofNat 52 addr).setWidth 64

/-- UNIT numbers of FAULTINFO. -/
def unitDriver : Nat := 0
def unitRow : Nat := 5
def unitTransfer : Nat := 6
def unitCollective : Nat := 7
def unitLeased : Nat := 8
def unitDram : Nat := 9
def unitGuard : Nat := 10
def unitWalker : Nat := 11

/-- UNIT number of an engine, which is its STREAM number too. -/
def engUnit (e : Eng) : Nat := (engIx e).val + 1

/-- Whether report `a` comes before `b` in the order of R274: earliest cycle, package, Y, X, UNIT. -/
def Report.before (a b : Report) : Bool :=
  let key := fun (r : Report) =>
    (r.core.extractLsb' 20 4 ++ r.core.extractLsb' 12 5 ++ r.core.extractLsb' 0 12
      ++ r.info.extractLsb' 60 4).toNat
  a.cyc < b.cyc || (a.cyc = b.cyc && key a < key b)

/-- MORE after a fault detected in a cycle: every fault after the first counts, of whatever class, up to the stop
(Table 17.5). -/
def Node.moreAfter (nd : Node) (cyc : Nat) : Nat :=
  if (nd.report.isSome || nd.data.isSome) && nd.stopping.all (fun t => cyc ≤ t + nd.hn) then min (nd.more + 1) 0xFFFF
  else nd.more

/-- A fault entered in a node: the earliest stands, the others are counted (R234, R274). -/
def Node.enter (nd : Node) (r : Report) : Node :=
  { nd with
    verdict := max nd.verdict r.verdict, more := nd.moreAfter r.cyc,
    report := some (match nd.report with
      | none => r
      | some q => if r.before q then r else q) }

/-- A data fault that stops nothing: the first one stands (R271, R277), the others are counted. -/
def Node.taint (nd : Node) (r : Report) : Node :=
  { nd with verdict := max nd.verdict r.verdict, data := nd.data <|> some r, more := nd.moreAfter r.cyc }

/-- What a walker message tells besides a proposal: a node submitted, marked as a victim, its first POINT, the expiry of a
lease wait (the model's own numbers; the spec lays out no walker message). -/
def tellSubmitted : Nat := 0
def tellMarked : Nat := 1
def tellPointed : Nat := 2
def tellLease : Nat := 3

/-- A control flit for the other packages of a timetable waits at every admitted port: its KIND and what it says
(R310, R316). -/
def State.notify (s : State) (nd : Node) (kind a b : Nat) : State :=
  if ((nd.words.getD 8 0).extractLsb' 9 5).toNat ≤ 1 then s
  else { s with fabric := { s.fabric with ports := s.fabric.ports.map (fun (p : Port) =>
      if p.admitted then { p with notices := p.notices ++ [(kind, a, b)] } else p) } }

/-- A stop of timetable `n` detected in cycle `t`: the pulse reaches its cores HN cycles on, and the other packages
are told (R273, R316). -/
def State.stopFrom (s : State) (n t : Nat) : State :=
  match s.nodes.find n with
  | none => s
  | some nd =>
    if nd.stopping.isSome then s
    else ((({ s with nodes := s.nodes.put n { nd with stopping := some t } }).notify nd 6 t n).due
      (max s.clock (t + nd.hn)) rankHold none n .stopPulse)

/-- A stop of timetable `n` detected now. -/
def State.startStop (s : State) (n : Nat) : State := s.stopFrom n s.clock

/-- A fatal fault of timetable `n`. -/
def State.fatalNode (s : State) (n : Nat) (r : Report) : State := (s.modNode n (·.enter r)).startStop n

/-- A core issues nothing more. -/
def Core.halt (c : Core) (clock : Nat) : Core :=
  { c with place := { c.place with stopAt := some (match c.place.stopAt with
      | none => clock
      | some t => min t clock) } }

/-- A fatal fault of core `c`. The core's own streams stop at once when `own` (R273); its fault registers
show the fault (DEDUCED, log 7). -/
def State.fatal (s : State) (c : Nat) (own : Bool) (cause : BitVec 8) (verdict : Nat) (info : DWord)
    (stream : Nat) (site : Half) (aux va : DWord) : State :=
  let k := s.core c
  let s := s.modCore c (fun k =>
    let k := k.modCsr (fun r => { r with cause := cause.setWidth 64, epc := site.setWidth 64,
                                         faultInfo := info, faultCyc := BitVec.ofNat 64 s.clock,
                                         faultVa := va })
    if own then k.halt s.clock else k)
  match k.place.node with
  | none => s
  | some n => s.fatalNode n
      { verdict := verdict, cause := cause, info := info, cyc := s.clock, site := site,
        stream := BitVec.ofNat 3 stream, core := k.csr.coreix.setWidth 24, aux := aux }

/-- A schedule fault of an engine of core `c`: SUB, and ADDR with the active bank and step counter of the
order (Table 17.4). -/
def State.engFault (s : State) (c : Nat) (e : Eng) (cause : BitVec 8) (sub : Nat) : State :=
  let g := (s.core c).engine e
  let addr := g.step.toNat + (if g.bank then 1024 else 0)
  s.fatal c true cause 3 (faultInfo (engUnit e) sub false addr) (engUnit e) (g.step.setWidth 16) 0 0

/-- A data fault of core `c` that stops nothing (R277). -/
def State.taint (s : State) (c : Nat) (cause : BitVec 8) (sub : Nat) (phys : Bool) (addr : Nat)
    (unit : Nat) (aux : DWord) : State :=
  s.modNodeOf c (·.taint
    { verdict := 2, cause := cause, info := faultInfo unit sub phys addr, cyc := s.clock, site := 0,
      stream := if unit ≤ 4 then BitVec.ofNat 3 unit else 5#3,
      core := (s.core c).csr.coreix.setWidth 24, aux := aux })

/-- Cycles from the instruction that traps to the first one at TVEC (R264). -/
def trapEntry : Nat := 4

/-- Trap entry (R9): PRIV and IE saved, system level with interrupts off, PC at TVEC; CAUSE and EPC
written. -/
def Core.trap (k : Core) (tt : Nat) (cause epc : DWord) : Core :=
  let k := k.modCsr (fun r => { r with
    status := mkStatus k.timed true k.priv false k.ie, cause := cause, epc := epc })
  k.modDrv (fun d => { d with pc := k.csr.tvec.setWidth 16 &&& 0xFFFC, ready := tt + trapEntry, hold := none,
                              entered := true })

/-- Trap entry of a fault, with its detail registers. -/
def Core.trapFault (k : Core) (tt clock : Nat) (cause : BitVec 8) (epc info va : DWord) : Core :=
  (k.trap tt (cause.setWidth 64) epc).modCsr (fun r => { r with
    faultInfo := info, faultCyc := BitVec.ofNat 64 clock, faultVa := va })

/-- Return from a trap (R9, ERET): PPRIV and PIE restored and cleared, PC at EPC. -/
def Core.eret (k : Core) (tt : Nat) : Core :=
  let k := k.modCsr (fun r => { r with status := mkStatus k.timed k.ppriv false k.pie false })
  k.modDrv (fun d => { d with pc := k.csr.epc.setWidth 16 &&& 0xFFFC, ready := tt + 2, entered := false })

/-- A host message that the walker is to post (R318). -/
def State.post (s : State) (type : Nat) (index : BitVec 24) (verdict : Nat) (payload : DWord) : State :=
  s.laterAt 0 rankWalker 0 (.messagePost ⟨BitVec.ofNat 8 type, index, BitVec.ofNat 8 verdict, payload⟩)

/-- A signal box halts and the host is told (R270). -/
def State.haltBox (s : State) (c : Nat) (cause : BitVec 8) : State :=
  (s.modCore c (·.modDrv (fun d => { d with hold := some .halted }))).post 6 0 0
    ((cause ++ BitVec.ofNat 8 (coreDie c)).setWidth 64)

/-- No system vector (R249). -/
def noVector : DWord := 0xFFFFFFFF

/-- A fault or trap that the driver of core `c` delivers for the instruction at `pc` (R9, R249, R268 to
R270): signal boxes trap or halt, and a halted one takes nothing more; timed code stops, system code on a timetable core
stops with a double fault, user code in free mode traps with EPC `epc`. -/
def State.deliver (s : State) (c : Nat) (cause : BitVec 8) (pc epc : Half) (info va : DWord) : State :=
  let k := s.core c
  let stop := fun (code : BitVec 8) => s.fatal c true code 3 info 0 pc va va
  if isBox c then
    if k.drv.hold = some .halted then s
    else if k.drv.entered && pc = k.drv.pc then s.haltBox c cause
    else s.modCore c (·.trapFault (s.ttOf c) s.clock cause (epc.setWidth 64) info va)
  else if k.timed then stop cause
  else if k.priv then stop 0x11
  else if k.csr.tvec = noVector then stop cause
  else s.modCore c (·.trapFault (s.ttOf c) s.clock cause (epc.setWidth 64) info va)

/-- The trap of an uncorrectable word that an LDG or AMO has read (R97, R269, R270): EPC the next instruction, FAULTINFO
the access, FAULTCYC the cycle of the read. It is no fault of the instruction at TVEC, so it never halts a signal box. A
lease-wait pre-emption that has waited for the end of an AMO's fence traps before the next instruction (R242). -/
def State.deliverData (s : State) (c : Nat) (l : LateTrap) : State :=
  let k := s.core c
  let info := faultInfo unitDriver 0 false l.pc.toNat
  if l.lease then s.deliver c 0x10 k.drv.pc k.drv.pc (faultInfo unitDriver 0 false k.drv.pc.toNat) 0
  else if isBox c then
    if k.drv.hold = some .halted then s
    else s.modCore c (·.trapFault (s.ttOf c) l.cyc 0x0D (k.drv.pc.setWidth 64) info l.va)
  else (s.deliver c 0x0D l.pc k.drv.pc info l.va).modCore c (·.modCsr (fun r => { r with
    faultCyc := BitVec.ofNat 64 l.cyc }))

/-- A hold of a driver's issue ends: the next instruction issues from timetable cycle `ready` on, after the traps that
have waited for it (R97, R100, R101). -/
def State.unhold (s : State) (c ready : Nat) : State :=
  let late := (s.core c).drv.late
  let s := s.modCore c (·.modDrv (fun d => { d with hold := none, ready := ready, late := [] }))
  late.foldl (fun s l => s.deliverData c l) s

/-- A precise driver fault of the instruction at `pc` (Table 17.4: ADDR holds the PC). -/
def State.precise (s : State) (c : Nat) (cause : BitVec 8) (pc : Half) (va : DWord) : State :=
  s.deliver c cause pc pc (faultInfo unitDriver 0 false pc.toNat) va

/-- A precise fault of the instruction that the meaning's core issues now. -/
def State.faultHere (s : State) (cause : BitVec 8) : State := s.precise s.cur cause s.me.drv.pc 0

def State.faultAtVa (s : State) (cause : BitVec 8) (va : DWord) : State :=
  s.precise s.cur cause s.me.drv.pc va

/-- Cause codes of Table 17.2. -/
def causeIllegal : BitVec 8 := 0x01
def causeUntimed : BitVec 8 := 0x02
def causePrivilege : BitVec 8 := 0x03
def causeMisaligned : BitVec 8 := 0x04
def causeTranslation : BitVec 8 := 0x05
def causeLateStamp : BitVec 8 := 0x06
def causeBufferFull : BitVec 8 := 0x07
def causeMicroOrder : BitVec 8 := 0x08
def causeOperand : BitVec 8 := 0x09
def causeScratchRange : BitVec 8 := 0x0A
def causeSpan : BitVec 8 := 0x0B
def causeLease : BitVec 8 := 0x0C
def causeData : BitVec 8 := 0x0D
def causeTrap : BitVec 8 := 0x0E
def causePreempt : BitVec 8 := 0x0F
def causeLeaseWait : BitVec 8 := 0x10
def causeDouble : BitVec 8 := 0x11
def causeMiss : BitVec 8 := 0x20
def causeWaybillUnder : BitVec 8 := 0x21
def causeWaybill : BitVec 8 := 0x22
def causeUnderflow : BitVec 8 := 0x23
def causeOverflow : BitVec 8 := 0x24
def causeToken : BitVec 8 := 0x25
def causeOccupancy : BitVec 8 := 0x26
def causeSlew : BitVec 8 := 0x27
def causeRotation : BitVec 8 := 0x28
def causePoint : BitVec 8 := 0x29
def causeResidue : BitVec 8 := 0x2A
def causeDram : BitVec 8 := 0x2B
def causeSlotMiss : BitVec 8 := 0x2C
def causeParameter : BitVec 8 := 0x2D
def causeOverrun : BitVec 8 := 0x2E
def causeAlarm : BitVec 8 := 0x2F

/-! ### Issue -/

/-- Events of class `n` charged to a core in this cycle (R259). -/
def Core.charged (k : Core) (n count : Nat) : Core := { k with charge := vecMod k.charge n (· + count) }

/-- A driver instruction leaves issue: PC at `pc`, the next one `cost` cycles on, one event of class 0. -/
def Core.issued (k : Core) (tt cost : Nat) (pc : Half) : Core :=
  (k.modDrv (fun d => { d with pc := pc, ready := tt + cost, entered := false })).charged 0 1

/-- The meaning's core goes on at the next word after `cost` cycles, with its other effects `f`. -/
def State.retire (s : State) (cost : Nat) (f : Core → Core) : State :=
  s.modMe (fun k => f (k.issued s.tt cost (nextPc k.drv.pc)))

/-- A g result of an instruction, with the cycle from which it is visible (R82). -/
def Core.result (k : Core) (visible : Nat) (r : BitVec 5) (v : DWord) : Core :=
  k.modDrv (fun d => { (d.writeG r v) with wroteG := d.wroteG.set r.toNat visible })

def Core.resultX (k : Core) (visible : Nat) (r : BitVec 5) (v : Word) : Core :=
  k.modDrv (fun d => { (d.writeX r v) with wroteX := d.wroteX.set r.toNat visible })

/-- An instruction of issue cost `cost` whose only effect is a g result for the next instruction (R80). -/
def State.retireG (s : State) (cost : Nat) (r : BitVec 5) (v : DWord) : State :=
  s.retire cost (fun k => k.result (s.tt + cost) r v)

end Sys2Proof.Machine
end

