-- ==== Sys2Proof/Machine/Flags.lean ====
section
/-! DEFINITION. The flag computations: predicates, sticky flags of the matrix and vector engines, parity of
check bytes. -/

namespace Sys2Proof.Machine

/-- The six conditions of CMP and CMPI (R87, Table 4.2): eq, ne, lt, ge signed, ltu, geu unsigned. -/
def condHolds (c : BitVec 3) (a b : DWord) : Bool :=
  match c.toNat with
  | 0 => a = b
  | 1 => a ≠ b
  | 2 => a.slt b
  | 3 => b.sle a
  | 4 => a.ult b
  | _ => b.ule a

/-- The four operators of PLOG (R88). -/
def plogOp (l : BitVec 2) (a b : Bool) : Bool :=
  match l.toNat with
  | 0 => a && b
  | 1 => a || b
  | 2 => a != b
  | _ => a && !b

/-- MSTAT bits (Table 1.7). -/
def mstatOvf : DWord := 1
def mstatSat : DWord := 2
def mstatTag : DWord := 4

/-- Sticky MSTAT flags set (R20). -/
def Core.setMstat (k : Core) (bits : DWord) : Core := k.modCsr (fun r => { r with mstat := r.mstat ||| bits })

/-- MITER's end fields written into MSTAT (R20, R151). -/
def mstatIter (old : DWord) (iter : BitVec 12) (substep : BitVec 4) (tile : BitVec 6) : DWord :=
  (0#32 ++ tile ++ substep ++ iter ++ 0#7 ++ old.extractLsb' 0 3).setWidth 64

/-- Even parity bit of seven bits (Table 2.3). -/
def parity (b : BitVec 7) : Bool := (List.range 7).foldl (fun p i => p != b.getLsbD i) false

/-- The check byte of a group (R37, Table 2.3). -/
def checkByte (t : Tag) : Byte :=
  let hi : BitVec 7 := BitVec.ofBool t.rt ++ BitVec.ofBool t.axis ++ BitVec.ofBool t.flv ++ t.seed
  hi ++ BitVec.ofBool (parity hi)

/-- VNF set (R21). -/
def Core.setVnf (k : Core) : Core := k.modVec (fun v => { v with vnf := true })

end Sys2Proof.Machine
end

