-- ==== Sys2Proof/Machine/Operands.lean ====
section
/-! DEFINITION. Operand forms: scratchpad and memory access, bank claims, swizzle, translation, spans and
descriptor fields. -/

namespace Sys2Proof.Machine

/-! ### Scratchpad (R91 to R95, R191 to R197) -/

/-- First byte after the scratchpad. -/
def padEnd : Nat := 0xC0000

/-- The words of a byte range, as word numbers. -/
def wordsIn (a n : Nat) : List Nat := if n = 0 then [] else List.range' (a / 4) ((a + n - 1) / 4 - a / 4 + 1)

/-- Bytes of the scratchpad. -/
def Scratch.bytes (p : Scratch) (a n : Nat) : List Byte := p.mem.getRange a n

/-- Poisoned words of a range, numbered from the word of its first byte. -/
def Scratch.poison (p : Scratch) (a n : Nat) : List Nat :=
  if p.bad.isEmpty then []
  else ((wordsIn a n).filter (fun w => p.bad.get w ≠ 0)).map (fun w => w - a / 4)

/-- A range as a payload. -/
def Scratch.payload (p : Scratch) (a n : Nat) : Payload := ⟨p.bytes a n, p.poison a n⟩

/-- Bytes written with their poison; a word written only in part keeps its poison (R95, R276). -/
def Scratch.write (p : Scratch) (a : Nat) (d : Payload) : Scratch :=
  let n := d.bytes.length
  let bad := (wordsIn a n).foldl (fun (m : Cells 1) w =>
    if d.poison.contains (w - a / 4) then m.set w 1
    else if a ≤ 4 * w ∧ 4 * w + 4 ≤ a + n then m.set w 0 else m) p.bad
  { p with mem := p.mem.setRange a d.bytes, bad := if p.bad.isEmpty ∧ d.poison.isEmpty then [] else bad }

/-- Side read of words: no bank, no lane (R178, R182). -/
def Scratch.word (p : Scratch) (a : Nat) : Word := BitVec.ofNat 32 (p.mem.readLE a 4)

/-- Mask of the banks that the words of a range use in its first block, and in the next one (R194). -/
def banksOf (a n : Nat) : Byte × Byte :=
  let ws := wordsIn a n
  let blk := a / 0x10000
  let mask := fun (l : List Nat) => l.foldl (fun (m : Byte) w => m ||| (1#8 <<< (w % 8))) 0
  (mask (ws.filter (fun w => w * 4 / 0x10000 = blk)), mask (ws.filter (fun w => w * 4 / 0x10000 ≠ blk)))

/-- A grant event of core `c` in the cycle `n` on, if none stands there yet. -/
def State.grantAt (s : State) (c n : Nat) : State :=
  if s.agenda.any (fun d => d.who = c && d.cycle = s.clock + n && d.rank = rankClaim && d.instr = .bankClaimGrant)
  then s else s.timedAt c n rankClaim .bankClaimGrant

/-- A bank claim of core `c` for the cycle `n` on (R194, R195). -/
def State.claim (s : State) (c n rank block : Nat) (banks banks2 : Byte) (act : Act) : State :=
  let asked := s.ttOf c + n
  (s.modCore c (·.modPad (fun p => { p with
    claims := p.claims ++ [⟨asked, rank, block, banks, banks2, act⟩] }))).grantAt c n

/-- A claim of all banks of the block of an address. -/
def State.claimBlock (s : State) (c n rank addr : Nat) (act : Act) : State :=
  s.claim c n rank (addr / 0x10000) 0xFF 0 act

/-- A claim of the banks of the words of a range, from the driver's station S9. -/
def State.claimWords (s : State) (c n addr len : Nat) (act : Act) : State :=
  let b := banksOf addr len
  s.claim c n 9 (addr / 0x10000) b.1 b.2 act

/-- Transit of a beat, block to station, station to block, block to block; `ac` is the anticlockwise lane
(R175, Table 9.1). -/
def toStation (ac : Bool) (x s : Nat) : Nat :=
  if ac then (x + 12 - s + 11) % 12 + 1 else (s + 12 - x) % 12 + 1
def toBlock (ac : Bool) (s y : Nat) : Nat :=
  if ac then (s + 12 - y) % 12 + 1 else (y + 12 - s + 11) % 12 + 1
def blockToBlock (ac : Bool) (x y : Nat) : Nat :=
  if ac then (x + 12 - y + 11) % 12 + 1 else (y + 12 - x + 11) % 12 + 1

/-- Swizzle code (R16, R197): chunk, XOR width, lowest row bit. -/
def swzOk (z : BitVec 7) : Bool :=
  let c := (z.extractLsb' 5 2).toNat
  let w := (z.extractLsb' 3 2).toNat + 2
  let l := 7 + (z.extractLsb' 0 3).toNat
  if c = 0 then z.extractLsb' 0 5 = 0#5 else w < 5 && c + 4 + w ≤ l

/-- The offset at which a byte of offset `d` is written (R197). -/
def swizzle (z : BitVec 7) (d : Nat) : Nat :=
  let c := (z.extractLsb' 5 2).toNat
  if c = 0 then d
  else
    let w := (z.extractLsb' 3 2).toNat + 2
    let l := 7 + (z.extractLsb' 0 3).toNat
    d ^^^ (d / 2 ^ l % 2 ^ w * 2 ^ (c + 4))

/-! ### Memory (R191, R215 to R220) -/

def depotBase : Nat := 0x10000000000
def depotEnd : Nat := 0x10040000000
def hostBase : Nat := 0x8000000000000
def hostEnd : Nat := 0x10000000000000

inductive Tier where
  | hbm | depot | host
  deriving DecidableEq, Repr

/-- The memory of a physical address (Table 11.1). -/
def tierOf (pa : Nat) : Option Tier :=
  if pa < depotBase then some .hbm
  else if pa < depotEnd then some .depot
  else if hostBase ≤ pa ∧ pa < hostEnd then some .host
  else none

/-- Die of a depot address; die of the stack of an HBM address. -/
def memDie (pa : Nat) : Nat := if pa < depotBase then pa / 2 ^ 36 / 2 else (pa - depotBase) / 2 ^ 27

/-- Pseudo-channel, bank, row and byte of an HBM address. -/
def pcOf (pa : Nat) : Nat := 64 * (pa / 2 ^ 36) + pa / 2 ^ 30 % 64
def bankOf (pa : Nat) : Nat := pa / 2 ^ 10 % 16
def rowOf (pa : Nat) : Nat := pa / 2 ^ 14 % 65536

/-- Front buffer of an address: 0 to 7 the depots, 8 + pc the pseudo-channels, 1032 the host tier. -/
def bufferOf (pa : Nat) : Nat :=
  match tierOf pa with
  | some .hbm => 8 + pcOf pa
  | some .depot => memDie pa
  | _ => 1032

/-- A byte of memory, or the free byte of a save record that lies there (R243, log 59). -/
def State.statedByte (s : State) (pa : Nat) (v : Byte) : Byte :=
  match s.records.find? (fun r => r.lo ≤ pa && pa < r.hi) with
  | some r => Config.recordByte r.seed pa
  | none => v

/-- Bytes at the array (R218). -/
def State.arrayBytes (s : State) (pa n : Nat) : List Byte :=
  let l := s.mem.getRange pa n
  if s.records.all (fun r => r.hi ≤ pa || pa + n ≤ r.lo) then l else (l.zipIdx pa).map (fun x => s.statedByte x.2 x.1)

/-- The save records that lie outside a range that is written. -/
def cutRecords (l : List Unstated) (pa n : Nat) : List Unstated :=
  l.flatMap (fun r => [{ r with hi := min r.hi pa }, { r with lo := max r.lo (pa + n) }].filter (fun r => r.lo < r.hi))

/-- Whether a range touches a page of the host tier that the host has not made available (R319). -/
def State.hostMissing (s : State) (pa n : Nat) : Bool :=
  hostBase ≤ pa && n ≠ 0 && (List.range' (pa / 2 ^ 16) ((pa + n - 1) / 2 ^ 16 - pa / 2 ^ 16 + 1)).any (fun p =>
    !s.hostPages.contains p)

/-- Poisoned 32-bit words of a range, numbered from the word of its first byte; storage keeps poison by
64-bit word. -/
def poisonIn (bad : Cells 1) (pa n : Nat) : List Nat :=
  if bad.isEmpty then []
  else ((wordsIn pa n).filter (fun w => bad.get (w / 2) ≠ 0)).map (fun w => w - pa / 4)

/-- Bytes at the array with their poison; those of a host page that is not available are poisoned (R276, R319). -/
def State.arrayPayload (s : State) (pa n : Nat) : Payload :=
  ⟨s.arrayBytes pa n, if s.hostMissing pa n then List.range ((pa % 4 + n + 3) / 4) else poisonIn s.bad pa n⟩

/-- Byte as the front buffer shows it: the youngest performed store that has not arrived, else the array. -/
def frontByte (f : List Front) (pa : Nat) (v : Byte) : Byte :=
  f.foldl (fun v e => if e.pa ≤ pa ∧ pa < e.pa + e.size ∧ !e.dead.contains pa then e.bytes.get (pa - e.pa) else v) v

/-- Bytes as the front buffers show them, this cycle's stores among them (R221, R225). -/
def State.frontBytes (s : State) (pa n : Nat) : List Byte :=
  let l := s.arrayBytes pa n
  if s.front.isEmpty then l else (List.range n).map (fun i => frontByte s.front (pa + i) (l.getD i 0))

/-- Stores that have performed in earlier cycles: the ones that an untimed read of this cycle sees (R219). -/
def State.frontSeen (s : State) : List Front := s.front.filter (fun e => e.prf < s.clock)

/-- Bytes as an untimed load or the read of an AMO sees them (R219). -/
def State.loadBytes (s : State) (pa n : Nat) : List Byte :=
  let l := s.arrayBytes pa n
  let f := s.frontSeen
  if f.isEmpty then l else (List.range n).map (fun i => frontByte f (pa + i) (l.getD i 0))

/-- Whether an untimed read meets poison: a byte whose 64-bit word is poisoned and that no store in a front buffer
covers. -/
def State.frontBad (s : State) (pa n : Nat) : Bool :=
  !(poisonIn s.bad pa n).isEmpty && (List.range' pa n).any (fun a => s.bad.get (a / 8) ≠ 0 &&
    s.frontSeen.all (fun e => !(e.pa ≤ a && a < e.pa + e.size) || e.dead.contains a))

/-- Bytes taken over from earlier untimed stores by a co-later write (R217). -/
def Front.take (e : Front) (clock pa n : Nat) : Front :=
  if e.prf < clock then
    { e with dead := e.dead ++ ((List.range e.size).map (e.pa + ·)).filter (fun a => pa ≤ a ∧ a < pa + n) }
  else e

/-- Poison of the array after a write: full 64-bit words take the payload's, others keep theirs. -/
def poisonAfter (bad : Cells 1) (pa n : Nat) (poison : List Nat) : Cells 1 :=
  if bad.isEmpty ∧ poison.isEmpty ∨ n = 0 then bad
  else (List.range' (pa / 8) ((pa + n - 1) / 8 - pa / 8 + 1)).foldl (fun (m : Cells 1) w =>
    if poison.contains (2 * w - pa / 4) ∧ pa / 4 ≤ 2 * w ∨ poison.contains (2 * w + 1 - pa / 4) then m.set w 1
    else if pa ≤ 8 * w ∧ 8 * w + 8 ≤ pa + n then m.set w 0 else m) bad

/-- A write that goes to the array at once (R217, R218). -/
def State.arrayWrite (s : State) (pa : Nat) (d : Payload) : State :=
  { s with mem := s.mem.setRange pa d.bytes, bad := poisonAfter s.bad pa d.bytes.length d.poison,
           wroteNow := (pa, d.bytes.length) :: s.wroteNow, records := cutRecords s.records pa d.bytes.length,
           front := s.front.map (·.take s.clock pa d.bytes.length) }

/-- The walker writes a save record: the range holds free bytes from now on, without poison (R243, log 59). -/
def State.writeRecord (s : State) (pa n : Nat) : State :=
  { s with
    mem := s.mem.below pa ++ s.mem.above (pa + n), bad := s.bad.below (pa / 8) ++ s.bad.above ((pa + n) / 8),
    front := s.front.map (·.take s.clock pa n), records := cutRecords s.records pa n ++ [⟨pa, pa + n, s.fresh⟩],
    fresh := s.fresh + 1 }

/-- An untimed store performs: it stands in the front buffer until it arrives, `fixed` after the figure of Table 13.1 and
behind the arrivals before it, otherwise after a time that the spec leaves open, in any order (R215, R220, R227, log 3). -/
def State.frontWrite (s : State) (core pa : Nat) (bytes : List Byte) (fixed : Bool) : State :=
  let b := bufferOf pa
  let n := if fixed then (Config.arrivalCycles, s) else s.freeCycles
  let s := n.2
  let last := (s.arrived.find b).getD 0
  let arr := if fixed then max (s.clock + n.1) last else s.clock + n.1
  let id := s.fresh
  let e : Front := ⟨id, core, pa, Cells.dense 0 bytes, bytes.length, [], s.clock⟩
  State.due { s with front := s.front ++ [e], arrived := s.arrived.put b (max last (arr + 1)), fresh := s.fresh + 1 }
    arr rankStore none id .storeArrival

/-! ### Translation (R191, R211 to R214) -/

/-- A page: its frame, whether it is 512 MiB, writable, host tier, migrating, valid for every address
space. -/
structure Page where
  frame : Nat
  big : Bool
  write : Bool
  host : Bool
  mig : Bool
  glob : Bool
  deriving DecidableEq, Repr

def Page.size (p : Page) : Nat := if p.big then 2 ^ 29 else 2 ^ 16

/-- Page-table entry as it stands in memory for a walk. -/
def State.pteAt (s : State) (pa : Nat) : DWord := BitVec.ofNat 64 (leNat (s.frontBytes pa 8))

/-- Zero fields of an entry (Table 11.10). -/
def pteZeroOk (e : DWord) : Bool := e.extractLsb' 52 12 = 0#12 && e.extractLsb' 7 9 = 0#9

def pteFrame (e : DWord) : Nat := (e.extractLsb' 16 36).toNat * 2 ^ 16

/-- A page entry: tier and frame must agree, the frame must exist (R191, R211). -/
def pageOf (e : DWord) (big : Bool) : Option Page :=
  let f := pteFrame e
  let tier := (e.extractLsb' 4 2).toNat
  let agree := match tierOf f with
    | some .host => tier = 1
    | some _ => tier = 0
    | none => false
  if e.getLsbD 0 && pteZeroOk e && e.getLsbD 1 && agree && (!big || f % 2 ^ 29 = 0) then
    some ⟨f, big, e.getLsbD 2, tier = 1, e.getLsbD 6, e.getLsbD 3⟩
  else none

/-- A table entry of the two upper levels: valid, TYPE 0, zero fields zero. -/
def tableOf (e : DWord) : Option Nat :=
  if e.getLsbD 0 && pteZeroOk e && !e.getLsbD 1 && (e.extractLsb' 4 2).toNat < 2 then some (pteFrame e) else none

/-- The three-level walk from a root (R211). -/
def State.walk (s : State) (root : Nat) (va : DWord) : Option Page :=
  if va.extractLsb' 55 9 ≠ 0#9 then none
  else
    match tableOf (s.pteAt (root + 8 * (va.extractLsb' 42 13).toNat)) with
    | none => none
    | some t2 =>
      let e2 := s.pteAt (t2 + 8 * (va.extractLsb' 29 13).toNat)
      if e2.getLsbD 1 then pageOf e2 true
      else match tableOf e2 with
        | none => none
        | some t3 => pageOf (s.pteAt (t3 + 8 * (va.extractLsb' 16 13).toNat)) false

/-- Entries that a walk reads, in order (R211). -/
def State.walkPath (s : State) (root : Nat) (va : DWord) : List Nat :=
  let a1 := root + 8 * (va.extractLsb' 42 13).toNat
  if va.extractLsb' 55 9 ≠ 0#9 then []
  else match tableOf (s.pteAt a1) with
  | none => [a1]
  | some t2 =>
    let a2 := t2 + 8 * (va.extractLsb' 29 13).toNat
    match tableOf (s.pteAt a2) with
    | none => [a1, a2]
    | some t3 => [a1, a2, t3 + 8 * (va.extractLsb' 16 13).toNat]

/-- Root of an address space: its entry in the ASID root table (R249). -/
def State.rootOfAsid (s : State) (asid : BitVec 13) : Option Nat :=
  let e := s.pteAt (s.host.roottab.toNat + 8 * asid.toNat)
  if e.getLsbD 0 then some (pteFrame e) else none

/-- Root of a core's walks: that of its ASID, or a signal box's PGROOT (R211). -/
def State.rootOf (s : State) (c : Nat) : Option Nat :=
  if isBox c then some (((s.core c).csr.pgroot.extractLsb' 16 36).toNat * 2 ^ 16)
  else s.rootOfAsid ((s.core c).csr.ctxid.setWidth 13)

def pteOfPage (p : Page) : DWord :=
  BitVec.ofNat 64 (p.frame + (if p.glob then 8 else 0) + (if p.host then 16 else 0) + (if p.write then 4 else 0) + 3)

/-- Whether a TLB entry serves an address of an address space (R212). -/
def TlbEntry.serves (e : TlbEntry) (asid : BitVec 13) (va : DWord) : Bool :=
  (e.asid = asid || e.pte.getLsbD 3) && va.toNat / (if e.big then 2 ^ 29 else 2 ^ 16) = e.vpage

/-- Whether some page of a TLB entry is pinned, by whatever address space when the entry serves all of them. -/
def State.entryPinned (s : State) (e : TlbEntry) : Bool :=
  s.pins.any (fun p => p.big = e.big && p.vpage = e.vpage && (p.asid = e.asid || e.pte.getLsbD 3))

/-- A TLB of at most 4,096 entries after one more: the oldest one whose page is not pinned makes room, so that a pinned page
keeps its translation at hand (R212, R227). -/
def tlbAfter (pinned : TlbEntry → Bool) (l : List TlbEntry) : List TlbEntry :=
  if l.length ≤ 4096 then l
  else match (l.drop 1).reverse.find? (fun e => !pinned e) with
  | some e => l.erase e
  | none => l.drop 1

/-- Whether the die of a core holds the translation of an address. -/
def State.tlbHit (s : State) (c : Nat) (va : DWord) : Bool :=
  (vecGet s.dies Die.reset (coreDie c)).tlb.any (·.serves ((s.core c).csr.ctxid.setWidth 13) va)

/-- Entries that the translation of an address has to read: none where the TLB holds it (R212). -/
def State.walkReads (s : State) (c : Nat) (va : DWord) : List Nat :=
  if s.tlbHit c va then [] else ((s.rootOf c).map (fun root => s.walkPath root va)).getD []

/-- Pages of a range, by their numbers. -/
def rangePages (va n : Nat) : List Nat := List.range' (va / 2 ^ 16) ((va + n - 1) / 2 ^ 16 - va / 2 ^ 16 + 1)

/-- Entries that an XPIN reads: those of one walk for a page of 512 MiB, else of every page of its range; an entry that lies on
the way to several pages is read once. -/
def State.pinReads (s : State) (c va n : Nat) : List Nat :=
  let ps := rangePages va n
  let one := s.walkReads c (BitVec.ofNat 64 va)
  let big := ((s.rootOf c).bind (fun root => s.walk root (BitVec.ofNat 64 va))).any (·.big)
  if 2 ^ 55 ≤ va then []
  else if big || 16 < ps.length then one
  else (ps.flatMap (fun p => let a := max va (p * 2 ^ 16)
    if 2 ^ 55 ≤ a then [] else s.walkReads c (BitVec.ofNat 64 a))).eraseDups

/-- Translation: what the page tables say, since TLB replacement has no visible effect beyond latency (R212, log 57);
the die's TLB then holds the page, unless it migrates. -/
def State.translate (s : State) (c : Nat) (va : DWord) : Option Page × State :=
  let d := coreDie c
  let asid : BitVec 13 := (s.core c).csr.ctxid.setWidth 13
  match (s.rootOf c).bind (fun root => s.walk root va) with
  | none => (none, s)
  | some p =>
    if p.mig || (vecGet s.dies Die.reset d).tlb.any (·.serves asid va) then (some p, s)
    else
      let e : TlbEntry := ⟨asid, va.toNat / p.size, p.big, pteOfPage p⟩
      (some p, { s with dies := vecMod s.dies d (fun q => { q with tlb := tlbAfter s.entryPinned (e :: q.tlb) }) })

/-- Physical address of an address within its page. -/
def Page.pa (p : Page) (va : DWord) : Nat := p.frame + va.toNat % p.size

/-! ### Spans (R24, R119) -/

/-- Physical address of a byte offset of a span, within its extent. -/
def Span.pa (sp : Span) (off : Nat) : Nat :=
  let a := sp.vbase + off
  if sp.big then sp.frames.getD 0 0 + a % 2 ^ 29
  else sp.frames.getD (a / 2 ^ 16 - sp.vbase / 2 ^ 16) 0 + a % 2 ^ 16

/-- A range lies within the extent. -/
def Span.covers (sp : Span) (lo hi : Int) : Bool := 0 ≤ lo && hi ≤ sp.extent


/-- Some frame lies in a given memory. -/
def Span.meets (sp : Span) (t : Tier) : Bool := sp.frames.any (fun f => tierOf f = some t)

/-- A copy with a host-tier side (R202). -/
def Copy.onHost (c : Copy) : Bool := (c.src.toList ++ c.dst.toList).any (·.meets .host)

/-- Page size of a span. -/
def Span.pageSize (sp : Span) : Nat := if sp.big then 2 ^ 29 else 2 ^ 16

/-- The pieces of `n` bytes from an address on that lie within one page each, as offset and length; the fuel is one more
than the pages they can touch. -/
def pagePieces (size : Nat) : Nat → Nat → Nat → Nat → List (Nat × Nat)
  | 0, _, _, _ => []
  | f + 1, a, off, n =>
    if n = 0 then []
    else
      let m := min n (size - a % size)
      (off, m) :: pagePieces size f (a + m) (off + m) (n - m)

/-- The pieces of a range of a span, page by page. -/
def Span.pieces (sp : Span) (off n : Nat) : List (Nat × Nat) :=
  pagePieces sp.pageSize (n / sp.pageSize + 2) (sp.vbase + off) off n

/-- Place of a word of a piece at `o` among the words of a range at `off`, both offsets of a span. -/
def Span.wordGap (sp : Span) (off o : Nat) : Nat := (sp.vbase + o) / 4 - (sp.vbase + off) / 4

/-- Bytes of a span at the array, by offset; split by page. -/
def State.spanPayload (s : State) (sp : Span) (off n : Nat) : Payload :=
  let ps := (sp.pieces off n).map (fun x => (sp.wordGap off x.1, s.arrayPayload (sp.pa x.1) x.2))
  ⟨ps.flatMap (·.2.bytes), ps.flatMap (fun x => x.2.poison.map (· + x.1))⟩

/-- A timed write to a span at the array. -/
def State.spanWrite (s : State) (sp : Span) (off : Nat) (d : Payload) : State :=
  (sp.pieces off d.bytes.length).foldl (fun s x =>
    let g := sp.wordGap off x.1
    s.arrayWrite (sp.pa x.1) ⟨(d.bytes.drop (x.1 - off)).take x.2,
      (d.poison.filter (fun w => g ≤ w ∧ w ≤ sp.wordGap off (x.1 + x.2 - 1))).map (· - g)⟩) s

/-- Physical address of the word that poison names in a range of a span. -/
def Span.wordPa (sp : Span) (off w : Nat) : Nat :=
  sp.pa (max off ((sp.vbase + off) / 4 * 4 + 4 * w - sp.vbase)) / 4 * 4

/-- A span register of a core. -/
def Core.spanAt (k : Core) (n : Nat) : Option Span := k.span.find n

/-! ### Descriptor words -/

/-- Bits [hi:lo] of a word, as a number. -/
def bits (w : Word) (hi lo : Nat) : Nat := w.toNat / 2 ^ lo % 2 ^ (hi + 1 - lo)

/-- Whether every bit of a word outside a mask is zero. -/
def onlyBits (w : Word) (mask : Nat) : Bool := w &&& ~~~BitVec.ofNat 32 mask = 0

/-- A word as a signed number. -/
def sint (w : Word) : Int := w.toInt

/-- The sign-extended 20-bit field of an address generator. -/
def sint20 (w : BitVec 20) : Int := w.toInt

end Sys2Proof.Machine
end

