-- ==== Sys2Proof/Machine/Special.lean ====
section
/-! DEFINITION. The special functions (02, R54): the exact value in integer fixed point, then one rounding.
`fixed` values stand for integers over 2^192; their errors stay below 2^-150, and no FP32 argument of these
functions is known to need more (log 12). -/

namespace Sys2Proof

/-- Bits of a fixed-point fraction. -/
def fixBits : Nat := 192
def fixOne : Nat := 2 ^ fixBits

/-- Terms t^k / k! from a given one on. -/
def expTerms : Nat → Nat → Nat → Nat → Nat
  | 0, _, _, _ => 0
  | fuel + 1, k, t, term => term + expTerms fuel (k + 1) t (term * t / fixOne / (k + 1))

/-- e^t for a fixed-point t below 1. -/
def fixExp (t : Nat) : Nat := expTerms 64 0 t fixOne

/-- Terms z^(2k+1) / (2k+1) from a given one on. -/
def atanhTerms : Nat → Nat → Nat → Nat → Nat
  | 0, _, _, _ => 0
  | fuel + 1, k, zz, p => p / (2 * k + 1) + atanhTerms fuel (k + 1) zz (p * zz / fixOne)

/-- 2 atanh z for a fixed-point z up to 1/3: ln ((1 + z) / (1 - z)). -/
def fixLnRatio (z : Nat) : Nat := 2 * atanhTerms 72 0 (z * z / fixOne) z

def fixLn2 : Nat := fixLnRatio (fixOne / 3)

/-- Integer square root, one bit at a time from a trial bit down. -/
def isqrtFrom : Nat → Nat → Nat → Nat
  | 0, _, r => r
  | b + 1, n, r => if (r + 2 ^ b) * (r + 2 ^ b) ≤ n then isqrtFrom b n (r + 2 ^ b) else isqrtFrom b n r

def isqrt (n : Nat) : Nat := isqrtFrom (n.log2 / 2 + 1) n 0

/-- The magnitude (num / den) * 2^e with a sign, as an FP32 word. -/
def fpOut (neg : Bool) (num den : Nat) (e : Int) : Word :=
  BitVec.ofNat 32 (fp32.finish .rne false neg (fp32.roundMag .rne num den e)).1

def f32inf (neg : Bool) : Word := if neg then 0xFF800000#32 else 0x7F800000#32

/-- floor (m * 2^e * 2^192), a fixed-point number of any sign. -/
def toFixed (m e : Int) : Int :=
  let k := e + fixBits
  if 0 ≤ k then m * 2 ^ k.toNat else m.fdiv (2 ^ (-k).toNat)

/-- 2^a (Table 2.8). -/
def fexp2 (w : Word) : Word :=
  match f32 w with
  | .nan => f32nan
  | .inf true => 0
  | .inf false => f32inf false
  | .fin _ m e =>
    if m = 0 then 0x3F800000#32
    else
      let x := toFixed m e
      if 128 * (fixOne : Int) ≤ x then f32inf false
      else if x ≤ -150 * (fixOne : Int) then 0
      else
        let n := x.fdiv fixOne
        let f := (x - n * fixOne).toNat
        fpOut false (fixExp (f * fixLn2 / fixOne)) 1 (n - fixBits)

/-- log2 a (Table 2.8). -/
def flog2 (w : Word) : Word :=
  match f32 w with
  | .nan => f32nan
  | .inf true => f32nan
  | .inf false => f32inf false
  | .fin _ m e =>
    if m = 0 then f32inf true
    else if m < 0 then f32nan
    else
      let k := m.natAbs.log2
      let n : Int := k + e
      -- y = 1 + (m - 2^k) / 2^k, and ln y = 2 atanh ((y - 1) / (y + 1))
      let z := (m.natAbs - 2 ^ k) * fixOne / (m.natAbs + 2 ^ k)
      let l : Int := n * fixOne + (fixLnRatio z * fixOne / fixLn2 : Nat)
      if z = 0 then fpOut (n < 0) n.natAbs 1 0 else fpOut (l < 0) l.natAbs 1 (-fixBits)

/-- 1 / a (Table 2.8). -/
def frcp (w : Word) : Word :=
  match f32 w with
  | .nan => f32nan
  | .inf s => if s then 0x80000000#32 else 0
  | .fin s m e => if m = 0 then f32inf s else fpOut (m < 0) 1 m.natAbs (-e)

/-- 1 / sqrt a (Table 2.8): 128 bits of the root and whether more follow. -/
def frsq (w : Word) : Word :=
  match f32 w with
  | .nan => f32nan
  | .inf true => f32nan
  | .inf false => 0
  | .fin s m e =>
    if m = 0 then f32inf s
    else if m < 0 then f32nan
    else
      let odd := e.emod 2 = 1
      let n := if odd then 2 * m.natAbs else m.natAbs
      let h : Int := (if odd then e - 1 else e) / 2
      let r := isqrt (2 ^ 256 / n)
      let more := if r * r * n = 2 ^ 256 then 0 else 1
      fpOut false (2 * r + more) 1 (-129 - h)

/-- tanh a (Table 2.8). Below 2^-40 it rounds to a, from 16 on to 1. -/
def ftanh (w : Word) : Word :=
  match f32 w with
  | .nan => f32nan
  | .inf s => if s then 0xBF800000#32 else 0x3F800000#32
  | .fin _ m e =>
    let x := (toFixed m.natAbs e).toNat
    if x < 2 ^ (fixBits - 40) then w
    else if 16 * fixOne ≤ x then (if m < 0 then 0xBF800000#32 else 0x3F800000#32)
    else
      -- e^(2x) = 2^n * e^r
      let n := 2 * x / fixLn2
      let r := 2 * x - n * fixLn2
      let v := fixExp r * 2 ^ n
      fpOut (m < 0) (v - fixOne) (v + fixOne) 0

end Sys2Proof
end

