-- ==== Sys2Proof/Machine/Quant.lean ====
section
/-! DEFINITION. Rotation, narrowing and dequantising of blocks and groups (02, R34 to R37, R44 to R51), and the
layouts of rows and tiles (02, Table 2.2; 11, R196). -/

namespace Sys2Proof.Machine

/-- Sticky outcomes of a conversion (R41, R50). -/
structure QFlags where
  ovf : Bool
  sat : Bool
  deriving DecidableEq, Repr

def QFlags.none : QFlags := ⟨false, false⟩
def QFlags.or (a b : QFlags) : QFlags := ⟨a.ovf || b.ovf, a.sat || b.sat⟩
def QFlags.of : Flag → QFlags
  | .none => ⟨false, false⟩
  | .ovf => ⟨true, false⟩
  | .sat => ⟨false, true⟩

/-- The floating-point format of a code 0 to 5 (Table 2.4). -/
def fmtOf (code : Nat) : FpFmt :=
  match code with
  | 0 => fp32
  | 1 => bf16
  | 2 => fp16
  | 3 => e4m3
  | 4 => e5m2
  | _ => e2m1

def isBlockFmt (code : Nat) : Bool := 3 ≤ code && code ≤ 5
def isGroupFmt (code : Nat) : Bool := code = 6 || code = 7

/-- Bits of an element or code. -/
def codeBits (code : Nat) : Nat :=
  match code with
  | 0 => 32
  | 1 => 16
  | 2 => 16
  | 5 => 4
  | 7 => 4
  | _ => 8

/-- Group size of a GRP field. -/
def groupSize (grp : Nat) : Nat := 32 * 2 ^ grp

/-- The rounding of a mode field for each element (R39, R40): 0 RNE, 1 RTZ, 2 SR, 3 RNE. `draw` gives u. -/
def rndOf (mode : Nat) (draw : Nat → Nat) (e : Nat) : Rnd :=
  match mode with
  | 1 => .rtz
  | 2 => .sr (draw e)
  | _ => .rne

/-! ### Rotation (R45) -/

/-- One butterfly stage over a list of 32. -/
def butterfly {α : Type} (add sub : α → α → α) (d : α) (s : Nat) (v : List α) : List α :=
  let a := v.toArray
  (List.range v.length).map (fun i =>
    if i.testBit s then sub (a.getD (i - 2 ^ s) d) (a.getD i d) else add (a.getD i d) (a.getD (i + 2 ^ s) d))

/-- The five stages. -/
def butterflies {α : Type} (add sub : α → α → α) (d : α) (v : List α) : List α :=
  (List.range 5).foldl (fun v s => butterfly add sub d s v) v

/-- A finite number on the grid 2^q, rounded RNE. -/
def onGrid (q : Int) : Num → Int
  | .fin _ m e => if q ≤ e then m * 2 ^ (e - q).toNat else roundInt .rne m (2 ^ (q - e).toNat)
  | _ => 0

/-- RotateBlock: the wide values of 32 finite numbers. -/
def rotateBlock (seed : Word) (flv : Bool) (xs : List Num) : List Num :=
  let nz := xs.filter (fun x => !(x.eq Num.zero))
  match nz with
  | [] => xs.map (fun _ => Num.zero)
  | x :: r =>
    let q := maxInt x.log2 (r.map Num.log2) - 23
    let n := xs.zipIdx.map (fun p => if seed.getLsbD p.2 then -(onGrid q p.1) else onGrid q p.1)
    let q' := q - (if flv then 2 else 3)
    (butterflies (· + ·) (· - ·) 0 n).map (fun (k : Int) => .fin (k < 0) k q')

/-- HadamardUndo: the butterflies first, then the scale and the signs; the sign of a zero follows R39 (log 13). -/
def undoBlock (seed : Word) (flv : Bool) (xs : List Num) : List Num :=
  (butterflies Num.add Num.sub Num.zero xs).zipIdx.map (fun p =>
    let v := p.1.scale (if flv then -3 else -2)
    if seed.getLsbD p.2 then v.neg else v)

def allFinite (xs : List Num) : Bool := xs.all Num.isFinite

/-! ### Narrowing (R48 to R50) -/

/-- One narrowed block, group or code-8 run: codes as bits, and its scale byte or trailer. -/
structure QBlock where
  codes : List Nat
  trailer : List Byte
  deriving DecidableEq, Repr

/-- EMAX of a block format. -/
def emaxOf (code : Nat) : Int := if code = 3 then 8 else if code = 4 then 15 else 2

/-- A code of `b` bits from a signed integer. -/
def codeOf (b : Nat) (i : Int) : Nat := (i % (2 ^ b : Int)).toNat

def clampInt (lo hi i : Int) : Int := max lo (min hi i)

/-- RoundInt of a finite number; a NaN gives 0 and an infinity a value beyond every range (R42). -/
def numToInt (r : Rnd) : Num → Int
  | .nan => 0
  | .inf s => if s then -(2 ^ 64) else 2 ^ 64
  | .fin _ m e => if 0 ≤ e then m * 2 ^ e.toNat else roundInt r m (2 ^ (-e).toNat)

/-- The quotient of two finite numbers rounded to an integer. -/
def divInt (r : Rnd) : Num → Num → Int
  | .fin _ m e, .fin _ n d =>
    let s : Int := if n < 0 then -m else m
    if d ≤ e then roundInt r (s * 2 ^ (e - d).toNat) n.natAbs else roundInt r s (n.natAbs * 2 ^ (d - e).toNat)
  | _, _ => 0

/-- The non-finite rule (R50). -/
def nonFiniteBlock (code len : Nat) (check : Byte) : QBlock × QFlags :=
  (⟨List.replicate len 0,
    if isBlockFmt code then [0xFF#8] else if isGroupFmt code then [0x00#8, 0x7E#8, 0x00#8, check] else []⟩,
   ⟨true, false⟩)

/-- QuantBlock over values that are all finite, each with its rounding. -/
def quantBlock (code : Nat) (sat : Bool) (xs : List (Num × Rnd)) : QBlock × QFlags :=
  let nz := (xs.map Prod.fst).filter (fun x => !(x.eq Num.zero))
  match nz with
  | [] => (⟨xs.map (fun _ => 0), [0x7F#8]⟩, QFlags.none)
  | x :: r =>
    let e := clampInt (-127) 127 (maxInt x.log2 (r.map Num.log2) - emaxOf code)
    let out := xs.map (fun p => (fmtOf code).round p.2 sat (p.1.scale (-e)))
    (⟨out.map Prod.fst, [BitVec.ofInt 8 (e + 127)]⟩, out.foldl (fun f p => f.or (QFlags.of p.2)) QFlags.none)

def numMin (a b : Num) : Num := if b.lt a then b else a
def numMax (a b : Num) : Num := if a.lt b then b else a

/-- Saturation of a group's scale: under RTZ it never rounds to an infinity, so it sets no flag (R49). -/
def scaleSat (sat : Bool) : Rnd → Bool
  | .rtz => false
  | _ => sat

/-- QuantGroup over finite rotated values; `scaleRnd` rounds the scale. -/
def quantGroup (code : Nat) (sat : Bool) (check : Byte) (scaleRnd : Rnd) (xs : List (Num × Rnd)) :
    QBlock × QFlags :=
  let b := codeBits code
  let qmin : Int := -(2 ^ (b - 1))
  let qmax : Int := 2 ^ (b - 1) - 1
  let lo := (xs.map Prod.fst).foldl numMin Num.zero
  let hi := (xs.map Prod.fst).foldl numMax Num.zero
  match hi.sub lo with
  | .fin _ m e =>
    if m = 0 then (⟨xs.map (fun _ => 0), [0x00#8, 0x3C#8, 0x00#8, check]⟩, QFlags.none)
    else
      let s0 := fp16.finish scaleRnd (scaleSat sat scaleRnd) false (fp16.roundMag scaleRnd m.natAbs (qmax - qmin).toNat e)
      let sb := if s0.1 = 0 then 1 else if s0.1 = 0x7C00 then 0x7BFF else s0.1
      let s := fp16.decode sb
      let z := clampInt qmin qmax (qmin - divInt .rne lo s)
      let codes := xs.map (fun p => codeOf b (clampInt qmin qmax (divInt p.2 p.1 s + z)))
      (⟨codes, leBytes 2 sb ++ [BitVec.ofInt 8 z, check]⟩, QFlags.of s0.2)
  | _ => nonFiniteBlock code xs.length check

/-- One run of values narrowed: a block, a group, or 32 values of code 8. -/
def narrowRun (code : Nat) (sat : Bool) (check : Byte) (scaleRnd : Rnd) (finite : Bool)
    (xs : List (Num × Rnd)) : QBlock × QFlags :=
  if !finite then nonFiniteBlock code xs.length check
  else if isBlockFmt code then quantBlock code sat xs
  else if isGroupFmt code then quantGroup code sat check scaleRnd xs
  else (⟨xs.map (fun p => codeOf 8 (clampInt (-128) 127 (numToInt p.2 p.1))), []⟩, QFlags.none)

/-- A list cut into runs of `n`; `fuel` bounds the number of runs. -/
def chunks {α : Type} (n : Nat) : Nat → List α → List (List α)
  | 0, _ => []
  | fuel + 1, l => if l.isEmpty then [] else l.take n :: chunks n fuel (l.drop n)

/-- What a narrowing is told besides its values (R44, R140, R162, R185): format code, saturation, rounding mode,
u of an element, u of the scale of a group, run length, rotation seed and flavour, check byte. -/
structure Narrowing where
  code : Nat
  sat : Bool
  mode : Nat
  draw : Nat → Nat
  scaleDraw : Nat → Nat
  run : Nat
  rotate : Option (Word × Bool)
  check : Byte

/-- The runs of a line of numbers narrowed, each with its outcomes; element i of the line has index `first + i`, its first
run is run `run0`. -/
def Narrowing.runs (n : Narrowing) (first run0 : Nat) (xs : List Num) : List (QBlock × QFlags) :=
  let runs := (chunks n.run xs.length (xs.zipIdx first)).zipIdx run0
  runs.map (fun (g, k) =>
    let raw := g.map Prod.fst
    let finite := allFinite raw
    let vals := match n.rotate with
      | some (seed, flv) => if finite then ((chunks 32 raw.length raw).map (rotateBlock seed flv)).flatten else raw
      | none => raw
    narrowRun n.code n.sat n.check (rndOf n.mode n.scaleDraw k) finite
      (vals.zip (g.map (fun p => rndOf n.mode n.draw p.2))))

/-- A line of numbers narrowed, with the outcomes of all its runs. -/
def Narrowing.line (n : Narrowing) (first run0 : Nat) (xs : List Num) : List QBlock × QFlags :=
  let out := n.runs first run0 xs
  (out.map Prod.fst, out.foldl (fun f p => f.or p.2) QFlags.none)

/-! ### Dequantising (R34, R35, R51) -/

/-- A code as a signed integer. -/
def codeInt (b c : Nat) : Int := if c < 2 ^ (b - 1) then c else (c : Int) - 2 ^ b

/-- Scale and zero point of a group trailer. A zero point that a format of four bits would not write is taken as its byte
stands (log 120). -/
def trailerScale (t : List Byte) : Num := fp16.decode (leNat (t.take 2))
def trailerZero (t : List Byte) : Int := (t.getD 2 0).toInt
def trailerCheck (t : List Byte) : Byte := t.getD 3 0

/-- 2^(e - 127) of a scale byte, or NaN. -/
def scaleNum (e : Nat) : Num := if e = 255 then .nan else .fin false 1 ((e : Int) - 127)

/-- The exact values of a block, group or run. -/
def QBlock.values (code : Nat) (b : QBlock) : List Num :=
  if isBlockFmt code then
    let s := scaleNum (b.trailer.getD 0 0).toNat
    b.codes.map (fun c => ((fmtOf code).decode c).mul s)
  else if isGroupFmt code then
    let s := trailerScale b.trailer
    let z := trailerZero b.trailer
    b.codes.map (fun c => s.mul (Num.ofInt (codeInt (codeBits code) c - z)))
  else if code = 8 then b.codes.map (fun c => Num.ofInt (codeInt 8 c))
  else b.codes.map (fmtOf code).decode

/-! ### Bytes (Table 2.2, R36, R196) -/

/-- Codes packed little-endian, four-bit codes two per byte. -/
def packCodes (b : Nat) : List Nat → List Byte
  | x :: y :: r =>
    if b = 4 then BitVec.ofNat 8 (x + 16 * y) :: packCodes b r
    else leBytes (b / 8) x ++ (leBytes (b / 8) y ++ packCodes b r)
  | [x] => leBytes (max 1 (b / 8)) x
  | [] => []

/-- Code number n of packed bytes. -/
def unpackCode (b : Nat) (bytes : Array Byte) (n : Nat) : Nat :=
  if b = 4 then
    let v := (bytes.getD (n / 2) 0).toNat
    if n % 2 = 0 then v % 16 else v / 16
  else
    leNat ((List.range (b / 8)).map (fun i => bytes.getD (n * (b / 8) + i) 0))

/-- A line as stored bytes: each run's codes, then its trailer (Table 2.2). -/
def lineBytes (code : Nat) (l : List QBlock) : List Byte :=
  l.flatMap (fun b => packCodes (codeBits code) b.codes ++ b.trailer)

/-- Bytes of a trailer. -/
def trailerSize (code : Nat) : Nat := if isBlockFmt code then 1 else if isGroupFmt code then 4 else 0

/-- The runs of a stored line of `count` elements. -/
def parseLine (code run count : Nat) (bytes : List Byte) : List QBlock :=
  let b := codeBits code
  let size := run * b / 8 + trailerSize code
  (List.range (count / run)).map (fun h =>
    let part := (bytes.drop (h * size)).take size
    let a := part.toArray
    ⟨(List.range run).map (unpackCode b a), part.drop (run * b / 8)⟩)

/-- First byte after the elements of a tile (Table 11.4). -/
def tileE (code : Nat) : Nat := 512 * codeBits code

/-- Bytes of a tile (Table 11.4). -/
def tileSize (code grp : Nat) : Nat :=
  tileE code + (if isBlockFmt code then 128 else if isGroupFmt code then (if grp = 0 then 512 else 256) else 0)

/-- The smallest tile of a format (R178). -/
def smallestTile (code : Nat) : Nat := tileSize code 2

/-- Elements of a run within a tile: a block of 32, a group of at most 64, or any 32. -/
def tileRun (code grp : Nat) : Nat := if isGroupFmt code then min 64 (groupSize grp) else 32

/-- Line x of a tile: its runs along k (R196). -/
def tileLine (code grp : Nat) (bytes : Array Byte) (x : Nat) : List QBlock :=
  let b := codeBits code
  let run := tileRun code grp
  let e := tileE code
  (List.range (64 / run)).map (fun h =>
    ⟨(List.range run).map (fun k => unpackCode b bytes (64 * (run * h + k) + x)),
     if isBlockFmt code then [bytes.getD (e + 64 * h + x) 0]
     else if isGroupFmt code then (List.range 4).map (fun i => bytes.getD (e + 4 * (64 * h + x) + i) 0)
     else []⟩)

/-- The bytes of a tile from its 64 lines (R196). -/
def tileBytes (code grp : Nat) (lines : List (List QBlock)) : List Byte :=
  let run := tileRun code grp
  let a := lines.map (fun l => ((l.map QBlock.codes).flatten.toArray, (l.map QBlock.trailer).toArray))
  let codes := (List.range 64).flatMap (fun k => a.map (fun p => p.1.getD k 0))
  let trailers := (List.range (64 / run)).flatMap (fun h => a.flatMap (fun p => p.2.getD h []))
  packCodes (codeBits code) codes ++ trailers

/-- Even parity of a check byte and equality with a tag's (R37). -/
def checkOk (t : Tag) (b : Byte) : Bool := b = checkByte t

end Sys2Proof.Machine
end

