-- ==== Sys2Proof/Machine/Interlock.lean ====
section
/-! DEFINITION. What leased engines compute: the grammar automaton and masked sampling of the interlocking
engine, the orders of the sorter, the blocks of the inflater (18, R290 to R297). -/

namespace Sys2Proof.Machine

/-! ### Reading (R287, R277) -/

/-- Where a command has met poison first: storage class, whether the address is physical, address. -/
abbrev Met := Option (Nat × Bool × Nat)

/-- A run-time read: it fails where a reference leaves its span (INDEXRANGE), and notes poison. -/
abbrev Rd (α : Type) := OptionT (StateM Met) α

/-- Poison noted, the first one standing. -/
def Rd.note (m : Met) : Rd Unit := fun old => (some (), old <|> m)

/-- A reference out of range. -/
def Rd.fail {α : Type} : Rd α := fun m => (none, m)

/-- What a command reads from: memory as it stood at its start, and the scratchpad. -/
structure Source where
  mem : State
  pad : Memory
  padBad : Cells 1

/-- Storage class of a physical address (Table 17.4). -/
def subOf (pa : Nat) : Nat := if tierOf pa = some .depot then 1 else 2

/-- Bytes of a span. -/
def Source.span (x : Source) (sp : Span) (off n : Nat) : Rd (List Byte) :=
  if sp.extent < off + n then Rd.fail
  else
    let p := x.mem.spanPayload sp off n
    do
      Rd.note (match p.poison with
        | [] => none
        | w :: _ => some (subOf (sp.wordPa off w), true, sp.wordPa off w))
      pure p.bytes

/-- Bytes of the scratchpad. -/
def Source.local_ (x : Source) (a n : Nat) : Rd (List Byte) :=
  if padEnd < a + n then Rd.fail
  else do
    Rd.note (((poisonIn32 x.padBad a n).head?).map (fun w => (0, false, 4 * w)))
    pure (x.pad.getRange a n)
where
  /-- Poisoned words of a range of the scratchpad. -/
  poisonIn32 (bad : Cells 1) (a n : Nat) : List Nat :=
    if bad.isEmpty then [] else (wordsIn a n).filter (fun w => bad.get w ≠ 0)

/-- A little-endian word. -/
def leWord (b : List Byte) : Nat := leNat (b.take 4)

/-! ### The grammar image (R290, Table 18.3) -/

/-- A grammar: its span and offset, and the fields of its header. -/
structure Grammar where
  span : Span
  off : Nat
  nstate : Nat
  nsym : Nat
  stoff : Nat
  keyoff : Nat

/-- The fields of a key record that a command uses. -/
structure Key where
  default : List Byte
  mdir : Nat
  toff : Nat
  ntrans : Nat

/-- The header; a vocabulary other than V is out of range. -/
def Source.grammar (x : Source) (sp : Span) (off v : Nat) : Rd Grammar := do
  let h ← x.span sp off 64
  let w := fun i => leWord (h.drop (4 * i))
  if w 0 ≠ v then Rd.fail
  else pure ⟨sp, off, w 1, w 2, w 3, w 4⟩

/-- The key record for a state and the top of its stack. -/
def Source.key (x : Source) (g : Grammar) (q : Sequence) : Rd Key := do
  if g.nstate ≤ q.state.toNat then Rd.fail
  else
    let e ← x.span g.span (g.off + g.stoff + 8 * q.state.toNat) 8
    let kbase := leWord e
    let ntop := leWord (e.drop 4) % 8192
    let top := if q.sp = 0 then 4095 else (q.stack.get (q.sp - 1)).toNat
    let r ← x.span g.span (g.off + g.keyoff + 32 * (kbase + (if top < ntop then top else ntop))) 32
    pure ⟨r.take 16, leWord (r.drop 16), leWord (r.drop 20), leWord (r.drop 24)⟩

/-- Mask page `p` of a key: 64 bytes. -/
def Source.maskPage (x : Source) (g : Grammar) (k : Key) (p : Nat) : Rd (List Byte) := do
  let d ← x.span g.span (g.off + k.mdir + 4 * p) 4
  let e := leWord d
  match e / 2 ^ 30 with
  | 0 => pure (List.replicate 64 0)
  | 1 => pure (List.replicate 64 0xFF)
  | 2 => x.span g.span (g.off + e % 2 ^ 30 * 64) 64
  | _ => Rd.fail

/-- Pages of a vocabulary. -/
def pagesOf (v : Nat) : Nat := (v + 511) / 512

/-- A page with tokens from V on written as 0. -/
def clipPage (v p : Nat) (b : List Byte) : List Byte :=
  (b.zipIdx).map (fun x => (List.range 8).foldl (fun (m : Byte) i =>
    if x.1.getLsbD i && 512 * p + 8 * x.2 + i < v then m ||| (1#8 <<< i) else m) 0)

/-- The whole mask of a key. -/
def Source.mask (x : Source) (g : Grammar) (k : Key) (v : Nat) : Rd (List Byte) := do
  let ps ← (List.range (pagesOf v)).mapM (fun p => do
    let b ← x.maskPage g k p
    pure (clipPage v p b))
  pure ps.flatten

/-- Tokens of a mask, ascending. -/
def maskTokens (b : List Byte) : List Nat :=
  (b.zipIdx).flatMap (fun x => ((List.range 8).filter (fun i => x.1.getLsbD i)).map (8 * x.2 + ·))

/-! ### Sequences (R291, R293) -/

/-- A record read from memory; a stack deeper than 1,024 is out of range. -/
def sequenceOf (b : List Byte) : Option Sequence :=
  let w := fun i => leWord (b.drop (4 * i))
  let sp := w 1 % 2048
  if 1024 < sp then none
  else some {
    state := BitVec.ofNat 20 (w 0), stalled := w 0 / 2 ^ 31 % 2 = 1, sp := sp,
    step := BitVec.ofNat 64 (w 2 + 2 ^ 32 * w 3), dead := BitVec.ofNat 18 (w 4),
    stack := Cells.dense 0 ((List.range sp).map (fun n => BitVec.ofNat 12 (leNat ((b.drop (64 + 2 * n)).take 2)))),
    dirty := false }

/-- Bytes 0 to 19 of a record, and its stack halfwords. -/
def Sequence.head (q : Sequence) : List Byte :=
  leBytes 4 (q.state.toNat + (if q.stalled then 2 ^ 31 else 0)) ++ leBytes 4 q.sp ++ leBytes 8 q.step.toNat ++
    leBytes 4 q.dead.toNat
def Sequence.halves (q : Sequence) : List Byte :=
  (q.stack.getRange 0 q.sp).flatMap (fun n => leBytes 2 n.toNat)

/-- Status codes (Table 6.11). -/
def codeOk : Nat := 0
def codeDeadend : Nat := 1
def codeStalled : Nat := 2
def codeNan : Nat := 3
def codeInf : Nat := 4
def inflateBad : Nat := 5
def codeRange : Nat := 6

/-- Transition record of a token, or the default one; a list not strictly ascending is out of range. -/
def Source.transition (x : Source) (g : Grammar) (k : Key) (token : Nat) : Nat → Nat → Option Nat → Rd (List Byte)
  | 0, _, _ => pure k.default
  | n + 1, j, before => do
    let r ← x.span g.span (g.off + k.toff + 16 * j) 16
    let t := leWord r % 2 ^ 18
    if before.any (fun b => t ≤ b) then Rd.fail
    else if t = token then pure r
    else if token < t then pure k.default
    else Source.transition x g k token n (j + 1) (some t)

/-- IL.ADV (R293): code, VALUE and the sequence it leaves. -/
def Source.advance (x : Source) (sp : Span) (off v : Nat) (q : Sequence) (token : Nat) : Rd (Nat × Nat × Sequence) := do
  let st := q.state.toNat
  if q.stalled then pure (codeStalled, st, q)
  else
    let g ← x.grammar sp off v
    let k ← x.key g q
    let legal ← if token < v then do
        let b ← x.maskPage g k (token / 512)
        pure ((b.getD (token % 512 / 8) 0).getLsbD (token % 8))
      else pure false
    if !legal then pure (codeDeadend, st, { q with stalled := true, dirty := true })
    else
      let r ← x.transition g k token k.ntrans 0 none
      let w := fun i => leWord (r.drop (4 * i))
      let next := w 1 % 2 ^ 20
      let pop := w 1 / 2 ^ 20 % 4
      let npush := w 1 / 2 ^ 22 % 4
      let push := [w 2 % 4096, w 2 / 4096 % 4096, w 3 % 4096].take npush
      if q.sp < pop || 1024 < q.sp - pop + npush then pure (codeRange, st, q)
      else if g.nstate ≤ next || push.any (g.nsym ≤ ·) then Rd.fail
      else
        let base := q.sp - pop
        let stack := (q.stack.below base).setRange base (push.map (BitVec.ofNat 12))
        pure (codeOk, next, { q with
          state := BitVec.ofNat 20 next, sp := base + npush, stack := stack, dirty := true })

/-! ### Masked sampling (R294) -/

/-- The largest n below 2^(b+1) with a property that holds of 0 and of all smaller numbers. -/
def largestFrom (p : Nat → Bool) : Nat → Nat → Nat
  | 0, n => n
  | b + 1, n => largestFrom p b (if p (n + 2 ^ b) then n + 2 ^ b else n)

/-- Wt[k] = round (2^24 * 2^(-k/256)), ties away from zero: the largest n with n - 1/2 at most that. -/
def sampleWeight (k : Nat) : Nat :=
  if 4096 ≤ k then 0
  else largestFrom (fun n => (2 * n - 1) ^ 256 ≤ 2 ^ (256 + 24 * 256 - k)) 25 0

/-- min (trunc (d * 256), 4,096) of a distance d. -/
def weightIndex (d : Word) : Nat :=
  match f32 d with
  | .fin _ m e => min 4096 (if 0 ≤ e + 8 then m.natAbs * 2 ^ (e + 8).toNat else m.natAbs / 2 ^ (-(e + 8)).toNat)
  | _ => 4096

/-- The prefix, of one entry at least, whose weights reach a threshold. -/
def topPrefix (thr : Nat) : Nat → List (Nat × Nat) → List (Nat × Nat)
  | _, [] => []
  | sum, x :: r => if thr ≤ sum + x.2 then [x] else x :: topPrefix thr (sum + x.2) r

/-- Weight descending, then index ascending. -/
def heavier (a b : Nat × Nat) : Bool := b.2 < a.2 || (a.2 = b.2 && a.1 ≤ b.1)

/-- The first token whose running sum is greater than t. -/
def pick (t : Nat) : Nat → List (Nat × Nat) → Nat
  | _, [] => 0
  | sum, x :: r => if t < sum + x.2 then x.1 else pick t (sum + x.2) r

/-- The choice among legal tokens (token and scaled logit), none NaN or +infinity. -/
def sampleChoice (lp : List (Nat × Word)) (k p u : Nat) : Nat :=
  let m := (lp.map Prod.snd).foldl fmax (f32inf true)
  let table := (Array.range 4097).map sampleWeight
  let w := lp.map (fun x => (x.1, table.getD (weightIndex (if m = f32inf true then 0 else fsub m x.2)) 0))
  let sorted := w.mergeSort heavier
  let keep := if 0 < k then sorted.take k else sorted
  let total := fun (l : List (Nat × Nat)) => l.foldl (fun n x => n + x.2) 0
  let keep := if p < 65536 then topPrefix ((p * total keep + 65535) / 65536) 0 keep else keep
  let keep := keep.mergeSort (fun a b => a.1 ≤ b.1)
  pick (u * total keep / 2 ^ 32) 0 keep

/-- IL.SAMP: code, VALUE and the sequence it leaves. `logits` reads the V logit words. -/
def Source.sample (x : Source) (sp : Span) (off v : Nat) (tau : Word) (k p : Nat) (logits : Rd (List Byte))
    (u : Nat) (q : Sequence) : Rd (Nat × Nat × Sequence) := do
  let dead := q.dead.toNat
  if q.stalled then pure (codeStalled, dead, q)
  else
    let g ← x.grammar sp off v
    let key ← x.key g q
    let mask ← x.mask g key v
    let legal := maskTokens mask
    if legal.isEmpty then pure (codeDeadend, dead, { q with stalled := true, dirty := true })
    else
      let b ← logits
      let l := (wordsOf b).toArray
      let lp := legal.map (fun t => (t, fmul (l.getD t 0) tau))
      if lp.any (fun y => f32isNaN y.2) then pure (codeNan, dead, q)
      else match lp.find? (fun y => y.2 = f32inf false) with
        | some y => pure (codeInf, y.1, q)
        | none => pure (codeOk, sampleChoice lp k p u, { q with step := q.step + 1, dirty := true })

/-! ### Sorting (R295) -/

/-- Whether key `a` may stand before key `b`: NaNs last, -0 equal to +0. -/
def keyBefore (ascending : Bool) (a b : Word) : Bool :=
  if f32isNaN b then true
  else if f32isNaN a then false
  else if ascending then !(f32 b).lt (f32 a) else !(f32 a).lt (f32 b)

/-- Pairs of key and tag in order; equal keys keep theirs. -/
def sortPairs (ascending : Bool) (l : List (Word × Word)) : List (Word × Word) :=
  l.mergeSort (fun a b => keyBefore ascending a.1 b.1)

/-- Words as pairs. -/
def pairsOf : List Word → List (Word × Word)
  | a :: b :: r => (a, b) :: pairsOf r
  | _ => []

/-! ### Inflating (R296, R297) -/

/-- What a block gives: its output and the input it took, or the end of the stream, or a bad stream. -/
inductive Block where
  | out (bytes : List Byte) (used : Nat)
  | done
  | bad

/-- Input of an inflater: bytes at a position, none past ILEN. -/
abbrev Input8 := Nat → Nat → Rd (Option (List Byte))

/-- Mode 3 from input position `p` with `left` bytes of output to come; the fuel is the output. -/
def zeroRuns (inp : Input8) : Nat → Nat → Nat → List Byte → Rd (Option (List Byte × Nat))
  | 0, p, left, acc => pure (if left = 0 then some (acc, p) else none)
  | f + 1, p, left, acc => do
    if left = 0 then pure (some (acc, p))
    else
      let c ← inp p 1
      match c with
      | some [b] =>
        let n := b.toNat
        if n < 128 then
          if left < n + 1 then pure none
          else
            let l ← inp (p + 1) (n + 1)
            match l with
            | some l => zeroRuns inp f (p + n + 2) (left - (n + 1)) (acc ++ l)
            | none => pure none
        else if left < n - 127 then pure none
        else zeroRuns inp f (p + 1) (left - (n - 127)) (acc ++ List.replicate (n - 127) 0)
      | _ => pure none

/-- The payload of a block of `olen` bytes at position `p`: output and the position after it. -/
def payload (inp : Input8) (mode olen p : Nat) : Rd (Option (List Byte × Nat)) := do
  match mode with
  | 0 =>
    let b ← inp p olen
    pure (b.map (·, p + olen))
  | 1 =>
    let b ← inp p 1
    pure (b.map (fun b => (List.replicate olen (b.headD 0), p + 1)))
  | 2 =>
    let n := (olen + 1) / 2
    let d ← inp p 16
    let b ← inp (p + 16) n
    pure (match d, b with
      | some d, some b => some (((b.flatMap (fun x => [x.toNat % 16, x.toNat / 16])).take olen).map (d.getD · 0), p + 16 + n)
      | _, _ => none)
  | 3 => zeroRuns inp olen p olen []
  | _ => pure none

/-- The block at position `p`, a multiple of four. -/
def blockAt (inp : Input8) (p : Nat) : Rd Block := do
  let h ← inp p 4
  match h with
  | none => pure .bad
  | some h =>
    let w := leWord h
    let mode := w / 4096 % 16
    let chk := w / 65536
    if mode = 15 then pure (if w % 4096 = 0 && chk = 0 then .done else .bad)
    else
      let r ← payload inp mode (w % 4096 + 1) (p + 4)
      match r with
      | none => pure .bad
      | some (out, e) =>
        let pad ← inp e ((4 - e % 4) % 4)
        match pad with
        | none => pure .bad
        | some pad =>
          let sum := out.foldl (fun n (b : Byte) => n + b.toNat) 0
          if pad.any (· ≠ 0) || sum % 65536 ≠ chk then pure .bad
          else pure (.out out (e + pad.length - p))

/-- Blocks decoded one after another: code and output. `room` is what the destination holds. -/
def inflate (inp : Input8) (limit room : Nat) : Nat → Nat → List (List Byte) → Nat → StateM Met (Nat × List Byte)
  | 0, _, acc, _ => pure (inflateBad, acc.reverse.flatten)
  | f + 1, p, acc, n => do
    let b ← (blockAt inp p).run
    match b with
    | none => pure (codeRange, acc.reverse.flatten)
    | some .bad => pure (inflateBad, acc.reverse.flatten)
    | some .done => pure (codeOk, acc.reverse.flatten)
    | some (.out out used) =>
      if limit < n + out.length then pure (inflateBad, acc.reverse.flatten)
      else if room < n + out.length then pure (codeRange, acc.reverse.flatten)
      else inflate inp limit room f (p + used) (out :: acc) (n + out.length)

end Sys2Proof.Machine
end

