-- ==== Sys2Proof/Machine/Common.lean ====
section
/-! DEFINITION. The issue of a micro-order (03, R55, R56; 04, R65), the common micro-orders (09, R186, R187) and
the lanes (09, R177; 11, R193). -/

namespace Sys2Proof.Machine

/-! ### Issue of an order -/

/-- Token FIFOs that a K field pops (Table 4.5): 0 L to M, 1 M to V, 2 M to S, 3 V to S, 4 S to L, 5 X to L. -/
def kFifos (e : Eng) (k : Nat) : List Nat :=
  let pair := match e with
    | .load => (4, 5)
    | .matrix => (0, 0)
    | .vector => (1, 1)
    | .store => (2, 3)
  (if k % 2 = 1 then [pair.1] else []) ++ (if 2 ≤ k then [pair.2] else [])

/-- A token that can be popped now taken out, or none (R14, R56). -/
def popReady (tt : Nat) : List Nat → Option (List Nat)
  | [] => none
  | t :: r => if t ≤ tt then some r else (popReady tt r).map (t :: ·)

/-- One token popped, with the count of this cycle's pops. -/
def Queues.popToken (q : Queues) (tt f : Nat) : Option Queues :=
  (popReady tt (vecGet q.token [] f)).map (fun l =>
    let p := vecGet q.popped (0, 0) f
    { q with token := vecMod q.token f (fun _ => l),
             popped := vecMod q.popped f (fun _ => (tt, if p.1 = tt then p.2 + 1 else 1)) })

/-- Several tokens popped, or the FIFO that holds none. -/
def Queues.popTokens (q : Queues) (tt : Nat) : List Nat → Except Nat Queues
  | [] => .ok q
  | f :: r =>
    match q.popToken tt f with
    | none => .error f
    | some q => Queues.popTokens q tt r

/-- A token pushed, poppable from cycle `ready`. -/
def Queues.pushToken (q : Queues) (f ready : Nat) : Queues :=
  { q with token := vecMod q.token f (fun l => l ++ [ready]) }

/-- Step counter after the word at `i` has been the last one issued: the innermost open body that ends there
repeats while it has passes left, else it closes (R187). -/
def afterWord (i : Nat) : List Loop → List Loop × Nat
  | [] => ([], (i + 1) % 1024)
  | l :: r =>
    if l.last = i then
      if l.left = 0 then afterWord i r else ({ l with left := l.left - 1 } :: r, l.first)
    else (l :: r, (i + 1) % 1024)

/-- The engine goes on after the word at `i`; the next order issues `n` cycles on, plus its DLY (R55). -/
def Engine.goOn (g : Engine) (tt n i : Nat) : Engine :=
  let a := afterWord i g.loops
  { g with loops := a.1, step := BitVec.ofNat 10 a.2, base := tt + n, first := false }

/-- Cause and SUB of the fault that an order raises instead of its effect. -/
abbrev Refused := BitVec 8 × Nat

/-- A schedule fault of the order at table word `site` (bank and index) of an engine (Table 17.4). -/
def State.orderFault (s : State) (c : Nat) (e : Eng) (f : Refused) (site : Nat) : State :=
  let s := if f.1 = causeRotation then s.modCore c (·.setMstat mstatTag) else s
  s.fatal c true f.1 3 (faultInfo (engUnit e) f.2 false site) (engUnit e) (BitVec.ofNat 16 (site % 1024)) 0 0

/-- Bank and index of the word at an engine's step counter. -/
def Engine.site (g : Engine) : Nat := g.step.toNat + (if g.bank then 1024 else 0)

/-- A micro-order issues: occupancy of the unit if it uses it for `occ` cycles, its tokens, its own effects `f`,
and the step counter. A fault leaves no effect. -/
def State.issueOrder (s : State) (k : Nat) (occ : Option Nat) (f : State → Except Refused State) : State :=
  let e := s.curEng
  let g := s.me.engine e
  let tt := s.tt
  if occ.isSome && tt < g.busy then s.orderFault s.cur e (causeOccupancy, 0) g.site
  else match s.me.q.popTokens tt (kFifos e k) with
    | .error fifo => s.orderFault s.cur e (causeMiss, fifo) g.site
    | .ok q =>
      let s' := s.modMe (fun c => ({ c with q := q }).modEng e (fun g =>
        { (g.goOn tt 1 g.step.toNat) with busy := match occ with
            | some n => tt + n
            | none => g.busy }))
      match f s' with
      | .error r => s.orderFault s.cur e r g.site
      | .ok t => t

/-- The engine that issues, changed. -/
def State.modIssuer (s : State) (f : Engine → Engine) : State := s.modMe (·.modEng s.curEng f)

/-! ### Common micro-orders (R186, R187) -/

def execIdle (_y : BitVec 4) (n : BitVec 20) (s : State) : Host.Outcome State Fault Refusal :=
  let tt := s.tt
  .next (s.issueOrder 0 none (fun s => .ok (s.modIssuer (fun g => { g with base := tt + n.toNat + 1 }))))

/-- ELOOP: the body runs as often as the counter says at issue; zero skips it. A third level, which TLOAD refuses but a body
over words of two loads can make, nests like the second (DESIGN CHOICE, log 132). A body past word 1,023, in a table that
the image load wrote and no TLOAD checked, has no end either: the loop opens, the step counter wraps, and no step ends
the body (R66 gives no effect; DESIGN CHOICE, log 145). -/
def execEloop (_y : BitVec 4) (l : BitVec 2) (n : BitVec 10) (s : State) : Host.Outcome State Fault Refusal :=
  let tt := s.tt
  let g := s.me.engine s.curEng
  let i := g.step.toNat
  let count := (vecGet g.lc 0 l.toNat).toNat
  .next (s.issueOrder 0 none (fun s => .ok (s.modIssuer (fun h =>
    if count = 0 then ({ h with loops := g.loops }).goOn tt 1 (i + n.toNat)
    else { h with loops := ⟨i + 1, i + n.toNat, count - 1⟩ :: g.loops, step := g.step + 1 }))))

/-- TKPUSH: poppable two cycles on; eight tokens not popped before this cycle are a token overflow. -/
def execTkpush (_y : BitVec 4) (k : BitVec 2) (i : BitVec 3) (s : State) : Host.Outcome State Fault Refusal :=
  let tt := s.tt
  let f := i.toNat
  let q := s.me.q
  let p := vecGet q.popped (0, 0) f
  let held := (vecGet q.token [] f).length + (if p.1 = tt then p.2 else 0)
  .next (s.issueOrder k.toNat none (fun s =>
    if 8 ≤ held then .error (causeToken, f)
    else .ok (s.modMe (·.modQ (·.pushToken f (tt + 2))))))

/-- All four tables of a core have reached NOTIFY (R58, R109). -/
def Core.allDone (k : Core) : Bool := k.eng.toList.all (fun g => g.status = .done)

/-- The combiner fires in the next cycle once all four engines are done and the driver has exited (R58). -/
def State.checkCombiner (s : State) (c : Nat) : State :=
  let k := s.core c
  if k.allDone && k.drv.hold = some .exited && !k.place.fired then s.timedAt c 1 rankWalker .combinerFire else s

/-- NOTIFY ends the engine (R58). -/
def execNotify (_y : BitVec 4) (k : BitVec 2) (s : State) : Host.Outcome State Fault Refusal :=
  .next (s.issueOrder k.toNat none (fun s =>
    .ok ((s.modIssuer (fun g => { g with status := .done, loops := [] })).checkCombiner s.cur)))

/-! ### Lanes (R177, R193) -/

/-- Number of a lane: 0 to 3 clockwise, 4 to 7 anticlockwise. -/
def laneNo (l : BitVec 2) (ac : BitVec 1) : Nat := l.toNat + 4 * ac.toNat

/-- The store engine's arithmetic stage, held like a lane. -/
def stageNo : Nat := 8

/-- Whether an order of engine `e` that issues at `tt` meets a span held on its lane: one that its own span overlaps
(R193), or one of the same engine that still stands at its issue (R177). -/
def Core.laneTaken (k : Core) (e : Eng) (tt lane from_ until_ : Nat) : Bool :=
  k.pad.lanes.any (fun h => h.lane = lane &&
    ((from_ < h.until_ && h.from_ < until_) || (h.eng = e && h.from_ ≤ tt && tt < h.until_)))

/-- A lane held; spans that have ended are dropped. -/
def Core.holdLane (k : Core) (tt lane : Nat) (e : Eng) (from_ until_ : Nat) : Core :=
  k.modPad (fun p => { p with
    lanes := ⟨lane, e, from_, until_⟩ :: p.lanes.filter (fun h => tt < h.until_) })

/-! ### Poison read by an order (R277) -/

/-- Storage classes of a data fault (Table 17.4). -/
def subScratch : Nat := 0
def subTile : Nat := 3
def subQueue : Nat := 4

/-- The timetable becomes TAINTED: an order has read an uncorrectable value. -/
def State.readPoison (s : State) (c sub addr unit : Nat) : State := s.taint c 0x40 sub false addr unit 0

end Sys2Proof.Machine
end

