-- ==== Sys2Proof/Machine/CopyWalk.lean ====
section
/-! DEFINITION. The walk of a copy: the fields of its shape, its pieces and units, their offsets, dies and leads (06, R115,
R117; 11, R197, R199), and the accesses of a depot in one cycle (R198). -/

namespace Sys2Proof.Machine

/-! ### Fields of a shape (Table 6.5) -/

/-- Fields of a shape. -/
def dkind (ws : List Word) : Nat := bits (ws.getD 2 0) 15 14
def dspan (ws : List Word) : Nat := bits (ws.getD 2 0) 13 8
def skind (ws : List Word) : Nat := bits (ws.getD 2 0) 7 6
def sspan (ws : List Word) : Nat := bits (ws.getD 2 0) 5 0
def shapeSwz (ws : List Word) : BitVec 7 := (ws.getD 10 0).setWidth 7
def shapeXid (ws : List Word) : Nat := bits (ws.getD 11 0) 15 0

/-! ### The walk -/

/-- A signed descriptor word. -/
def shapeInt (ws : List Word) (i : Nat) : Int := sint (ws.getD i 0)

/-- 32-byte pieces of a row, and of the whole copy. -/
def Copy.rowPieces (k : Copy) : Nat := bits (k.desc.getD 4 0) 15 0 / 32
def Copy.pieces (k : Copy) : Nat :=
  k.rowPieces * (if k.form = 0 then bits (k.desc.getD 5 0) 31 16 * bits (k.desc.getD 5 0) 15 0 else k.xs.length)

/-- Source offset of a piece (Table 6.5, R117). -/
def Copy.srcOff (k : Copy) (q : Nat) : Int :=
  let row := q / k.rowPieces
  let c : Int := (32 * (q % k.rowPieces) : Nat)
  let base : Int := ((k.desc.getD 0 0).toNat : Nat)
  let cnt2 := bits (k.desc.getD 5 0) 31 16
  if k.form = 0 then base + (row / cnt2 : Nat) * shapeInt k.desc 8 + (row % cnt2 : Nat) * shapeInt k.desc 6 + c
  else if k.form = 1 then base + ((k.xs.getD row 0).toNat : Nat) * shapeInt k.desc 6 + c
  else base + (row : Nat) * shapeInt k.desc 6 + c

/-- Destination offset of a piece: its offset from DOFF, taken as 32 bits, is swizzled (R197). -/
def Copy.dstOff (k : Copy) (q : Nat) : Int :=
  let row := q / k.rowPieces
  let c : Int := (32 * (q % k.rowPieces) : Nat)
  let base : Int := ((k.desc.getD 1 0).toNat : Nat)
  let cnt2 := bits (k.desc.getD 5 0) 31 16
  let d := if k.form = 0 then (row / cnt2 : Nat) * shapeInt k.desc 9 + (row % cnt2 : Nat) * shapeInt k.desc 7 + c
    else if k.form = 1 then (row : Nat) * shapeInt k.desc 7 + c
    else ((k.xs.getD row 0).toNat : Nat) * shapeInt k.desc 7 + c
  base + (BitVec.ofNat 32 (swizzle (shapeSwz k.desc) (BitVec.ofInt 32 d).toNat)).toInt

/-- HBM sides (R199). -/
def Copy.srcHbm (k : Copy) : Bool := match k.src with
  | some x => x.meets .hbm
  | none => false
def Copy.dstHbm (k : Copy) : Bool := match k.dst with
  | some x => x.meets .hbm
  | none => false

/-- Pieces of a unit: 384 bytes, or 64 with an HBM side. -/
def Copy.unitPieces (k : Copy) : Nat := if k.srcHbm || k.dstHbm then 2 else 12

/-- The pieces of unit `u`. -/
def Copy.unit (k : Copy) (u : Nat) : List Nat :=
  (List.range' (k.unitPieces * u) k.unitPieces).filter (fun q => q < k.pieces)

/-- Physical address of a span offset, as an integer offset within its extent. -/
def spanAt (sp : Span) (off : Int) : Nat := sp.pa off.toNat

/-- Die of the source and of the destination of a unit; die boundaries between them on the 4 x 2 grid. -/
def Copy.srcDie (k : Copy) (u : Nat) : Nat := match k.src with
  | none => coreDie k.core
  | some x => memDie (spanAt x (k.srcOff (k.unitPieces * u)))
def Copy.dstDie (k : Copy) (u : Nat) : Nat := match k.dst with
  | none => coreDie k.dstCore
  | some x => memDie (spanAt x (k.dstOff (k.unitPieces * u)))

/-- Difference of two numbers. -/
def gap (a b : Nat) : Nat := max a b - min a b

def boundaries (a b : Nat) : Nat := gap (a % 4) (b % 4) + gap (a / 4) (b / 4)

/-- Cycles from the read of unit `u` to its write (Table 11.5). -/
def Copy.lead (k : Copy) (u : Nat) : Nat :=
  let c := 24 * boundaries (k.srcDie u) (k.dstDie u)
  if k.srcHbm && k.dstHbm then 40 + c
  else if k.dstHbm then 48 + c
  else if k.srcHbm then (if k.dst.isNone then 72 else 56) + c
  else (if k.dst.isNone then 48 else 32) + c

/-! ### A depot in one cycle (R198) -/

/-- Timed accesses of a die's depot that are still to come in this cycle: units whose read or write is due. -/
def State.depotComing (s : State) (die : Nat) : Nat :=
  (s.agenda.filter (fun d => decide (d.cycle ≤ s.clock) && (match d.instr with
    | .copyUnitRead u => (s.copies.find d.who).any (fun k =>
        k.src.isSome && !k.srcHbm && k.reading.contains u && k.srcDie u = die)
    | .copyUnitWrite u => (s.copies.find d.who).any (fun k =>
        k.dst.isSome && !k.dstHbm && k.writing.contains u && k.dstDie u = die)
    | _ => false))).length

/-- Timed accesses that a depot serves in one cycle. -/
def depotLimit : Nat := 8

/-- Whether a die's depot has room for an untimed access in this cycle: it serves fewer timed accesses than it can. -/
def State.depotFree (s : State) (die : Nat) : Bool :=
  decide ((s.carried.find (64 + die)).getD 0 + s.depotComing die < depotLimit)

/-! ### Who asks for a free cycle of a depot, or for an open window (R198, R207) -/

/-- Numbers beside those of cores: a copy with a host-tier side, the walk of an instruction on which a core's driver is held,
and from here on the host's pieces. -/
def copyAgent : Nat := 8190
def walkAgent : Nat := 8191
def hostAgent : Nat := 8192

/-- Whether one that waits is still there. -/
def State.stillAsks (s : State) (w : Nat × Nat) : Bool :=
  if w.1 = copyAgent then (s.copies.find w.2).isSome
  else if w.1 = walkAgent then (s.core w.2).drv.hold = some .pin && !(s.core w.2).walk.isEmpty
  else if hostAgent ≤ w.1 then (s.hostOps.find (w.1 - hostAgent)).isSome
  else (s.core w.1).acc.any (fun b => b.id = w.2 && !b.performed)

/-- Those that still wait for a free cycle of a depot (R198). -/
def State.depotQueue (s : State) (die : Nat) : List (Nat × Nat) :=
  (vecGet s.dies Die.reset die).waiting.filter s.stillAsks

/-- One that asks for a cycle of a depot has this one, if the depot has it free and none that came before it still waits;
else it waits (R198). -/
def State.depotTurn (s : State) (die : Nat) (me : Nat × Nat) : Bool × State :=
  let q := s.depotQueue die
  let first := q.head? = none || q.head? = some me
  if first && s.depotFree die then
    (true, { s with dies := vecMod s.dies die (fun d => { d with waiting := q.filter (· ≠ me) }) })
  else
    (false, { s with dies := vecMod s.dies die (fun d => { d with waiting := if q.contains me then q else q ++ [me] }) })

/-- A request joins the queue of its pseudo-channel. -/
def State.askWindow (s : State) (r : Request) : State :=
  let pc := pcOf r.pa
  let q := (s.pcs.find pc).getD PseudoChannel.reset
  ({ s with pcs := s.pcs.put pc { q with queue := q.queue ++ [r] } }).laterAt 0 rankWalker pc .openWindowRequest

/-- One that is no driver's access asks for its turn at an address: an open window of a pseudo-channel, which serves it later,
or a free cycle of a depot; the host tier serves it at once. The answer tells whether it has its turn now (R198, R207). -/
def State.untimedTurn (s : State) (me : Nat × Nat) (pa : Nat) : Bool × State :=
  match tierOf pa with
  | some .hbm => (false, s.askWindow ⟨me.1, me.2, pa⟩)
  | some .depot => s.depotTurn (memDie pa) me
  | _ => (true, s)

end Sys2Proof.Machine
end

