-- ==== Sys2Proof/Machine/Issue.lean ====
section
/-! DEFINITION. Which stream issues next, and the fetch of its word (R55, R80, R81, R97, R280). -/

namespace Sys2Proof.Machine

/-- The g registers that a driver instruction reads or writes (R81). -/
def gRegs : Instr → List (BitVec 5)
  | .add d a b | .sub d a b | .and d a b | .or d a b | .xor d a b | .andn d a b | .shl d a b | .shr d a b
  | .sra d a b | .mul d a b | .mulh d a b | .mulhu d a b | .min d a b | .max d a b | .minu d a b
  | .maxu d a b | .sel d a b _ => [d, a, b]
  | .clz d a | .popc d a | .sext d a _ | .zext d a _ => [d, a]
  | .addi d a _ | .andi d a _ | .ori d a _ | .xori d a _ | .shli d a _ | .shri d a _ | .srai d a _ => [d, a]
  | .lih d _ | .movk d _ _ | .dbnz d _ => [d]
  | .cmp _ _ a b => [a, b]
  | .cmpi _ _ a _ => [a]
  | .call _ | .ret => [31]
  | .jr a => [a]
  | .jalr a => [a, 31]
  | .lds d a _ _ | .sts d a _ _ | .ldg d a _ _ | .stg d a _ _ => [d, a]
  | .amo d a b _ _ _ => [d, a, b]
  | .ximov a _ => [a]
  | .xild a _ _ => [a]
  | .xird b _ => [b]
  | .stcr e => [e]
  | .waits a => [a]
  | .depr a e => [a, e]
  | .tstart a _ | .tbase a _ | .lpset a _ _ | .agset a _ _ | .wbpush a | .pqpush a | .rcfg a _
  | .ssset a _ | .lease a | .release a => [a]
  | .tload a b _ => [a, b]
  | .xshape a e | .lquery a e => [a, e]
  | .xcopy a b _ | .xgather a b _ _ | .xscatter a b _ _ | .coll a b | .rwmax a b | .rwexs a b
  | .rwscl a b | .rwnorm a b | .tlbinv a b => [a, b]
  | .xpin a b _ _ _ => [a, b]
  | .ilmask a b e | .ilsamp a b e | .iladv a b e | .ilload a b e | .ilsave a b e | .srtopk a b e
  | .srsort a b e | .infblk a b e | .shgath a b e | .shscat a b e | .shpack a b e => [a, b, e]
  | .csrrd g _ | .csrwr g _ | .csrset g _ | .csrclr g _ => [g]
  | _ => []

/-- The x registers that a driver instruction reads or writes. -/
def xRegs : Instr → List Nat
  | .ximov _ e | .xird _ e => [e.toNat]
  | .xild _ c e => List.range' e.toNat (c.toNat + 1)
  | .xgather _ _ c _ | .xscatter _ _ c _ => List.range (c.toNat + 1)
  | _ => []

/-- Entries of the load and of the store queue (R97); a MARK takes none (DEDUCED, log 118). -/
def Core.loads (k : Core) : Nat := (k.acc.filter (fun a => a.kind = .load || a.kind = .amo)).length
def Core.stores (k : Core) : Nat :=
  (k.acc.filter (fun a => (a.kind = .store && !a.performed) || a.kind = .amo)).length

/-- Whether an instruction may issue now in free mode: no register of it owed by an outstanding load (R81),
its queue not full (R97). -/
def Core.freeIssue (k : Core) (i : Instr) : Bool :=
  (gRegs i).all (fun r => r = 0 || !k.drv.owedG.contains r.toNat) &&
    (xRegs i).all (fun r => !k.drv.owedX.contains r) &&
    match i with
    | .ldg .. => k.loads < 16
    | .stg .. => k.stores < 16
    | .amo .. => k.loads < 16 && k.stores < 16
    | _ => true

/-- Whether a core runs at all: it holds a timetable or is a signal box, it is not in a hold of its
timetable (R280) and no stop has reached it (R273). -/
def Core.running (k : Core) (c clock : Nat) : Bool :=
  (k.place.node.isSome || isBox c) && k.place.frozenUntil ≤ clock &&
    (match k.place.stopAt with
     | none => true
     | some t => clock < t)

/-- The driver word at an address of the code store; beyond the image it reads zero (R83). -/
def Core.driverWord (k : Core) : Word := BitVec.ofNat 32 (k.drv.code.readLE k.drv.pc.toNat 4)

/-- The table word at an engine's step counter. -/
def Engine.word (g : Engine) : Word := g.table.get (g.step.toNat + (if g.bank then 1024 else 0))

/-- Whether that word is poisoned (R276). -/
def Engine.wordBad (g : Engine) : Bool := g.bad.get (g.step.toNat + (if g.bank then 1024 else 0)) ≠ 0

/-- The issue cycle of the order at the step counter (R55): the TSTART cycle for the first one. -/
def Engine.nextIssue (g : Engine) : Nat := if g.first then g.base else g.base + (fld g.word 28 4).toNat

/-- Whether the driver of a core issues in this cycle. -/
def Core.driverReady (k : Core) (c clock : Nat) : Bool :=
  k.running c clock && k.drv.hold.isNone && k.drv.ready ≤ clock - k.place.hshift &&
    (k.timed ||
      match decode .driver k.driverWord with
      | .ok i => k.freeIssue i
      | .error _ => true)

/-- Whether an engine of a core issues in this cycle. A word that a bank flip brings in front of the step counter after its
issue cycle has passed issues in the cycle of the flip (DEDUCED, log 130). -/
def Core.engineReady (k : Core) (c clock : Nat) (e : Eng) : Bool :=
  k.running c clock && (k.engine e).status = .running && (k.engine e).nextIssue ≤ clock - k.place.hshift

/-- Order of the streams of a core within a cycle (log 8). -/
def streams : List Stream :=
  [.driver, .engine .load, .engine .matrix, .engine .vector, .engine .store]

def Core.streamReady (k : Core) (c clock : Nat) : Stream → Bool
  | .driver => k.driverReady c clock
  | .engine e => k.engineReady c clock e

/-- The first stream that issues in this cycle: cores by number, streams in order. -/
def State.nextStream (s : State) : Option (Nat × Stream) :=
  s.cores.findSome? (fun p => (streams.find? (p.2.streamReady p.1 s.clock)).map (fun st => (p.1, st)))

/-- The word that stream `st` of core `c` fetches. -/
def State.fetch (s : State) (c : Nat) : Stream → Word
  | .driver => (s.core c).driverWord
  | .engine e => ((s.core c).engine e).word

/-- The state in which a meaning runs for a stream of a core. -/
def State.select (s : State) (c : Nat) : Stream → State
  | .driver => { s with cur := c }
  | .engine e => { s with cur := c, curEng := e }

/-- The interrupt that a signal box takes before its next instruction: enabled, and the lowest code pending
(R9, R269, R271). -/
def State.interrupt (s : State) (c : Nat) : Option (BitVec 8) :=
  if isBox c then
    let d := vecGet s.dies Die.reset (coreDie c)
    if d.pair.toList.any (·.wake) then some 1
    else if d.alarm then some 2
    else if d.selfTest then some 3
    else none
  else none

/-- The instruction that a stream issues: what its word decodes to, or the event of an illegal word (R64,
R71); a poisoned table word is an illegal micro-order (R276). -/
def State.fetched (s : State) (c : Nat) (st : Stream) : Instr :=
  let w := s.fetch c st
  let bad := match st with
    | .driver => false
    | .engine e => ((s.core c).engine e).wordBad
  let irq := match st with
    | .driver => if (s.core c).ie then s.interrupt c else none
    | .engine _ => none
  match irq with
  | some code => .interruptTaken code
  | none =>
  match bad, decode st w, st with
  | false, .ok i, _ => i
  | _, _, .driver => .illegalInstruction w
  | _, _, .engine _ => .illegalMicroOrder w

/-- The input that has come is taken off. -/
def State.dropInput (s : State) : State := { s with inputs := s.inputs.drop 1 }

/-- A node that only runs, for a core on which a program is put by hand (log 9). -/
def Node.bare : Node :=
  { state := .running, words := List.replicate 16 0, seq := 0, readyAt := 0, verdict := 0, data := none,
    report := none, more := 0, firstDreg := 0, holds := 0, preempts := 0, hn := 256, space := 1048576, tvec := 0xFFFFFFFF,
    saveUnits := 0, segments := [], points := [], settings := [], pcs := [], slots := [], entry := 0,
    root := 0, ox := 0, oy := 0, segment := 0, dreg := none, level := 0, variant := 0, slew := 0, reserved := Vector.replicate 4 0, proposals := [],
    arrived := 0, departed := 0, firstPoint := none, latched := false, victimFor := none,
    leaseWait := false, cut := 0, handed := 0, stopping := none, holdAt := none, holdEnd := none,
    replay := [], saved := [], withdrawn := [],
    kept := [], keptPcs := [], relet := [], savedOn := [] }

end Sys2Proof.Machine
end

