-- ==== Sys2Proof/Machine/Scalar.lean ====
section
/-! DEFINITION. Scalar driver instructions: integer, predicates, branches, index registers, clock (05, R80 to
R90, R102 to R105). -/

namespace Sys2Proof.Machine

/-! ### ALU (R84, Table 5.2) -/

/-- A two-operand ALU instruction. -/
def aluOp (cost : Nat) (f : DWord → DWord → DWord) (d a b : BitVec 5) (s : State) : State :=
  s.retireG cost d (f (s.readG a) (s.readG b))

/-- Shift amount: the low six bits (R84). -/
def amount (b : DWord) : Nat := b.toNat % 64

/-- High half of a 128-bit product. -/
def mulHigh (a b : Int) : DWord := BitVec.ofInt 64 (a * b / 2 ^ 64)

/-- Leading zeros, 64 for zero. -/
def clz64 (a : DWord) : DWord := if a = 0 then 64 else BitVec.ofNat 64 (63 - a.toNat.log2)

/-- Ones. -/
def popc64 (a : DWord) : DWord :=
  BitVec.ofNat 64 ((List.range 64).foldl (fun n i => n + (a.getLsbD i).toNat) 0)

/-- The width that a w field names: 8, 16 or 32 (Table 4.3). -/
def extWidth (w : BitVec 5) : Nat := 8 * 2 ^ w.toNat

def signExt (w : Nat) (a : DWord) : DWord := (a.setWidth w).signExtend 64
def zeroExt (w : Nat) (a : DWord) : DWord := (a.setWidth w).setWidth 64

def execAdd (d a b : BitVec 5) (s : State) : Host.Outcome State Fault Refusal := .next (aluOp 1 (· + ·) d a b s)
def execSub (d a b : BitVec 5) (s : State) : Host.Outcome State Fault Refusal := .next (aluOp 1 (· - ·) d a b s)
def execAnd (d a b : BitVec 5) (s : State) : Host.Outcome State Fault Refusal := .next (aluOp 1 (· &&& ·) d a b s)
def execOr (d a b : BitVec 5) (s : State) : Host.Outcome State Fault Refusal := .next (aluOp 1 (· ||| ·) d a b s)
def execXor (d a b : BitVec 5) (s : State) : Host.Outcome State Fault Refusal := .next (aluOp 1 (· ^^^ ·) d a b s)
def execAndn (d a b : BitVec 5) (s : State) : Host.Outcome State Fault Refusal :=
  .next (aluOp 1 (fun x y => x &&& ~~~y) d a b s)
def execShl (d a b : BitVec 5) (s : State) : Host.Outcome State Fault Refusal :=
  .next (aluOp 1 (fun x y => x <<< amount y) d a b s)
def execShr (d a b : BitVec 5) (s : State) : Host.Outcome State Fault Refusal :=
  .next (aluOp 1 (fun x y => x >>> amount y) d a b s)
def execSra (d a b : BitVec 5) (s : State) : Host.Outcome State Fault Refusal :=
  .next (aluOp 1 (fun x y => x.sshiftRight (amount y)) d a b s)
def execMul (d a b : BitVec 5) (s : State) : Host.Outcome State Fault Refusal := .next (aluOp 3 (· * ·) d a b s)
def execMulh (d a b : BitVec 5) (s : State) : Host.Outcome State Fault Refusal :=
  .next (aluOp 3 (fun x y => mulHigh x.toInt y.toInt) d a b s)
def execMulhu (d a b : BitVec 5) (s : State) : Host.Outcome State Fault Refusal :=
  .next (aluOp 3 (fun x y => mulHigh x.toNat y.toNat) d a b s)
def execMin (d a b : BitVec 5) (s : State) : Host.Outcome State Fault Refusal :=
  .next (aluOp 1 (fun x y => if x.slt y then x else y) d a b s)
def execMax (d a b : BitVec 5) (s : State) : Host.Outcome State Fault Refusal :=
  .next (aluOp 1 (fun x y => if x.slt y then y else x) d a b s)
def execMinu (d a b : BitVec 5) (s : State) : Host.Outcome State Fault Refusal :=
  .next (aluOp 1 (fun x y => if x.ult y then x else y) d a b s)
def execMaxu (d a b : BitVec 5) (s : State) : Host.Outcome State Fault Refusal :=
  .next (aluOp 1 (fun x y => if x.ult y then y else x) d a b s)
def execClz (d a : BitVec 5) (s : State) : Host.Outcome State Fault Refusal :=
  .next (s.retireG 1 d (clz64 (s.readG a)))
def execPopc (d a : BitVec 5) (s : State) : Host.Outcome State Fault Refusal :=
  .next (s.retireG 1 d (popc64 (s.readG a)))
def execSext (d a w : BitVec 5) (s : State) : Host.Outcome State Fault Refusal :=
  .next (s.retireG 1 d (signExt (extWidth w) (s.readG a)))
def execZext (d a w : BitVec 5) (s : State) : Host.Outcome State Fault Refusal :=
  .next (s.retireG 1 d (zeroExt (extWidth w) (s.readG a)))

/-! ### Immediates and constants (R85, R86) -/

def execAddi (d a : BitVec 5) (i : BitVec 16) (s : State) : Host.Outcome State Fault Refusal :=
  .next (s.retireG 1 d (s.readG a + i.signExtend 64))
def execAndi (d a : BitVec 5) (i : BitVec 16) (s : State) : Host.Outcome State Fault Refusal :=
  .next (s.retireG 1 d (s.readG a &&& i.setWidth 64))
def execOri (d a : BitVec 5) (i : BitVec 16) (s : State) : Host.Outcome State Fault Refusal :=
  .next (s.retireG 1 d (s.readG a ||| i.setWidth 64))
def execXori (d a : BitVec 5) (i : BitVec 16) (s : State) : Host.Outcome State Fault Refusal :=
  .next (s.retireG 1 d (s.readG a ^^^ i.setWidth 64))
def execShli (d a : BitVec 5) (n : BitVec 6) (s : State) : Host.Outcome State Fault Refusal :=
  .next (s.retireG 1 d (s.readG a <<< n.toNat))
def execShri (d a : BitVec 5) (n : BitVec 6) (s : State) : Host.Outcome State Fault Refusal :=
  .next (s.retireG 1 d (s.readG a >>> n.toNat))
def execSrai (d a : BitVec 5) (n : BitVec 6) (s : State) : Host.Outcome State Fault Refusal :=
  .next (s.retireG 1 d ((s.readG a).sshiftRight n.toNat))
def execLih (d : BitVec 5) (i : BitVec 16) (s : State) : Host.Outcome State Fault Refusal :=
  .next (s.retireG 1 d (i.signExtend 64 <<< 16))

/-- Halfword h of a double replaced (R86). -/
def replaceHalf (v : DWord) (h : BitVec 2) (i : BitVec 16) : DWord :=
  (v &&& ~~~(0xFFFF#64 <<< (16 * h.toNat))) ||| (i.setWidth 64 <<< (16 * h.toNat))

def execMovk (d : BitVec 5) (h : BitVec 2) (i : BitVec 16) (s : State) : Host.Outcome State Fault Refusal :=
  .next (s.retireG 1 d (replaceHalf (s.readG d) h i))

/-! ### Predicates and select (R87 to R89) -/

/-- An instruction whose only effect is a predicate. -/
def State.retireP (s : State) (p : BitVec 3) (v : Bool) : State :=
  s.retire 1 (·.modDrv (·.writeP p v))

def execCmp (p c : BitVec 3) (a b : BitVec 5) (s : State) : Host.Outcome State Fault Refusal :=
  .next (s.retireP p (condHolds c (s.readG a) (s.readG b)))
def execCmpi (p c : BitVec 3) (a : BitVec 5) (i : BitVec 15) (s : State) : Host.Outcome State Fault Refusal :=
  .next (s.retireP p (condHolds c (s.readG a) (i.signExtend 64)))
def execPlog (d a b : BitVec 3) (l : BitVec 2) (n : BitVec 1) (s : State) : Host.Outcome State Fault Refusal :=
  .next (s.retireP d (plogOp l (s.me.drv.readP a != (n = 1)) (s.me.drv.readP b)))
def execSel (d a b : BitVec 5) (p : BitVec 3) (s : State) : Host.Outcome State Fault Refusal :=
  .next (s.retireG 1 d (if s.me.drv.readP p then s.readG a else s.readG b))

/-! ### Branches and calls (R90) -/

/-- An instruction that goes to `pc` after `cost` cycles. -/
def State.jump (s : State) (cost : Nat) (pc : Half) (f : Core → Core) : State :=
  s.modMe (fun k => f (k.issued s.tt cost pc))

/-- CheckTarget (R90): bits [1:0] and [63:16] of a target must be zero. -/
def targetOk (v : DWord) : Bool := v.extractLsb' 0 2 = 0#2 && v.extractLsb' 16 48 = 0#48

/-- A jump to a register's value, or the misalignment fault with nothing changed. -/
def State.jumpTo (s : State) (v : DWord) (f : Core → Core) : State :=
  if targetOk v then s.jump 2 (v.setWidth 16) f else s.faultHere causeMisaligned

/-- Return address of a call: PC + 4 in 64 bits. -/
def State.linkValue (s : State) : DWord := BitVec.ofNat 64 (s.me.drv.pc.toNat + 4)

def execBr (p : BitVec 3) (n : BitVec 1) (o : BitVec 22) (s : State) : Host.Outcome State Fault Refusal :=
  .next (if s.me.drv.readP p != (n = 1) then s.jump 2 (pcAt s.me.drv.pc o.toInt) id else s.retire 1 id)
def execCall (o : BitVec 22) (s : State) : Host.Outcome State Fault Refusal :=
  .next (s.jump 2 (pcAt s.me.drv.pc o.toInt) (fun k => k.result (s.tt + 2) 31 s.linkValue))
def execJr (a : BitVec 5) (s : State) : Host.Outcome State Fault Refusal := .next (s.jumpTo (s.readG a) id)
def execRet (s : State) : Host.Outcome State Fault Refusal := .next (s.jumpTo (s.readG 31) id)
def execJalr (a : BitVec 5) (s : State) : Host.Outcome State Fault Refusal :=
  .next (s.jumpTo (s.readG a) (fun k => k.result (s.tt + 2) 31 s.linkValue))
def execDbnz (d : BitVec 5) (i : BitVec 16) (s : State) : Host.Outcome State Fault Refusal :=
  let v := s.readG d - 1
  .next (if v ≠ 0 then s.jump 2 (pcAt s.me.drv.pc i.toInt) (fun k => k.result (s.tt + 2) d v)
         else s.retireG 1 d v)

/-! ### Index registers and clock (R102 to R105) -/

def execXimov (a e : BitVec 5) (s : State) : Host.Outcome State Fault Refusal :=
  .next (s.retire 1 (fun k => k.resultX (s.tt + 1) e ((s.readG a).setWidth 32)))
def execXird (b e : BitVec 5) (s : State) : Host.Outcome State Fault Refusal :=
  .next (s.retireG 1 b ((s.me.drv.readX e).setWidth 64))
def execStcr (e : BitVec 5) (s : State) : Host.Outcome State Fault Refusal :=
  .next (s.retireG 1 e (BitVec.ofNat 64 s.clock))
def execDepr (a e : BitVec 5) (s : State) : Host.Outcome State Fault Refusal :=
  .next (s.retireG 1 e (s.me.csr.depart + s.readG a))

/-- An untimed instruction in timed mode raises its fault (R106). -/
def State.freeOnly (s : State) (t : State) : State := if s.me.timed then s.faultHere causeUntimed else t

/-- An instruction that holds the issue of the next one (R80, R106). -/
def State.retireHold (s : State) (h : Hold) (f : Core → Core) : State :=
  s.retire 1 (fun k => f (k.modDrv (fun d => { d with hold := some h })))

def execWaits (a : BitVec 5) (s : State) : Host.Outcome State Fault Refusal :=
  let v := s.readG a
  .next (s.freeOnly
    (if v.toNat ≤ s.clock + 1 then s.retire 1 id
     else (s.retireHold (.waits v) id).laterAt (v.toNat - s.clock) rankVisible s.cur .waitsExpiry))

/-- WAITS_EXPIRY: the wait of the core ends (R105). -/
def execWaitsExpiry (s : State) : Host.Outcome State Fault Refusal :=
  .next (match s.me.drv.hold with
    | some (.waits v) =>
      if v.toNat ≤ s.clock then s.unhold s.cur s.tt else s
    | _ => s)

/-- NOP (R131). -/
def execNop (s : State) : Host.Outcome State Fault Refusal := .next (s.retire 1 id)

/-- MARK enters both driver queues, takes none of their entries (log 118) and holds nothing (R97, R99). With nothing in
the queues it has nothing to hold back. -/
def execMark (s : State) : Host.Outcome State Fault Refusal :=
  .next (State.retire { s with fresh := s.fresh + 1 } 1 (fun k =>
    if k.acc.isEmpty then k
    else { k with acc := k.acc ++ [{
      id := s.fresh, kind := .mark, pc := k.drv.pc, va := 0, pa := 0, size := 0, reg := 0, value := 0, cmp := 0,
      op := 0, obs := 0, performed := false, queued := false, replay := false, fixed := false, free := 0, behind := none,
      walk := [] }] }))

end Sys2Proof.Machine
end

