-- ==== Sys2Proof/Machine/DriverMem.lean ====
section
/-! DEFINITION. The driver's memory accesses and fences (05, R91 to R102; 11, R194, R195; 12, R215 to R222;
13, R227), the guard compare (R275), and the illegal words (R64, R71). -/

namespace Sys2Proof.Machine

/-! ### Scratchpad accesses -/

/-- Address of a CM-format operand: g[a] + off14 * 2^size (R91, R96). -/
def State.address (s : State) (a : BitVec 5) (z : BitVec 2) (o : BitVec 14) : DWord :=
  s.readG a + (o.signExtend 64 <<< z.toNat)

def sizeOf2 (z : BitVec 2) : Nat := 2 ^ z.toNat

/-- The checks of LDS and STS, in the order of R91. -/
def padFault (a : DWord) (n : Nat) : Option (BitVec 8) :=
  if a.toNat % n ≠ 0 then some causeMisaligned
  else if padEnd ≤ a.toNat then some causeScratchRange
  else none

/-- A load that read poison: fatal on a timetable core, precise on a signal box (R95). -/
def State.loadPoison (s : State) (c : Nat) (pc : Half) (addr : Nat) : State :=
  let info := faultInfo unitDriver 0 false addr
  if isBox c then s.deliver c 0x40 pc pc info 0
  else s.fatal c true 0x40 2 info 0 pc 0 0

/-- Whether a store of the driver has still to perform. -/
def State.storesPending (s : State) (c : Nat) : Bool :=
  (s.core c).pad.claims.any (fun q => match q.act with
    | .store .. => true
    | _ => false) ||
  s.agenda.any (fun d => d.who = c && match d.instr with
    | .stsPerform .. => true
    | _ => false)

/-- A load of a signal box from a poisoned word: a precise fault at issue (R95, R270), once the driver's own stores,
which may replace the word, have performed. None where the load issues. -/
def State.boxPoison (s : State) (addr n : Nat) : Option State :=
  match isBox s.cur, s.me.pad.poison addr n with
  | true, w :: _ =>
    let tt := s.tt
    some (if s.storesPending s.cur then s.modMe (·.modDrv (fun d => { d with ready := tt + 1 }))
      else s.loadPoison s.cur s.me.drv.pc (addr / 4 * 4 + 4 * w))
  | _, _ => none

def execLds (d a : BitVec 5) (z : BitVec 2) (o : BitVec 14) (s : State) : Host.Outcome State Fault Refusal :=
  let ad := s.address a z o
  .next (match padFault ad (sizeOf2 z) with
    | some f => s.faultHere f
    | none =>
      let pc := s.me.drv.pc
      (s.boxPoison ad.toNat (sizeOf2 z)).getD
        ((s.retire 1 (·.modDrv (fun q => { q with owedG := d.toNat :: q.owedG }))).claimWords s.cur 1 ad.toNat
          (sizeOf2 z) (.load false d.toNat ad.toNat (sizeOf2 z) 1 pc)))

def execSts (d a : BitVec 5) (z : BitVec 2) (o : BitVec 14) (s : State) : Host.Outcome State Fault Refusal :=
  let ad := s.address a z o
  .next (match padFault ad (sizeOf2 z) with
    | some f => s.faultHere f
    | none => (s.retire 1 id).claimWords s.cur 1 ad.toNat (sizeOf2 z) (.store ad.toNat (sizeOf2 z) (s.readG d)))

/-- Claims of a read in groups of eight words: group n asks for issue + 1 + n (R102, R107). -/
def State.claimGroups (s : State) (words : Nat) (addr : Nat) (act : Nat → Nat → Nat → Act) : State :=
  (List.range ((words + 7) / 8)).foldl (fun s n =>
    let len := min 8 (words - 8 * n)
    s.claimWords s.cur (1 + n) (addr + 32 * n) (4 * len) (act n (addr + 32 * n) len)) s

/-- XILD (R102); x[e] to x[e + c] within the file is a decode check. -/
def execXild (a c e : BitVec 5) (s : State) : Host.Outcome State Fault Refusal :=
  let ad := (s.readG a).toNat
  let n := c.toNat + 1
  .next (
    if ad % 4 ≠ 0 then s.faultHere causeMisaligned
    else if padEnd < ad + 4 * n then s.faultHere causeScratchRange
    else
      let pc := s.me.drv.pc
      (s.boxPoison ad (4 * n)).getD
        ((s.retire ((n + 7) / 8) (·.modDrv (fun q => { q with
            owedX := List.range' e.toNat n ++ q.owedX }))).claimGroups n ad
          (fun g addr len => .load true (e.toNat + 8 * g) addr 4 len pc)))

/-! ### The arbiter (R194, R195) -/

/-- A claim placed by the cycle it asks for and its rank, after its equals. -/
def insertClaim (c : Claim) : List Claim → List Claim
  | [] => [c]
  | d :: r => if c.asked < d.asked ∨ (c.asked = d.asked ∧ c.rank < d.rank) then c :: d :: r
              else d :: insertClaim c r

def sortClaims (l : List Claim) : List Claim := l.foldl (fun acc c => insertClaim c acc) []

/-- Whether banks of a block are unassigned in a cycle. -/
def Scratch.bankFree (p : Scratch) (now block : Nat) (banks : Byte) : Bool :=
  banks = 0 || p.assigned.all (fun a => a.until_ ≤ now || a.block ≠ block || a.banks &&& banks = 0)

/-- Registers no longer owed by a load (R81). -/
def Driver.unowe (d : Driver) (toX : Bool) (regs : List Nat) : Driver :=
  if toX then { d with owedX := regs.foldl List.erase d.owedX } else { d with owedG := regs.foldl List.erase d.owedG }

/-- One line of a unit or a row that has been granted, of those still to come. -/
def takeLine (t : Table Nat) (u : Nat) : Table Nat × Bool :=
  let n := (t.find u).getD 0
  if n ≤ 1 then (t.drop u, true) else (t.put u (n - 1), false)

/-- What a granted claim does, in its cycle: reads see the writes of earlier cycles only. -/
def State.doAct (s : State) (c : Nat) (act : Act) : State :=
  match act with
  | .load toX reg addr size n pc =>
    let p := (s.core c).pad
    let bytes := size * n
    let regs := if toX then List.range' reg n else [reg]
    match p.poison addr bytes with
    | w :: _ => (s.modCore c (·.modDrv (·.unowe toX regs))).loadPoison c pc (addr / 4 * 4 + 4 * w)
    | [] =>
      let vals := if toX then (wordsOf (p.bytes addr bytes)).map (·.setWidth 64)
                  else [BitVec.ofNat 64 (leNat (p.bytes addr bytes))]
      s.timedAt c 3 rankVisible (.ldsResultWrite toX reg vals)
  | .descriptor op group addr n =>
    let p := (s.core c).pad
    s.timedAt c 0 rankRead (.descriptorGroupRead op group (wordsOf (p.bytes addr (4 * n))) (p.poison addr (4 * n)))
  | .store addr size v => s.timedAt c (if size < 4 then 2 else 0) rankWrite (.stsPerform addr size v)
  | .read addr n dest => s.timedAt c 0 rankRead (.beatRead addr n dest)
  | .write addr data done => s.timedAt c 0 rankWrite (.beatWrite addr data done)
  | .copyRead copy u =>
    match s.copies.find copy with
    | none => s
    | some k =>
      let t := takeLine k.readLines u
      let s := { s with copies := s.copies.put copy { k with readLines := t.1 } }
      if t.2 then s.due s.clock rankRead none copy (.copyUnitRead u) else s
  | .copyWrite copy u =>
    match s.copies.find copy with
    | none => s
    | some k =>
      let t := takeLine k.writeLines u
      let s := { s with copies := s.copies.put copy { k with writeLines := t.1 } }
      if t.2 then s.due s.clock rankWrite none copy (.copyUnitWrite u) else s
  | .rowRead cmd word addr n =>
    let p := (s.core c).pad
    s.modCore c (fun k => match k.rows.find cmd with
      | none => k
      | some r => { k with rows := k.rows.put cmd { r with
            words := r.words.setRange word (wordsOf (p.bytes addr n)),
            bad := (p.poison addr n).foldl (fun (m : Cells 1) w => m.set (word + w) 1) r.bad } })
  | .rowWrite addr data => s.timedAt c 0 rankWrite (.beatWrite addr data .nothing)
  | .leaseRead cmd addr n =>
    let p := (s.core c).pad
    s.modCore c (fun k => match k.leased.find cmd with
      | none => k
      | some r => { k with leased := k.leased.put cmd { r with
          local_ := r.local_.setRange addr (p.bytes addr n),
          localBad := (p.poison addr n).foldl (fun (m : Cells 1) w => m.set (addr / 4 + w) 1) r.localBad } })
  | .leaseWrite _ addr data => s.timedAt c 0 rankWrite (.beatWrite addr data .nothing)

/-- Cycles a granted claim keeps its banks (R93). -/
def Act.bankCycles : Act → Nat
  | .store _ size _ => if size < 4 then 3 else 1
  | _ => 1

/-- One claim served if all its banks are free in this cycle. -/
def State.serve (s : State) (c : Nat) (q : Claim) : State :=
  let now := s.ttOf c
  let p := (s.core c).pad
  if p.bankFree now q.block q.banks && p.bankFree now (q.block + 1) q.banks2 then
    let t := now + q.act.bankCycles
    (s.modCore c (·.modPad (fun p => { p with
        claims := p.claims.erase q,
        assigned := ⟨q.block, q.banks, t⟩ :: ⟨q.block + 1, q.banks2, t⟩ :: p.assigned }))).doAct c q.act
  else s

/-- BANK_CLAIM_GRANT: the waiting claims of a core's scratchpad are served in rank order (R195). -/
def execBankClaimGrant (s : State) : Host.Outcome State Fault Refusal :=
  let c := s.cur
  let now := s.tt
  let s := s.modMe (·.modPad (fun p => { p with
    assigned := p.assigned.filter (fun a => now < a.until_ && a.banks ≠ 0) }))
  let waiting := sortClaims (s.me.pad.claims.filter (fun q => q.asked ≤ now))
  let s := waiting.foldl (fun s q => s.serve c q) s
  .next (if s.me.pad.claims.any (fun q => q.asked ≤ now) then s.grantAt c 1 else s)

/-- LDS_RESULT_WRITE: each register takes its value unless a later instruction's result reaches it in the same
cycle (R80 to R82). -/
def execLdsResultWrite (toX : Bool) (reg : Nat) (values : List DWord) (s : State) :
    Host.Outcome State Fault Refusal :=
  let tt := s.tt
  .next (s.modMe (·.modDrv (fun d =>
    let d := (values.zipIdx reg).foldl (fun (d : Driver) (p : DWord × Nat) =>
      let r := BitVec.ofNat 5 p.2
      if toX then (if tt ≤ d.wroteX[r.toNat] then d else d.writeX r (p.1.setWidth 32))
      else (if tt ≤ d.wroteG[r.toNat] then d else d.writeG r p.1)) d
    d.unowe toX (List.range' reg values.length))))

/-- STS_PERFORM (R93, R95): a byte or half keeps the poison of its word. -/
def execStsPerform (addr size : Nat) (v : DWord) (s : State) : Host.Outcome State Fault Refusal :=
  .next (s.modMe (·.modPad (·.write addr ⟨leBytes size v.toNat, []⟩)))

/-! ### The guard core (R275) -/

/-- The guard compares what the instruction sends out, 4 cycles on. The copy of the next such instruction of a core in
`guardBad` differs: the compare will find it. -/
def State.guard (s : State) (pc : Half) (major : BitVec 6) : State :=
  let c := s.cur
  let t := s.tt + 4
  let s := if s.guardBad.contains c then
      ({ s with guardBad := s.guardBad.erase c }).modMe (·.modDrv (fun d => { d with mismatch := (pc, t) :: d.mismatch }))
    else s
  s.soon 4 rankVisible (.guardCompare pc major)

/-- Whether the guard's copy of what the meaning's core sends out next differs: none of its writes takes effect. -/
def State.guardDiffers (s : State) : Bool := s.guardBad.contains s.cur

/-- Major opcode of the instruction that issues. -/
def State.major (s : State) : BitVec 6 := fld s.me.driverWord 26 6

/-- GUARD_COMPARE: copies that differ are a machine check; no write of the instruction has taken effect. The lockstep test
follows (R284). -/
def execGuardCompare (pc : BitVec 16) (major : BitVec 6) (s : State) : Host.Outcome State Fault Refusal :=
  let c := s.cur
  let hit := (pc, s.tt)
  .next (if s.me.drv.mismatch.contains hit then
      ((s.modMe (·.modDrv (fun d => { d with mismatch := d.mismatch.erase hit }))).fatal c true 0x50 3
        (faultInfo unitGuard major.toNat false pc.toNat) 5 pc 0 0).testCore c testDriver
    else s)

/-! ### Untimed accesses (R96 to R101) -/

/-- Physical ranges meet. -/
def meets (a n b m : Nat) : Bool := a < b + m && b < a + n

/-- Whether access `a` may perform now, given the entries before it (R97 to R99, R217, R219, R227): its queue and, past a
MARK, everything before the MARK comes first, each in an earlier cycle. -/
def mayPerform (before : List Access) (a : Access) (d : Driver) (clock : Nat) : Bool :=
  let open_ := before.filter (fun b => !b.performed && b.kind ≠ .mark)
  let marked := (before.foldl (fun (p : Bool × Bool) b =>
    if b.kind = .mark then (p.1, p.2 || p.1 || clock < b.free) else (p.1 || !b.performed, p.2)) (false, false)).2
  !marked && !a.replay && d.markFree ≤ clock && a.free ≤ clock &&
    match a.kind with
    | .load => d.loadFree ≤ clock && open_.all (fun b => b.kind = .store &&
        (!meets a.pa a.size b.pa b.size || (b.pa ≤ a.pa && a.pa + a.size ≤ b.pa + b.size)))
    | .store => d.storeFree ≤ clock && open_.all (fun b => b.kind = .load && !meets a.pa a.size b.pa b.size)
    | .amo => d.loadFree ≤ clock && d.storeFree ≤ clock && open_.isEmpty
    | .mark => true

/-- AMO's new value (R98); none where a failing cas writes nothing. -/
def amoNew (op : BitVec 3) (n : Nat) (old b cmp : DWord) : Option DWord :=
  let x := old.setWidth (8 * n)
  let y := b.setWidth (8 * n)
  match op.toNat with
  | 0 => some (old + b)
  | 1 => some (old &&& b)
  | 2 => some (old ||| b)
  | 3 => some (old ^^^ b)
  | 4 => some (if x.slt y then old else b)
  | 5 => some (if x.slt y then b else old)
  | 6 => some b
  | _ => if x = cmp.setWidth (8 * n) then some b else none

/-- Marks with nothing before them leave the queues. -/
def dropMarks : List Access → List Access
  | a :: r => if a.kind = .mark then dropMarks r else a :: r
  | [] => []

/-- Cycle before which nothing behind the leading marks may perform. -/
def marksFree : List Access → Nat
  | a :: r => if a.kind = .mark then max a.free (marksFree r) else 0
  | [] => 0

/-- The queues of a core after accesses have left; leading marks leave too, and what they hold back stays held back. -/
def Core.queue (k : Core) (l : List Access) : Core :=
  { k.modDrv (fun d => { d with markFree := max d.markFree (marksFree l) }) with acc := dropMarks l }

/-- Marks behind an access that performs in this cycle let nothing perform before the next one (R219). -/
def holdMarks (id clock : Nat) (l : List Access) : List Access :=
  let n := (l.takeWhile (fun b => b.id ≠ id)).length
  (l.zipIdx).map (fun p => if n < p.2 && p.1.kind = .mark then { p.1 with free := clock + 1 } else p.1)

/-- An access has performed: the one released behind it from the replay queue performs in a later cycle (R214). -/
def State.releaseBehind (s : State) (c id : Nat) : State :=
  if s.cores.any (fun p => p.2.acc.any (fun b => b.behind = some (c, id))) then
    { s with cores := s.cores.map (fun p => (p.1, { p.2 with
        acc := p.2.acc.map (fun b => if b.behind = some (c, id) then { b with behind := none, free := s.clock + 1 } else b) })) }
  else s

/-- Whether the access released just before one from the replay queue has still to perform (R214). -/
def State.heldBehind (s : State) (a : Access) : Bool :=
  match a.behind with
  | none => false
  | some (c, id) => (s.core c).acc.any (fun b => b.id = id && !b.performed)

/-- Entries of a driver that have not performed, or stores not yet at their array. -/
def State.fenceDone (s : State) (c : Nat) : Bool :=
  (s.core c).acc.all (fun a => a.performed || a.kind = .mark)

/-- Everything an XFENCE with mask `m` waits for: the arrivals, and with x the copies with a host-tier side (R101, R202). -/
def State.xfenceDone (s : State) (c : Nat) (m : BitVec 5) : Bool :=
  s.fenceDone c && s.front.all (fun f => f.core ≠ c) &&
    (!m.getLsbD 1 || s.copies.all (fun p => p.2.core ≠ c || !p.2.onHost))

/-- A fence whose conditions now hold lets the next instruction issue in the next cycle (R227). -/
def State.checkFence (s : State) (c : Nat) : State :=
  match (s.core c).drv.hold with
  | some (.fence _) => if s.fenceDone c then s.laterAt 1 rankVisible c .fenceComplete else s
  | some (.xfence m) => if s.xfenceDone c m then s.laterAt 1 rankVisible c .xfenceComplete else s
  | _ => s

/-- Access marked as performed. -/
def setPerformed (id : Nat) (l : List Access) : List Access :=
  l.map (fun a => if a.id = id then { a with performed := true } else a)

/-- The trap of an uncorrectable word read by LDG or AMO (R97): EPC the next instruction, FAULTINFO the access. A driver
that waits for a fence, a walk, a lease, a departure, a clock cycle or an interrupt takes it once that hold ends, since the
next instruction issues only then (DEDUCED, log 117); one that issues nothing more takes none. At system level on a timetable
core it stops the timetable (R269). -/
def State.accessPoison (s : State) (c : Nat) (a : Access) : State :=
  let s := s.taint c causeData 0 false a.pc.toNat unitDriver a.va
  let s := s.modCore c (fun k => (k.modDrv (·.unowe false [a.reg])).queue (k.acc.filter (fun b => b.id ≠ a.id)))
  let k := s.core c
  let l : LateTrap := ⟨a.pc, a.va, s.clock, false⟩
  let done_ := match k.drv.hold with
    | some .exited | some .halted | some .stopped => true
    | _ => false
  if done_ then s
  else if k.drv.hold.isNone || (!isBox c && k.priv) then s.deliverData c l
  else s.modCore c (·.modDrv (fun d => { d with late := d.late ++ [l] }))

/-- A figure of Table 13.1 where it applies, else a latency that the spec leaves open, one cycle at least (R227, log 3). -/
def State.figure (s : State) (fixed : Bool) (n : Nat) : Nat × State :=
  if fixed then (n, s)
  else
    let f := s.freeCycles
    (1 + f.1, f.2)

/-- An access performs at its front buffer. A load takes the bytes of the youngest store of its own core that holds them
and has not performed, else what the front buffers and the array hold (R97, R219). -/
def State.performAccess (s : State) (c : Nat) (a : Access) : State :=
  let before := (s.core c).acc.takeWhile (fun b => b.id ≠ a.id)
  let s := s.modCore c (fun k => { k with acc := holdMarks a.id s.clock k.acc })
  match a.kind with
  | .store =>
    let s := s.frontWrite c a.pa (leBytes a.size a.value.toNat) a.fixed
    ((s.modCore c (fun k => (k.modDrv (fun d => { d with storeFree := s.clock + 1 })).queue
      (k.acc.filter (fun b => b.id ≠ a.id)))).releaseBehind c a.id).checkFence c
  | .load =>
    let fwd := (before.filter (fun b => b.kind = .store && !b.performed && meets a.pa a.size b.pa b.size)).getLast?
    if fwd.isNone && s.frontBad a.pa a.size then ((s.accessPoison c a).releaseBehind c a.id).checkFence c
    else
      let v : Nat := match fwd with
        | some b => b.value.toNat / 256 ^ (a.pa - b.pa) % 256 ^ a.size
        | none => leNat (s.loadBytes a.pa a.size)
      let s := s.modCore c (fun k => { k.modDrv (fun d => { d with loadFree := s.clock + 1 }) with
        acc := setPerformed a.id k.acc })
      let n := s.figure a.fixed Config.loadResultCycles
      ((n.2.laterAt n.1 rankVisible c (.loadResultWrite a.id (BitVec.ofNat 64 v))).releaseBehind c a.id).checkFence c
  | .amo =>
    if s.frontBad a.pa a.size then ((s.accessPoison c a).releaseBehind c a.id).checkFence c
    else
      let old := BitVec.ofNat 64 (leNat (s.loadBytes a.pa a.size))
      let s := match amoNew a.op a.size old a.value a.cmp with
        | some v => s.frontWrite c a.pa (leBytes a.size v.toNat) a.fixed
        | none => s
      let s := s.modCore c (fun k => { k.modDrv (fun d => { d with
          loadFree := s.clock + 1, storeFree := s.clock + 1 }) with acc := setPerformed a.id k.acc })
      let n := s.figure a.fixed Config.amoResultCycles
      ((n.2.laterAt n.1 rankVisible c (.loadResultWrite a.id old)).releaseBehind c a.id).checkFence c
  | .mark => s

/-- Whether an AMO would share its cycle with a write of its bytes: its read would not see that write, which its own write
follows in coherence order (R216, R217, R222). An AMO performs behind every other write of its cycle but those of stores. -/
def State.amoClash (s : State) (a : Access) : Bool :=
  a.kind = .amo && (s.wroteNow.any (fun w => meets a.pa a.size w.1 w.2) ||
    s.front.any (fun e => e.prf = s.clock && meets a.pa a.size e.pa e.size))

/-- An access of a depot performs in a cycle that the depot has free, after those that came before it; else it waits
(R198). -/
def State.performDepot (s : State) (c rank : Nat) (a : Access) (again : Instr) : State :=
  let t := s.depotTurn (memDie a.pa) (c, a.id)
  if t.1 then t.2.performAccess c a else t.2.laterAt 1 rank c again

/-- An access of a core changed. -/
def State.modAccess (s : State) (c id : Nat) (f : Access → Access) : State :=
  s.modCore c (fun k => { k with acc := k.acc.map (fun b => if b.id = id then f b else b) })

/-- The walk of an access reads its next entry, and the one behind it comes in the next cycle. -/
def State.walkAccess (s : State) (c rank : Nat) (a : Access) (pa : Nat) (again : Instr) : State :=
  let t := s.untimedTurn (c, a.id) pa
  if t.1 then (t.2.modAccess c a.id (fun b => { b with walk := b.walk.drop 1 })).laterAt 1 rank c again
  else if tierOf pa = some .hbm then t.2.modAccess c a.id (fun b => { b with queued := true })
  else t.2.laterAt 1 rank c again

/-- An access tries to perform, once its walk has read its entries: HBM accesses go through an open window of their
pseudo-channel (R207), depot accesses take free cycles (R198); one that may not perform yet tries again in the next cycle. -/
def State.tryAccess (s : State) (id rank : Nat) (again : Instr) : State :=
  let c := s.cur
  let k := s.me
  match k.acc.find? (fun a => a.id = id) with
  | none => s
  | some a =>
    if a.replay || a.queued || a.performed then s
    else match a.walk with
    | pa :: _ => s.walkAccess c rank a pa again
    | [] =>
    if mayPerform (k.acc.takeWhile (fun b => b.id ≠ id)) a k.drv s.clock && !s.heldBehind a && !s.amoClash a then
      if tierOf a.pa = some .hbm then
        (s.modAccess c id (fun b => { b with queued := true })).askWindow ⟨c, id, a.pa⟩
      else s.performDepot c rank a again
    else s.laterAt 1 rank c again

/-- Place of an access within its cycle: a load reads with the reads, a store or an AMO follows the cycle's writes. -/
def AccessKind.rank : AccessKind → Nat
  | .load => rankRead
  | _ => rankStore

/-- The event in which an access performs. -/
def AccessKind.event (k : AccessKind) (id : Nat) : Instr := if k = .amo then .amoPerform id else .ldgPerform id

/-- LDG_PERFORM: an untimed load or store of the core performs (R97, R215, R219). -/
def execLdgPerform (id : Nat) (s : State) : Host.Outcome State Fault Refusal :=
  let rank := match s.me.acc.find? (fun a => a.id = id) with
    | some a => a.kind.rank
    | none => rankRead
  .next (s.tryAccess id rank (.ldgPerform id))

/-- AMO_PERFORM: read and write in one cycle (R98, R222). -/
def execAmoPerform (id : Nat) (s : State) : Host.Outcome State Fault Refusal :=
  .next (s.tryAccess id rankStore (.amoPerform id))

/-- LOAD_RESULT_WRITE: g[d] takes the value and the access leaves its queues (R81, R82, R97). The cycle is the first in
which an instruction that reads g[d] may issue (DEDUCED, log 133). -/
def execLoadResultWrite (id : Nat) (v : DWord) (s : State) : Host.Outcome State Fault Refusal :=
  .next (s.modMe (fun k =>
    match k.acc.find? (fun a => a.id = id) with
    | none => k
    | some a =>
      let r := BitVec.ofNat 5 a.reg
      (k.modDrv (fun d => (d.writeG r v).unowe false [a.reg])).queue (k.acc.filter (fun b => b.id ≠ id))))

/-- Stores that a store overtakes at the array give up its bytes: they are co-earlier, and are discarded there (R217). -/
def overtake (id : Nat) (pa n : Nat) (l : List Front) : List Front :=
  let before := l.takeWhile (fun e => e.id ≠ id)
  before.map (·.take (before.foldl (fun m e => max m (e.prf + 1)) 0) pa n) ++ l.drop before.length

/-- STORE_ARRIVAL: the store reaches its array, but for bytes a co-later write has taken (R217, R220). -/
def execStoreArrival (s : State) : Host.Outcome State Fault Refusal :=
  .next (match s.front.find? (fun f => f.id = s.cur) with
    | none => s
    | some f =>
      let live := ((List.range f.size).map (fun i => (f.pa + i, f.bytes.get i))).filter (fun p => !f.dead.contains p.1)
      let mem := live.foldl (fun (m : Memory) p => m.set p.1 p.2) s.mem
      let bad := if live.length = f.size then poisonAfter s.bad f.pa f.size [] else s.bad
      let records := live.foldl (fun l p => cutRecords l p.1 1) s.records
      (({ s with mem := mem, bad := bad, records := records, front := (overtake f.id f.pa f.size s.front).filter (fun g => g.id ≠ f.id) } : State)).checkFence f.core)

/-- Whether a page of a core's address space is being taken out of the TLBs (R133). -/
def State.invalidating (s : State) (c : Nat) (va : DWord) (p : Page) : Bool :=
  s.invs.any (fun q => q.2.1 = (s.core c).csr.ctxid.setWidth 13 && q.2.2.toNat / p.size = va.toNat / p.size)

/-- The faults of an untimed access, in the order of R96. -/
def accessFault (p : Option Page) (va : DWord) (n : Nat) (write : Bool) : Option (BitVec 8) :=
  if va.extractLsb' 55 9 ≠ 0#9 then some causeTranslation
  else match p with
  | none => some causeTranslation
  | some q =>
    if (write && !q.write) || q.host then some causeTranslation
    else if va.toNat % n ≠ 0 then some causeMisaligned
    else none

/-- Whether the figures of Table 13.1 hold for an access: the own die's depot with the translation at hand (R227). -/
def atHand (c pa : Nat) (hit : Bool) : Bool := hit && tierOf pa = some .depot && memDie pa = coreDie c

/-- LDG, STG and AMO at issue: checks, replay of a migrating page, queue entry (R96 to R98, R214). What the guard's copy
does not agree with is not sent (R275). -/
def State.access (s : State) (kind : AccessKind) (va : DWord) (n : Nat) (reg : BitVec 5) (value cmp : DWord)
    (op : BitVec 3) (obs : BitVec 5) : State :=
  let c := s.cur
  let hit := s.tlbHit c va
  let walk := s.walkReads c va
  let tr := s.translate c va
  let s := tr.2
  match accessFault tr.1 va n (kind ≠ .load), tr.1 with
  | some f, _ => s.faultAtVa f va
  | none, none => s.faultAtVa causeTranslation va
  | none, some p =>
    let wait := p.mig || s.invalidating c va p
    let die := coreDie c
    if wait && 64 ≤ (vecGet s.dies Die.reset die).replay.length then
      s.modMe (·.modDrv (fun d => { d with ready := s.tt + 1 }))
    else
      let id := s.fresh
      let fixed := atHand c (p.pa va) hit
      let a : Access := ⟨id, kind, s.me.drv.pc, va, p.pa va, n, reg.toNat, value, cmp, op, obs, false, false, wait, fixed, 0, none, walk⟩
      let pc := s.me.drv.pc
      let major := s.major
      if s.guardDiffers then (s.retire 1 (fun k => k)).guard pc major
      else
      let s := ({ s with fresh := id + 1 }).retire 1 (fun k =>
        { k.modDrv (fun d => { d with
            owedG := if kind = AccessKind.store then d.owedG else reg.toNat :: d.owedG,
            hold := if obs ≠ 0 then some (.fence obs) else d.hold }) with acc := k.acc ++ [a] })
      let s := s.guard pc major
      if wait then { s with dies := vecMod s.dies die (fun d => { d with replay := d.replay ++ [(c, id)] }) }
      else
        let l := s.figure fixed Config.performCycles
        l.2.laterAt l.1 kind.rank c (kind.event id)

def execLdg (d a : BitVec 5) (z : BitVec 2) (o : BitVec 14) (s : State) : Host.Outcome State Fault Refusal :=
  .next (s.freeOnly (s.access .load (s.address a z o) (sizeOf2 z) d 0 0 0 0))

def execStg (d a : BitVec 5) (z : BitVec 2) (o : BitVec 14) (s : State) : Host.Outcome State Fault Refusal :=
  .next (s.freeOnly (s.access .store (s.address a z o) (sizeOf2 z) d (s.readG d) 0 0 0))

/-- AMO (R98). With a mask it is a FENCE on its near side too: it issues, and is translated, only once every earlier
access has performed. -/
def execAmo (d a b : BitVec 5) (o : BitVec 3) (z : BitVec 1) (m : BitVec 5) (s : State) :
    Host.Outcome State Fault Refusal :=
  let tt := s.tt
  .next (s.freeOnly (
    if m ≠ 0 && !s.fenceDone s.cur then s.modMe (·.modDrv (fun d => { d with ready := tt + 1 }))
    else s.access .amo (s.readG a) (if z = 1 then 8 else 4) d (s.readG b) (s.readG d) o m))

/-- FENCE (R100, R221): the next instruction waits for every earlier access to perform. -/
def execFence (m : BitVec 5) (s : State) : Host.Outcome State Fault Refusal :=
  .next (s.freeOnly (if s.fenceDone s.cur then s.retire 1 id else s.retireHold (.fence m) id))

/-- XFENCE (R101, R220): it waits for the arrivals too. -/
def execXfence (m : BitVec 5) (s : State) : Host.Outcome State Fault Refusal :=
  .next (s.freeOnly (if s.xfenceDone s.cur m then s.retire 1 id else s.retireHold (.xfence m) id))

/-- FENCE_COMPLETE. -/
def execFenceComplete (s : State) : Host.Outcome State Fault Refusal :=
  .next (match s.me.drv.hold with
    | some (.fence _) =>
      if s.fenceDone s.cur then s.unhold s.cur (max s.me.drv.ready s.tt) else s
    | _ => s)

/-- XFENCE_COMPLETE. -/
def execXfenceComplete (s : State) : Host.Outcome State Fault Refusal :=
  .next (match s.me.drv.hold with
    | some (.xfence m) =>
      if s.xfenceDone s.cur m then s.unhold s.cur (max s.me.drv.ready s.tt) else s
    | _ => s)

/-! ### Illegal words (R64, R71, R83, R276) -/

/-- ILLEGAL_INSTRUCTION: a driver word that is no instruction. -/
def execIllegalInstruction (_w : Word) (s : State) : Host.Outcome State Fault Refusal :=
  .next (s.faultHere causeIllegal)

/-- ILLEGAL_MICRO_ORDER: a table word that is no order of its engine, or a poisoned one, at its issue. -/
def execIllegalMicroOrder (_w : Word) (s : State) : Host.Outcome State Fault Refusal :=
  let g := s.me.engine s.curEng
  .next (s.fatal s.cur true causeMicroOrder 3
    (faultInfo (engUnit s.curEng) (engIx s.curEng).val false g.step.toNat) (engUnit s.curEng)
    (g.step.setWidth 16) 0 0)

end Sys2Proof.Machine
end

