-- ==== Sys2Proof/Machine/EngineCtl.lean ====
section
/-! DEFINITION. Driver control of engines, queues, rings and seeds, and the descriptor reads that many
instructions share (06, R106 to R114). -/

namespace Sys2Proof.Machine

/-! ### What every instruction of these majors shares -/

/-- Majors 0x19 to 0x21 are illegal on a signal box (R106). -/
def State.notOnBox (s : State) (t : State) : State := if isBox s.cur then s.faultHere causeIllegal else t

/-- A driver write that engines see: sent now, compared by the guard at 4, effective at 8 for whatever else happens in that
cycle (R15, R108); a write that the guard's copy does not agree with never takes effect (R275). -/
def State.send (s : State) (pc : Half) (major : BitVec 6) (n : Nat) (w : DriverWrite) : State :=
  if s.guardDiffers then s.guard pc major else (s.guard pc major).soon n rankUnit (.driverWriteEffect w)

/-- An instruction of issue cost 1 whose effect is one such write, with what the driver counts at issue. -/
def State.retireWrite (s : State) (w : DriverWrite) (f : Core → Core) : State :=
  let pc := s.me.drv.pc
  let m := s.major
  (s.retire 1 (if s.guardDiffers then id else f)).send pc m 8 w

/-- The fault of a descriptor read of `words` words at `addr`, aligned to `align` (R107). -/
def descFault (addr words align : Nat) : Option (BitVec 8) :=
  if addr % align ≠ 0 then some causeMisaligned
  else if padEnd < addr + 4 * words then some causeScratchRange
  else none

/-- An instruction that reads a descriptor of `words` words at `addr`, aligned to `align` (R107); `void` if the guard's copy
of what it is to send differs. -/
def State.startDesc (s : State) (i : Instr) (cost addr words align : Nat) (va vb vd : DWord) (xs : List Word)
    (flag void : Bool) : State :=
  match descFault addr words align with
  | some f => s.faultHere f
  | none =>
    let id := s.fresh
    let k := s.me
    let op : DescOp := {
      id := id, instr := i, pc := k.drv.pc, issue := s.tt, addr := addr, va := va, vb := vb, vd := vd, xs := xs, flag := flag, need := (words + 7) / 8, got := 0, words := [], bad := [], free := !k.timed, void := void }
    let s := ({ s with fresh := id + 1 }).retire cost (fun k =>
      let k := { k with ops := k.ops.put id op }
      if op.free then k.modDrv (fun d => { d with hold := some (.descriptor id) }) else k)
    s.claimGroups words addr (fun g a n => .descriptor id g a n)

/-- The same for an instruction that sends something out, which the guard compares, with its other effects `f`. -/
def State.sendDesc (s : State) (i : Instr) (cost addr words align : Nat) (va vb vd : DWord) (xs : List Word)
    (flag : Bool) (f : Core → Core) : State :=
  let t := s.startDesc i cost addr words align va vb vd xs flag s.guardDiffers
  if (descFault addr words align).isSome then t else (t.modMe (if s.guardDiffers then id else f)).guard s.me.drv.pc s.major

/-- The words of a finished descriptor read. -/
def DescOp.word (o : DescOp) (i : Nat) : Word := o.words.get i

/-- A precise fault of the instruction that read a descriptor. -/
def State.opFault (s : State) (o : DescOp) (cause : BitVec 8) (va : DWord) : State :=
  s.precise s.cur cause o.pc va

/-- The engine that a c field names (Table 4.4). -/
def engField (c : BitVec 5) : Eng := engOf c.toNat

/-! ### Engine table control (R109 to R112) -/

def execTstart (a c : BitVec 5) (s : State) : Host.Outcome State Fault Refusal :=
  let v := (s.readG a).toNat
  let e := engField c
  let k := s.me
  let start := if k.timed then k.csr.depart.toNat + v else v
  .next (s.notOnBox (
    if 2 ^ 24 ≤ v then s.faultHere causeOperand
    else if (k.engine e).status ≠ .stopped then s.faultHere causeOccupancy
    else if k.timed && start < s.tt + 8 then s.faultHere causeLateStamp
    else s.retireWrite (.tstart e (!k.timed) start) id))

def execTstop (c : BitVec 5) (s : State) : Host.Outcome State Fault Refusal :=
  .next (s.notOnBox (s.retireWrite (.tstop (engField c)) id))

def execTbase (a c : BitVec 5) (s : State) : Host.Outcome State Fault Refusal :=
  let v := s.readG a
  .next (s.notOnBox (
    if 1024 ≤ v.toNat then s.faultHere causeOperand
    else if (s.me.engine (engField c)).status ≠ .stopped then s.faultHere causeOccupancy
    else s.retireWrite (.tbase (engField c) (v.setWidth 10)) id))

def execTload (a b c : BitVec 5) (s : State) : Host.Outcome State Fault Refusal :=
  let count := (s.readG b).toNat
  .next (s.notOnBox (
    if count = 0 || 1024 < count then s.faultHere causeOperand
    else s.sendDesc (.tload a b c) ((count + 7) / 8 + 1) (s.readG a).toNat count 4 (s.readG a) (s.readG b) 0 [] false id))

/-- The index of the first word that TLOAD rejects (R71): words in order with the ends of the open ELOOP
bodies, innermost first. -/
def firstBad (e : Eng) : List Word → Nat → List Nat → Option Nat
  | [], _, _ => none
  | w :: r, i, ends =>
    let ends := ends.filter (fun x => i ≤ x)
    match decode (.engine e) w with
    | .error _ => some i
    | .ok (.eloop _ _ n) =>
      let last := i + n.toNat
      if 1023 < last || 2 ≤ ends.length || ends.any (· < last) then some i
      else firstBad e r (i + 1) (last :: ends)
    | .ok _ => firstBad e r (i + 1) ends

/-- The bank that stays inactive once the flips on their way have taken effect (R111). -/
def State.inactiveBank (s : State) (e : Eng) : Bool :=
  let flips := (s.agenda.filter (fun d => d.who = s.cur &&
    (match d.instr with
     | .driverWriteEffect (.table e' _ _ true) => e = e'
     | _ => false))).length
  (s.me.engine e).bank == (flips % 2 = 1)

/-- A TLOAD whose last group has been read: checks, and the writes that take effect at issue + cost + 8. -/
def State.loadTable (s : State) (o : DescOp) (e : Eng) : State :=
  let count := o.vb.toNat
  let ws := o.words.getRange 0 count
  let n := o.issue + ((count + 7) / 8 + 1) + 8 - s.tt
  let bank := s.inactiveBank e
  if o.void then s
  else match firstBad e ws 0 [] with
  | none => s.soon n rankUnit (.driverWriteEffect (.table e bank ws true))
  | some i =>
    (s.soon n rankUnit (.driverWriteEffect (.table e bank (ws.take i) false))).deliver s.cur causeMicroOrder
      o.pc o.pc (faultInfo unitDriver (engIx e).val false i) 0

/-- TLOADs of a core to one engine, oldest first: descriptor reads are numbered in issue order. -/
def Core.tloads (k : Core) (e : Eng) : List (Nat × DescOp) :=
  k.ops.filter (fun p => match p.2.instr with
    | .tload _ _ c => engField c = e
    | _ => false)

/-- The TLOADs of an engine that have read all their groups go on in program order, up to the first one that has not
(R111). -/
def State.loadTables (s : State) (e : Eng) : State :=
  let c := s.cur
  ((s.me.tloads e).takeWhile (fun p => p.2.need ≤ p.2.got)).foldl (fun s p =>
    (s.modCore c (fun k => { k with ops := k.ops.drop p.1 })).loadTable p.2 e) s

/-- TLOAD after its last group: it waits for the TLOADs to its engine that issued before it, whose flips name its bank. -/
def finishTload (o : DescOp) (c : BitVec 5) (s : State) : State :=
  (s.modMe (fun k => { k with ops := k.ops.put o.id { o with got := o.need } })).loadTables (engField c)

def execLpset (a c e : BitVec 5) (s : State) : Host.Outcome State Fault Refusal :=
  let v := s.readG a
  .next (s.notOnBox (
    if 65536 ≤ v.toNat then s.faultHere causeOperand
    else s.retireWrite (.loopCounter (engField c) e.toNat (v.setWidth 16)) id))

def execAgset (a c e : BitVec 5) (s : State) : Host.Outcome State Fault Refusal :=
  .next (s.notOnBox (s.sendDesc (.agset a c e) 2 (s.readG a).toNat 4 16 (s.readG a) 0 0 [] false id))

/-- An address-generator descriptor within its ranges (Tables 1.3 and 6.3). -/
def agenOf (w0 w1 w2 w3 : Word) : Option Agen :=
  let base := bits w0 19 0
  if onlyBits w0 0xFFFFF && onlyBits w1 0xFFFFF && onlyBits w2 0xFFFFF && base < padEnd && base % 32 = 0 &&
      bits w1 4 0 = 0 && bits w2 4 0 = 0 && bits w3 15 0 ≠ 0 && bits w3 31 16 ≠ 0 then
    some ⟨BitVec.ofNat 20 base, w1.setWidth 20, w2.setWidth 20, w3.setWidth 16, (w3 >>> 16).setWidth 16, 0⟩
  else none

/-- AGSET after its read: effective at issue + 8 + b(0) (R112). One that issued later and has read its descriptor already
stands (R108). -/
def finishAgset (o : DescOp) (c e : BitVec 5) (s : State) : State :=
  let g := engField c
  let n := e.toNat
  match agenOf (o.word 0) (o.word 1) (o.word 2) (o.word 3) with
  | none => s.opFault o causeOperand 0
  | some v =>
    if o.void || o.issue < vecGet (s.me.engine g).agSet 0 n then s
    else (s.modMe (·.modEng g (fun q => { q with agSet := vecMod q.agSet n (fun _ => o.issue + 1) }))).soon 7 rankUnit
      (.driverWriteEffect (.agen g n v))

/-! ### Queues, rings and seeds (R113, R114) -/

def execWbpush (a : BitVec 5) (s : State) : Host.Outcome State Fault Refusal :=
  let q := s.me.q
  .next (s.notOnBox (
    if 16 ≤ q.waybill.length + q.waybillIn then s.faultHere causeOverflow
    else s.retireWrite (.waybill ((s.readG a).setWidth 32))
      (·.modQ (fun q => { q with waybillIn := q.waybillIn + 1 }))))

def execPqpush (a : BitVec 5) (s : State) : Host.Outcome State Fault Refusal :=
  let q := s.me.q
  .next (s.notOnBox (
    if 16 ≤ q.param.length + q.paramIn then s.faultHere causeOverflow
    else s.retireWrite (.param ((s.readG a).setWidth 32))
      (·.modQ (fun q => { q with paramIn := q.paramIn + 1 }))))

/-- The packed RCFG operand within its ranges, its slots inside the scratchpad (R16, R114, Table 6.4). -/
def ringOperandOk (v : DWord) : Bool :=
  let base := (v.extractLsb' 0 20).toNat
  let slot := (v.extractLsb' 20 8).toNat
  let count := (v.extractLsb' 28 7).toNat
  v.extractLsb' 42 22 = 0#22 && swzOk (v.extractLsb' 35 7) && 1 ≤ count && count ≤ 64 && 1 ≤ slot &&
    base % 256 = 0 && base + count * slot * 256 ≤ padEnd

def execRcfg (a c : BitVec 5) (s : State) : Host.Outcome State Fault Refusal :=
  .next (s.notOnBox (
    if ringOperandOk (s.readG a) then s.retireWrite (.ringConfig c.toNat (s.readG a)) id
    else s.faultHere causeOperand))

def execRreset (c : BitVec 5) (s : State) : Host.Outcome State Fault Refusal :=
  .next (s.notOnBox (s.retireWrite (.ringReset c.toNat) id))

def execSsset (a c : BitVec 5) (s : State) : Host.Outcome State Fault Refusal :=
  let v := s.readG a
  .next (s.notOnBox (
    if v.extractLsb' 32 32 ≠ 0#32 then s.faultHere causeOperand
    else s.retireWrite (.seed c.toNat (v.setWidth 32)) id))

/-! ### Effects -/

/-- Counters, tags and fill count of a ring cleared (R16, R178). -/
def Ring.cleared (r : Ring) : Ring :=
  { r with head := 0, tail := 0, seqIn := 0, seqOut := 0, fill := 0, writes := 0, gen := r.gen + 1,
           tags := [], bad := [] }

/-- A ring configured from the packed operand (Table 6.4). -/
def Ring.configured (r : Ring) (v : DWord) : Ring :=
  { r.cleared with base := v.extractLsb' 0 20, slot := v.extractLsb' 20 8, count := v.extractLsb' 28 7,
                   swz := v.extractLsb' 35 7 }

/-- A ring cleared or configured: slots taken before are never released into it. -/
def State.resetRing (s : State) (c r : Nat) (f : Ring → Ring) : State :=
  let s := { s with agenda := s.agenda.filter (fun d => !(d.who = c &&
    (match d.instr with
     | .ringSlotRelease q _ => q = r
     | _ => false))) }
  s.modCore c (fun k => (k.modRing r f).modMx (fun m => { m with
    windows := m.windows.map (fun w => { w with held := w.held.filter (fun p => p.1 ≠ r) }),
    jobs := m.jobs.map (fun p => (p.1, if p.2.ring = r then { p.2 with ring := 16 } else p.2)) }))

/-- CSR values that engine work sees (R27). -/
def EngineView.put (v : EngineView) (addr : BitVec 12) (x : DWord) : EngineView :=
  let a := addr.toNat
  if a = 0x050 then { v with rngseed := x }
  else if a = 0x034 then { v with slewstep := x }
  else if a = 0x061 then { v with ectl := x }
  else if a = 0x063 then { v with estatic := x }
  else if 0x068 ≤ a ∧ a < 0x070 then { v with ewt := vecMod v.ewt (a - 0x068) (fun _ => x) }
  else v

/-- Words of a bank written from its word 0, their poison cleared. -/
def Engine.writeBank (g : Engine) (bank : Bool) (ws : List Word) : Engine :=
  let base := if bank then 1024 else 0
  { g with table := g.table.setRange base ws, bad := g.bad.setRange base (ws.map (fun _ => 0)) }

/-- ENGINE_START: an armed engine whose start cycle has come runs (Table 6.2). -/
def execEngineStart (e : Eng) (s : State) : Host.Outcome State Fault Refusal :=
  let tt := s.tt
  let timed := s.me.timed
  .next (s.modMe (·.modEng e (fun g =>
    if timed && g.status = .armed && g.start = tt then { g with status := .running, base := tt, first := true } else g)))

end Sys2Proof.Machine
end

