-- ==== Sys2Proof/Machine/Csr.lean ====
section
/-! DEFINITION. Control and status registers: their two views, their writable fields, and the signal-box
registers (01, R26 to R30; 06, R132; 15, R262, R263; 22, R324). -/

namespace Sys2Proof.Machine

/-- Registers of a core that a CSR address names (Table 1.9), or of a signal box (Table 15.4). -/
inductive CsrName where
  | status | cause | epc | faultInfo | faultCyc | faultVa | sscratch | tvec | ctxid | pgroot | coreix | region
  | depart | plevel | variant | pointstat | leaseset | slewstep | mstat | vstat
  | growth (n : Nat)
  | rngseed | energy | ectl | eres | estatic
  | ewt (n : Nat)
  | holdcnt | cecnt
  | pair (p m : Nat)
  | pgrant
  | sbslew (n : Nat)
  | sbcap | sbblen
  deriving DecidableEq, Repr

/-- The register at an address; signal-box registers exist on a signal box only (R26, R262). -/
def csrAt (box : Bool) (a : BitVec 12) : Option CsrName :=
  let n := a.toNat
  match n with
  | 0x000 => some .status
  | 0x001 => some .cause
  | 0x002 => some .epc
  | 0x003 => some .faultInfo
  | 0x004 => some .faultCyc
  | 0x005 => some .faultVa
  | 0x006 => some .sscratch
  | 0x007 => some .tvec
  | 0x010 => some .ctxid
  | 0x011 => some .pgroot
  | 0x020 => some .coreix
  | 0x021 => some .region
  | 0x022 => some .depart
  | 0x030 => some .plevel
  | 0x031 => some .variant
  | 0x032 => some .pointstat
  | 0x033 => some .leaseset
  | 0x034 => some .slewstep
  | 0x040 => some .mstat
  | 0x042 => some .vstat
  | 0x050 => some .rngseed
  | 0x060 => some .energy
  | 0x061 => some .ectl
  | 0x062 => some .eres
  | 0x063 => some .estatic
  | 0x070 => some .holdcnt
  | 0x071 => some .cecnt
  | _ =>
    if 0x048 ≤ n ∧ n ≤ 0x04F then some (.growth (n - 0x048))
    else if 0x068 ≤ n ∧ n ≤ 0x06F then some (.ewt (n - 0x068))
    else if box then
      if 0x100 ≤ n ∧ n < 0x180 ∧ n % 8 ≠ 7 then some (.pair ((n - 0x100) / 8) (n % 8))
      else if n = 0x180 then some .pgrant
      else if 0x188 ≤ n ∧ n ≤ 0x18F then some (.sbslew (n - 0x188))
      else if n = 0x190 then some .sbcap
      else if n = 0x191 then some .sbblen
      else none
    else none

/-- VSTAT (Table 1.8) as a driver reads it in timetable cycle `tt`. -/
def VectorStore.vstat (v : VectorStore) (tt : Nat) : DWord :=
  let x := if tt < v.loopFrom then v.before else (v.rrb, v.sp, v.vloop.isSome)
  (BitVec.ofBool x.2.2 ++ BitVec.ofBool v.vnf ++ x.2.1 ++ x.1).setWidth 64

/-- LEASESET (Table 6.9). -/
def leaseset (l : Vector (Option Lease) 8) : DWord :=
  (l.toList.zipIdx).foldl (fun (w : DWord) p => match p.1 with
    | none => w
    | some x => w ||| (1#64 <<< p.2) ||| (x.kind.setWidth 64 <<< (8 + 3 * p.2)) |||
        (if x.ready then 1#64 <<< (32 + p.2) else 0)) 0

/-- GROWTHn: byte b of it is that of tile 8n + b (R19). -/
def growthWord (g : Vector Byte 64) (n : Nat) : DWord :=
  (List.range 8).foldl (fun (w : DWord) b => w ||| ((vecGet g 0 (8 * n + b)).setWidth 64 <<< (8 * b))) 0

/-- PQCTL's PLACED bit: a timetable holds the pair or is saved on it, or the pair is retired (R263, R285). -/
def State.placed (s : State) (die pair : Nat) : Bool :=
  (vecGet (vecGet s.dies Die.reset die).pair Pair.reset pair).retired ||
    s.nodes.any (fun p =>
      let nd := p.2
      nd.savedOn.contains (16 * die + pair) || (nd.state = .loading || nd.state = .running || nd.state = .saving || nd.state = .restoring) &&
        (let w := (nd.words.getD 8 0)
         let px := 4 * (die % 4) + pair % 4
         let py := 4 * (die / 4) + pair / 4
         nd.ox ≤ px && px < nd.ox + bits w 4 0 && nd.oy ≤ py && py < nd.oy + bits w 8 5))

/-- A pair register, S view (Table 15.4). -/
def State.pairCsr (s : State) (die p m : Nat) : DWord :=
  let q := vecGet (vecGet s.dies Die.reset die).pair Pair.reset p
  match m with
  | 0 => (BitVec.ofBool (s.placed die p) ++ BitVec.ofBool q.ack ++ BitVec.ofBool q.req).setWidth 64
  | 1 => (BitVec.ofBool q.clk).setWidth 64
  | 2 => (BitVec.ofBool q.rail).setWidth 64
  | 3 => (BitVec.ofBool (q.wake && q.wakeFrom ≤ s.clock) ++ BitVec.ofBool q.rbusy ++ BitVec.ofBool q.seqerr ++ q.state).setWidth 64
  | 4 => q.pretb
  | 6 => q.pimb.setWidth 64
  | _ => 0

/-- SBCAP (Table 15.4). -/
def Die.sbcap (d : Die) : DWord :=
  BitVec.ofNat 64 (d.capIl + d.capSrt * 2 ^ 8 + d.capInf * 2 ^ 16 + d.capSh * 2 ^ 24 + d.capBoost * 2 ^ 32)

/-- A register's S view. -/
def State.csrS (s : State) (c : Nat) (r : CsrName) : DWord :=
  let k := s.core c
  let d := vecGet s.dies Die.reset (coreDie c)
  match r with
  | .status => k.csr.status
  | .cause => k.csr.cause
  | .epc => k.csr.epc
  | .faultInfo => k.csr.faultInfo
  | .faultCyc => k.csr.faultCyc
  | .faultVa => k.csr.faultVa
  | .sscratch => k.csr.sscratch
  | .tvec => k.csr.tvec
  | .ctxid => k.csr.ctxid
  | .pgroot => k.csr.pgroot
  | .coreix => k.csr.coreix
  | .region => k.csr.region
  | .depart => k.csr.depart
  | .plevel => k.csr.plevel
  | .variant => k.csr.variant
  | .pointstat => k.csr.pointstat
  | .leaseset => leaseset k.lease
  | .slewstep => k.csr.slewstep
  | .mstat => k.csr.mstat
  | .vstat => k.vec.vstat (s.ttOf c)
  | .growth n => growthWord k.mx.growth n
  | .rngseed => k.csr.rngseed
  | .energy => k.csr.energy
  | .ectl => k.csr.ectl
  | .eres => k.csr.eres
  | .estatic => k.csr.estatic
  | .ewt n => vecGet k.csr.ewt 0 n
  | .holdcnt => k.csr.holdcnt
  | .cecnt => k.csr.cecnt
  | .pair p m => s.pairCsr (coreDie c) p m
  | .pgrant => s.pgrant
  | .sbslew n => (vecGet d.slew 64 n).setWidth 64
  | .sbcap => d.sbcap
  | .sbblen => d.blen.setWidth 64

/-- A register's U view of an S-view value; none where the U view is absent (R26). -/
def csrU (r : CsrName) (v : DWord) : Option DWord :=
  match r with
  | .status => some (v &&& 3)
  | .faultInfo => some (if v.getLsbD 53 then v &&& 0xFFF0000000000000 else v)
  | .plevel => some (v &&& 7)
  | .sscratch | .tvec | .pgroot => none
  | .pair .. | .pgrant | .sbslew _ | .sbcap | .sbblen => none
  | _ => some v

/-- Fields a system-level write changes (R6, R26, Tables 1.2, 1.7, 1.10 to 1.12, 17.3). Table 1.9 lays out neither PGROOT,
of which a signal box keeps the 64 KiB frame in [51:16] (DEDUCED, log 128), nor SLEWSTEP, of which seven bits are kept as
written (DESIGN CHOICE, log 129). -/
def csrMask (box : Bool) (r : CsrName) : DWord :=
  match r with
  | .status => 0x1C
  | .cause => 0x80000000000000FF
  | .faultInfo => 0xFFEFFFFFFFFFFFFF
  | .epc | .faultCyc | .faultVa | .sscratch | .tvec | .rngseed | .holdcnt | .cecnt => 0xFFFFFFFFFFFFFFFF
  | .ctxid => 0x1FFF
  | .pgroot => if box then 0xFFFFFFFFF0000 else 0
  | .pointstat => 0xF
  | .slewstep => 0x7F
  | .mstat => 0xFFFFFC07
  | .energy => 0x8000FFFFFFFFFFFF
  | .ectl => 0x1FF01
  | .eres => 0xFFFFFFFFFFFF
  | .estatic | .ewt _ => 0xFFFF
  | _ => 0

/-- A core register written. -/
def Csrs.put (q : Csrs) (r : CsrName) (v : DWord) : Csrs :=
  match r with
  | .status => { q with status := v }
  | .cause => { q with cause := v }
  | .epc => { q with epc := v }
  | .faultInfo => { q with faultInfo := v }
  | .faultCyc => { q with faultCyc := v }
  | .faultVa => { q with faultVa := v }
  | .sscratch => { q with sscratch := v }
  | .tvec => { q with tvec := v }
  | .ctxid => { q with ctxid := v }
  | .pgroot => { q with pgroot := v }
  | .pointstat => { q with pointstat := v }
  | .slewstep => { q with slewstep := v }
  | .mstat => { q with mstat := v }
  | .rngseed => { q with rngseed := v }
  | .energy => { q with energy := v }
  | .ectl => { q with ectl := v }
  | .eres => { q with eres := v }
  | .estatic => { q with estatic := v }
  | .ewt n => { q with ewt := vecMod q.ewt n (fun _ => v) }
  | .holdcnt => { q with holdcnt := v }
  | .cecnt => { q with cecnt := v }
  | _ => q

/-- Registers whose driver writes reach engine work 8 cycles on (R27). -/
def engineRead : CsrName → Bool
  | .rngseed | .slewstep | .ectl | .estatic | .ewt _ => true
  | _ => false

/-- The three kinds of CSR write. -/
inductive CsrOp where
  | write | set | clear
  deriving DecidableEq, Repr

def CsrOp.apply (o : CsrOp) (old g : DWord) : DWord :=
  match o with
  | .write => g
  | .set => old ||| g
  | .clear => old &&& ~~~g

/-- A step of a signal box's register write: it performs 8 cycles on, after the issue of that cycle (R324). -/
def State.boxStep (s : State) (who : Nat) (i : Instr) : State := s.laterAt 8 rankFlag who i

/-- A write of a signal-box register (R263, R324, R325, R327): which steps it makes. A bit that CSRSET or
CSRCLR leaves as it is makes no step (log 10); of a register that is written as a whole they change the value that stands
when they perform. -/
def State.boxWrite (s : State) (a : BitVec 12) (r : CsrName) (o : CsrOp) (g : DWord) : State :=
  let c := s.cur
  let die := coreDie c
  let whole := fun (who : Nat) (i : Instr) => match o with
    | .write => s.boxStep who i
    | .set => s.boxStep c (.driverWriteEffect (.csrBits a true g))
    | .clear => s.boxStep c (.driverWriteEffect (.csrBits a false g))
  -- value a write gives bit n, if it writes it
  let bit := fun (n : Nat) => match o with
    | .write => some (g.getLsbD n)
    | .set => if g.getLsbD n then some true else none
    | .clear => if g.getLsbD n then some false else none
  let one := fun (n : Nat) => bit n = some true
  -- value written to a write-one-to-clear bit: the computed one
  let w1c := fun (n : Nat) => match o with
    | .write => g.getLsbD n
    | .set => true
    | .clear => !g.getLsbD n
  match r with
  | .pair p m =>
    let pr := 16 * die + p
    match m with
    | 0 =>
      if (one 5 && one 4) || ((one 5 || one 4) && (bit 0).isSome) then s.boxStep c (.driverWriteEffect (.csr a g))
      else
        let s := match bit 0 with
          | some b => s.boxStep pr (.pqctlReq b)
          | none => s
        let s := if one 5 then s.boxStep pr .pqctlRsave else s
        if one 4 then s.boxStep pr .pqctlRrest else s
    | 1 => match bit 0 with
      | some b => s.boxStep pr (.pclkWrite b)
      | none => s
    | 2 => match bit 0 with
      | some b => s.boxStep pr (.prailWrite b)
      | none => s
    | 3 =>
      let s := if w1c 4 then s.boxStep pr .prstatWakeClear else s
      if w1c 2 then s.boxStep pr .prstatSeqerrClear else s
    | 4 => whole pr (.pretbWrite g)
    | 5 => if one 0 then s.boxStep pr .pwake else s
    | _ => s
  | .pgrant => whole die (.pgrantWrite g)
  | .sbslew n => whole die (.sbslewWrite n g)
  | .sbcap => whole die (.sbcapWrite g)
  | _ => whole c (.driverWriteEffect (.csr a g))

/-- Whether a register belongs to the signal box's own set. -/
def CsrName.ofBox : CsrName → Bool
  | .pair .. | .pgrant | .sbslew _ | .sbcap | .sbblen => true
  | _ => false

/-- CSRWR, CSRSET and CSRCLR (R26, R30, R132). A write that the guard's copy does not agree with has no effect (R275). -/
def State.csrWrite (s : State) (o : CsrOp) (g : BitVec 5) (a : BitVec 12) : State :=
  let c := s.cur
  let k := s.me
  match csrAt (isBox c) a with
  | none => s.faultHere causeIllegal
  | some r =>
    if o ≠ .write && g = 0 then s.retire 1 id
    else if !k.priv && r ≠ .rngseed then s.faultHere causePrivilege
    else
      let pc := k.drv.pc
      let m := s.major
      let v := s.readG g
      if s.guardDiffers then (s.retire 1 id).guard pc m
      else if r.ofBox then ((s.retire 1 id).guard pc m).boxWrite a r o v
      else
        let old := s.csrS c r
        let mask := csrMask (isBox c) r
        let new := (old &&& ~~~mask) ||| (o.apply old v &&& mask)
        let s := s.retire 1 (·.modCsr (·.put r new))
        if engineRead r then s.send pc m 8 (.csr a new) else s.guard pc m

def execCsrwr (g : BitVec 5) (c : BitVec 12) (s : State) : Host.Outcome State Fault Refusal :=
  .next (s.csrWrite .write g c)
def execCsrset (g : BitVec 5) (c : BitVec 12) (s : State) : Host.Outcome State Fault Refusal :=
  .next (s.csrWrite .set g c)
def execCsrclr (g : BitVec 5) (c : BitVec 12) (s : State) : Host.Outcome State Fault Refusal :=
  .next (s.csrWrite .clear g c)

/-- CSRRD: the view of the issuer's level (R26, R132). -/
def execCsrrd (g : BitVec 5) (c : BitVec 12) (s : State) : Host.Outcome State Fault Refusal :=
  .next (match csrAt (isBox s.cur) c with
    | none => s.faultHere causeIllegal
    | some r =>
      let v := s.csrS s.cur r
      if s.me.priv then s.retireG 1 g v
      else match csrU r v with
        | some u => s.retireG 1 g u
        | none => s.faultHere causePrivilege)

/-! ### Effects of driver writes -/

/-- Preconditions of REQ, by the value written, and of RSAVE and RREST (Table 15.5). -/
def Pair.mayReq (q : Pair) (v : Bool) : Bool := v || (q.clk && q.state = 2 && !q.rbusy)
def Pair.canRetain (q : Pair) : Bool := q.ack && q.clk && q.state = 2 && !q.rbusy

/-- A PQCTL write that gives REQ a value and sets RSAVE or RREST: it is checked as a whole against the pair as it stood before
its cycle, and one that fails changes nothing and sets SEQERR, as does one that sets both (R263, R324). -/
def State.pqctlWrite (s : State) (p : Nat) (v : DWord) : State :=
  let q := vecGet (vecGet s.dies Die.reset (p / 16)).pair Pair.reset (p % 16)
  let mod := fun (s : State) (f : Pair → Pair) => { s with dies := vecMod s.dies (p / 16) (fun d => { d with
    pair := vecMod d.pair (p % 16) f }) }
  let req := v.getLsbD 0
  if (v.getLsbD 4 && v.getLsbD 5) || !q.mayReq req || !q.canRetain then mod s (fun q => { q with seqerr := true })
  else
    let save := v.getLsbD 5
    let s := (mod s (fun q => { q with
      rbusy := true, shot := some (if save then (q.balance, q.pimb) else (0, 0)),
      badImage := if save then q.badImage else false, req := req,
      ack := if req && !q.req then false else q.ack, reqAt := if req = q.req then q.reqAt else s.clock })).laterAt 4095
      rankVnf p (if save then .retentionSaveComplete else .retentionRestoreComplete)
    if req = q.req then s
    else if req then s.laterAt 64 rankVnf p .quiesceAck
    else (s.laterAt 1 rankVnf p .quiesceAck).laterAt 1 rankWalker 0 .placementAttempt

/-- What a write of a signal box's register does that has no step of its own: SBBLEN, a PQCTL write with more than one field
(R324), and the registers that the box's own energy counting reads (R261). -/
def State.boxEffect (s : State) (a : BitVec 12) (v : DWord) : State :=
  let n := a.toNat
  let die := coreDie s.cur
  if n < 0x100 then s.modMe (fun k => { k with view := k.view.put a v })
  else if n = 0x191 then { s with dies := vecMod s.dies die (fun d => { d with blen := v.setWidth 40 }) }
  else if n < 0x180 then s.pqctlWrite (16 * die + (n - 0x100) / 8) v
  else s

/-- A CSRSET or CSRCLR of a signal-box register performs: its bits are set or cleared in the value that stands then
(R324). -/
def State.bitsEffect (s : State) (a : BitVec 12) (set : Bool) (mask : DWord) : State :=
  let die := coreDie s.cur
  match csrAt true a with
  | none => s
  | some r =>
    let v := (if set then CsrOp.set else .clear).apply (s.csrS s.cur r) mask
    match r with
    | .pair p _ => s.laterAt 0 rankFlag (16 * die + p) (.pretbWrite v)
    | .pgrant => { s with pgrant := v &&& 0xFFFFFFFF0007 }
    | .sbslew n => s.laterAt 0 rankFlag die (.sbslewWrite n v)
    | .sbcap => s.laterAt 0 rankFlag die (.sbcapWrite v)
    | _ => s.boxEffect a v

/-- DRIVER_WRITE_EFFECT (R15, R108). TSTART arms a stopped engine; one that has started since its issue goes on (R110). -/
def execDriverWriteEffect (w : DriverWrite) (s : State) : Host.Outcome State Fault Refusal :=
  let c := s.cur
  .next (match w with
    | .waybill x => s.modMe (·.modQ (fun q => { q with
        waybill := q.waybill ++ [⟨x, false⟩], waybillIn := q.waybillIn - 1 }))
    | .param x => s.modMe (·.modQ (fun q => { q with
        param := q.param ++ [⟨x, false⟩], paramIn := q.paramIn - 1 }))
    | .loopCounter e n v => s.modMe (·.modEng e (fun g => { g with lc := vecMod g.lc n (fun _ => v) }))
    | .agen e n v => s.modMe (·.modEng e (fun g => { g with ag := vecMod g.ag n (fun _ => v) }))
    | .ringConfig r v => s.resetRing c r (·.configured v)
    | .ringReset r => s.resetRing c r (·.cleared)
    | .seed n v => s.modMe (fun k => { k with ss := vecMod k.ss n (fun _ => v) })
    | .tstart e free start =>
      let status := (s.me.engine e).status
      let timed := s.me.timed
      let depart := s.me.csr.depart.toNat
      -- sent in one mode and effective in the other, it counts from the departure of the mode it finds (DESIGN CHOICE, log 134)
      let start := if free = !timed then start else if timed then depart + start else start - depart
      if status = .running || status = .done then s
      else
        let s := s.modMe (·.modEng e (fun g => { g with status := .armed, start := start }))
        if timed then s.soon (start - s.tt) rankVisible (.engineStart e) else s
    | .tstop e => s.modMe (·.modEng e (fun g =>
        if g.status = .armed || g.status = .running then { g with status := .stopped, loops := [] } else g))
    | .tbase e v => s.modMe (·.modEng e (fun g => { g with step := v }))
    | .table e bank ws flip => s.modMe (·.modEng e (fun g =>
        let g := g.writeBank bank ws
        if flip then { g with bank := !g.bank } else g))
    | .csr a v =>
      if isBox c then s.boxEffect a v else s.modMe (fun k => { k with view := k.view.put a v })
    | .csrBits a set mask => s.bitsEffect a set mask)

end Sys2Proof.Machine
end

