-- ==== Sys2Proof/Machine/System.lean ====
section
/-! DEFINITION. System instructions and interrupts: TRAP, ERET, HALT, WFI, TLBINV, and the replay of accesses
to migrating pages (06, R131, R133; 11, R214; 17, R269, R270). -/

namespace Sys2Proof.Machine

/-- TRAP n (R131): EPC the TRAP itself, FAULTINFO the number. -/
def execTrap (n : BitVec 5) (s : State) : Host.Outcome State Fault Refusal :=
  let pc := s.me.drv.pc
  .next ((s.modMe (·.charged 0 1)).deliver s.cur causeTrap pc pc (faultInfo unitDriver 0 false n.toNat) 0)

/-- Whether the node of a core is being pre-empted at this point instance (R241 to R243). -/
def State.preempting (s : State) (c : Nat) : Bool :=
  match s.nodeOf c with
  | some nd => nd.latched || nd.leaseWait
  | none => false

/-- ERET (R9, R131): system level only. A data trap that a trap of the walker has overtaken follows it (R97). -/
def execEret (s : State) : Host.Outcome State Fault Refusal :=
  .next (if s.me.priv then
      let s := s.modMe (fun k => (k.charged 0 1).eret s.tt)
      if s.me.drv.late.isEmpty then s else s.unhold s.cur s.me.drv.ready
    else s.faultHere causePrivilege)

/-- HALT (R131, R270): the timetable ends LOST with cause 0x66; a signal box halts. -/
def execHalt (s : State) : Host.Outcome State Fault Refusal :=
  let c := s.cur
  let pc := s.me.drv.pc
  .next (if !s.me.priv then s.faultHere causePrivilege
    else if isBox c then (s.modMe (·.charged 0 1)).haltBox c 0x66
    else (s.modMe (·.charged 0 1)).fatal c true 0x66 4 (faultInfo unitDriver 0 false pc.toNat) 0 pc 0 0)

/-- A core hands over to the walker for the save of its timetable (R243, R264). -/
def State.handOver (s : State) : State :=
  let s := s.retireHold .saved id
  match s.me.place.node with
  | none => s
  | some n =>
    let s := s.modNode n (fun nd => { nd with handed := nd.handed + 1 })
    match s.nodes.find n with
    | none => s
    | some nd =>
      if nd.handed = (s.coresOf n).length then s.due (s.clock + 64) rankWalker none n .contextSave else s

/-- WFI (R131): signal boxes wait for an interrupt; a pre-empted core at system level hands over. -/
def execWfi (s : State) : Host.Outcome State Fault Refusal :=
  .next (s.freeOnly (
    if isBox s.cur then
      match s.interrupt s.cur with
      | some _ => s.retire 1 id
      | none => s.retireHold .wfi id
    else if s.me.priv && s.preempting s.cur then s.handOver
    else s.retire 1 id))

/-- WFI_WAKE: an interrupt is pending, so the wait ends; it traps if enabled (R131, R327). -/
def execWfiWake (s : State) : Host.Outcome State Fault Refusal :=
  let tt := s.tt
  .next (match s.me.drv.hold, s.interrupt s.cur with
    | some .wfi, some _ => s.unhold s.cur tt
    | _, _ => s)

/-- INTERRUPT_TAKEN on a signal box (R9, R105, R269): EPC is the instruction not yet issued, or the WAITS that
was waiting. Power alarm and self-test are taken off with it; wake stays until PRSTAT.WAKE is cleared
(log 11). -/
def execInterruptTaken (code : BitVec 8) (s : State) : Host.Outcome State Fault Refusal :=
  let c := s.cur
  let k := s.me
  let epc : Half := match k.drv.hold with
    | some (.waits _) => k.drv.pc - 4
    | _ => k.drv.pc
  .next (if isBox c && k.ie then
      let s := s.modMe (·.trap s.tt (0x8000000000000000 ||| code.setWidth 64) (epc.setWidth 64))
      { s with dies := vecMod s.dies (coreDie c) (fun d =>
          if code = 2 then { d with alarm := false }
          else if code = 3 then { d with selfTest := false } else d) }
    else s)

/-- An interrupt has become pending at the signal box of a die: it ends a WFI in the next cycle, and a WAITS
if interrupts are enabled (R105, R131, R327). -/
def State.wakeBox (s : State) (die : Nat) : State :=
  let c := boxBase + die
  let k := s.core c
  match k.drv.hold with
  | some .wfi => s.laterAt 1 rankVisible c .wfiWake
  | some (.waits _) =>
    match s.interrupt c with
    | some code => if k.ie then s.laterAt 1 rankVisible c (.interruptTaken code) else s
    | none => s
  | _ => s

/-! ### TLBINV and replay (R133, R214) -/

/-- A page of a pin contains an address. The identifiers are compared for a global page too: a pin taken through another
identifier does not hold a TLBINV back, and accesses of another identifier do not wait on it (R133 is silent; DESIGN
CHOICE, log 152). -/
def Pin.has (p : Pin) (asid : BitVec 13) (va : DWord) : Bool :=
  p.asid = asid && p.vpage = va.toNat / (if p.big then 2 ^ 29 else 2 ^ 16)

/-- A TLBINV whose page has no pins left completes after a latency the spec does not give (log 3). -/
def State.tryTlbinv (s : State) (c : Nat) : State :=
  match s.invs.find? (fun q => q.1 = c) with
  | none => s
  | some (_, asid, va) =>
    if s.pins.any (·.has asid va) then s
    else
      let f := s.freeCycles
      f.2.laterAt (f.1 + 1) rankVisible c .tlbinvComplete

/-- Every waiting TLBINV tried again, after pins have fallen. -/
def State.retryTlbinv (s : State) : State := s.invs.foldl (fun s q => s.tryTlbinv q.1) s

/-- TLBINV (R133): system level, free mode. -/
def execTlbinv (a b : BitVec 5) (s : State) : Host.Outcome State Fault Refusal :=
  let va := s.readG a
  let v := s.readG b
  let asid : BitVec 13 := v.setWidth 13
  let c := s.cur
  .next (s.freeOnly (
    if !s.me.priv then s.faultHere causePrivilege
    else if v.extractLsb' 13 51 ≠ 0#51 then s.faultHere causeOperand
    else if s.pins.any (fun p => p.has asid va && p.owner.isSome && p.owner = s.me.place.node) then
      s.faultHere causeOperand
    else
      let s := s.retireHold .tlbinv id
      State.tryTlbinv { s with invs := s.invs ++ [(c, asid, va)] } c))

/-- An access of the replay queue translated afresh, by a walk of its own where the TLB does not hold the page, and sent to its
memory, behind the one released before it (R214);
one that faults now traps with EPC the access (log 119). The access that goes on is answered. -/
def State.replayAccess (s : State) (c id : Nat) (behind : Option (Nat × Nat)) : State × Option (Nat × Nat) :=
  match (s.core c).acc.find? (fun a => a.id = id) with
  | none => (s, behind)
  | some a =>
    let hit := s.tlbHit c a.va
    let walk := s.walkReads c a.va
    let tr := s.translate c a.va
    let s := tr.2
    match accessFault tr.1 a.va a.size (a.kind ≠ .load), tr.1 with
    | some f, _ =>
      (((s.modCore c (fun k => (k.modDrv (·.unowe false [a.reg])).queue (k.acc.filter (fun b => b.id ≠ id)))).precise
        c f a.pc a.va).checkFence c, behind)
    | none, none => (s, behind)
    | none, some p =>
      let fixed := atHand c (p.pa a.va) hit
      let l := s.figure fixed Config.performCycles
      let s := l.2.modCore c (fun k => { k with
        acc := k.acc.map (fun b => if b.id = id then
          { b with pa := p.pa a.va, replay := false, fixed := fixed, behind := behind, walk := walk } else b) })
      (s.laterAt l.1 a.kind.rank c (a.kind.event id), some (c, id))

/-- The accesses of a die's replay queue to a page leave it in arrival order (R214). -/
def State.releaseReplay (s : State) (die : Nat) (asid : BitVec 13) (va : DWord) (size : Nat) : State :=
  let q := (vecGet s.dies Die.reset die).replay
  let hit := fun (s : State) (p : Nat × Nat) =>
    let k := s.core p.1
    k.csr.ctxid.setWidth 13 = asid &&
      (match k.acc.find? (fun a => a.id = p.2) with
       | some a => a.va.toNat / size = va.toNat / size
       | none => true)
  let out := q.filter (hit s)
  let s := { s with dies := vecMod s.dies die (fun d => { d with replay := d.replay.filter (fun p => !out.contains p) }) }
  (out.foldl (fun (t : State × Option (Nat × Nat)) p => t.1.replayAccess p.1 p.2 t.2) (s, none)).1

/-- The XPIN on which a core is held: the word before its PC. -/
def Core.heldPin (k : Core) : Option (Nat × BitVec 5 × BitVec 5 × Bool) :=
  match k.drv.hold, decode .driver (BitVec.ofNat 32 (k.drv.code.readLE (k.drv.pc - 4).toNat 4)) with
  | some .pin, .ok (.xpin a b c w sh) => some (c.toNat + 32 * sh.toNat, a, b, w = 1)
  | _, _ => none

/-- Its walk begins: the entries that it has to read. -/
def State.walkPin (s : State) (c : Nat) : State :=
  match (s.core c).heldPin with
  | some (_, a, b, _) =>
    let d := (s.core c).drv
    s.modCore c (fun k => { k with walk := s.pinReads c (d.readG a).toNat (d.readG b).toNat })
  | none => s

/-- TLBINV_COMPLETE: every TLB drops the entry; accesses that waited on the page go on if its entry is valid and
not migrating. XPINs that wait for a page that migrates try again (R119, R133, R214): they look at the page table again when
a TLBINV completes and at no other time, since the spec names no event for it (DESIGN CHOICE, log 151). -/
def execTlbinvComplete (s : State) : Host.Outcome State Fault Refusal :=
  let c := s.cur
  .next (match s.invs.find? (fun q => q.1 = c) with
    | none => s
    | some (_, asid, va) =>
      if s.pins.any (·.has asid va) then s
      else
        let tt := s.tt
        let s := { s with
          invs := s.invs.filter (fun q => q.1 ≠ c),
          dies := s.dies.map (fun (d : Die) => { d with tlb := d.tlb.filter (fun e => !e.serves asid va) }) }
        let s := s.unhold c tt
        -- an XPIN that waits for a migrating page walks again: it pins, faults, or goes on waiting (R119)
        let pins := fun (s : State) => (s.cores.filter (fun q => q.2.drv.hold = some .pin && q.2.walk.isEmpty)).foldl
          (fun s q => (s.walkPin q.1).laterAt 0 rankVisible q.1 .xpinComplete) s
        match (s.rootOfAsid asid).bind (fun r => s.walk r va) with
        | none => pins s
        | some p =>
          if p.mig then s
          else pins ((List.range 8).foldl (fun s d => s.releaseReplay d asid va p.size) s))

end Sys2Proof.Machine
end

