-- ==== Sys2Proof/Machine/Transfer.lean ====
section
/-! DEFINITION. Copies: shapes and handles, stamped copies, their units, and the pinning of spans (06, R115 to
R120; 11, R197 to R202, R205; 12, R224). -/

namespace Sys2Proof.Machine

/-! ### Copy shapes (Table 6.5) -/

/-- The core of a region position, if the region of core `c` has it. -/
def State.regionCore (s : State) (c x y : Nat) : Option Nat :=
  match s.nodeOf c with
  | none => none
  | some nd =>
    let w := nd.words.getD 8 0
    if x < 8 * bits w 4 0 && y < 4 * bits w 8 5 then some (coreAt (8 * nd.ox + x) (4 * nd.oy + y)) else none

/-- The limits of Table 6.5, R197 and R201. -/
def State.shapeOk (s : State) (c : Nat) (ws : List Word) : Bool :=
  let w := fun i => ws.getD i 0
  let len := bits (w 4) 15 0
  onlyBits (w 2) 0xFFFF && dkind ws ≠ 3 && skind ws < 2 && (dkind ws = 1 || dspan ws = 0) &&
    (skind ws = 1 || sspan ws = 0) && onlyBits (w 3) 0x1FFFF &&
    (dkind ws ≠ 2 || (s.regionCore c (bits (w 3) 11 0) (bits (w 3) 16 12)).isSome) &&
    onlyBits (w 4) 0xFFFF && len % 32 = 0 && 32 ≤ len && len ≤ 32768 && bits (w 5) 31 16 ≠ 0 && bits (w 5) 15 0 ≠ 0 &&
    (List.range 4).all (fun i => bits (w (6 + i)) 4 0 = 0) && onlyBits (w 10) 0x7F && swzOk (shapeSwz ws) &&
    onlyBits (w 11) 0xFFFF && shapeXid ws < 0xFFF0 && (skind ws = 1 || dkind ws = 1 || shapeXid ws = 0) && onlyBits (w 12) 0x1FFFF && w 13 = 0 && w 14 = 0 && w 15 = 0

/-- XOR of the halfwords of a shape (Table 6.6). -/
def shapeChk (ws : List Word) : Half :=
  ws.foldl (fun (h : Half) (w : Word) => h ^^^ w.setWidth 16 ^^^ (w >>> 16).setWidth 16) 0

/-- Words of a finished descriptor read. -/
def DescOp.list (o : DescOp) (n : Nat) : List Word := o.words.getRange 0 n

def execXshape (a e : BitVec 5) (s : State) : Host.Outcome State Fault Refusal :=
  .next (s.notOnBox (s.startDesc (.xshape a e) 3 (s.readG a).toNat 16 64 (s.readG a) 0 0 [] false false))

/-- XSHAPE after its read: the handle of Table 6.6, visible in the next cycle. -/
def finishXshape (o : DescOp) (e : BitVec 5) (s : State) : State :=
  let ws := o.list 16
  let tt := s.tt
  if s.shapeOk s.cur ws then
    let h : DWord := (1#1 ++ 0#15 ++ shapeChk ws ++ 0#12 ++ BitVec.ofNat 20 o.addr).setWidth 64
    s.modMe (fun k => if tt + 1 ≤ vecGet k.drv.wroteG 0 e.toNat then k else k.result (tt + 1) e h)
  else s.opFault o causeOperand 0

/-! ### Entering a copy (R116, R117, R201, R202) -/

/-- Whether a timetable owns the pseudo-channel of an HBM address. -/
def State.owns (s : State) (n : Option Nat) (pa : Nat) : Bool :=
  tierOf pa ≠ some .hbm || (n.isSome && (s.pcs.find (pcOf pa)).any (fun q => q.owner = n))

/-- The fault of one side of a copy, if it has one. The pieces that lie in HBM are checked whatever other frames their span
has (R201, R202). -/
def State.sideFault (s : State) (k : Copy) (timed write : Bool) (sp : Option Span) (off : Nat → Int) :
    Option (BitVec 8) :=
  let qs := List.range k.pieces
  match sp with
  | none => if qs.all (fun q => 0 ≤ off q && off q + 32 ≤ (padEnd : Int)) then none else some causeScratchRange
  | some x =>
    if !qs.all (fun q => x.covers (off q) (off q + 32)) || (write && !x.write) then some causeSpan
    else if timed && x.meets .host then some causeSpan
    else if x.meets .hbm then
      let w := fun i => (k.desc.getD i 0).toNat
      if (if write then [1, 4, 7, 9] else [0, 4, 6, 8]).any (fun i => w i % 64 ≠ 0) then some causeOperand
      else if qs.all (fun q => s.owns k.node (spanAt x (off q)) && s.owns k.node (spanAt x (off q + 31))) then none
      else some causeSpan
    else none

/-- Commands in the buffer of a transfer engine (R116). -/
def State.buffered (s : State) (engine : Nat) : Nat := (s.copies.filter (fun p => p.2.engine = engine)).length

/-- A copy placed in its buffer: it begins at its stamp, moved by holds. -/
def State.enterCopy (s : State) (k : Copy) : State :=
  let id := s.fresh
  let s := { s with fresh := id + 1, copies := s.copies.put id k }
  let s := s.due k.due rankUnit (if k.onHost then none else k.node) id (.copyUnitRead 0)
  if k.srcHbm || k.dstHbm then
    s.due (k.due + Config.windowLimit) rankCheck k.node id .missingWindowTimeout
  else s

/-- The instructions: stamp in g[a], handle in g[b]. -/
def State.copyOp (s : State) (i : Instr) (a b : BitVec 5) (xs : List Word) (tk : Bool) : State :=
  let h := s.readG b
  s.notOnBox (
    if h.getLsbD 63 && h.extractLsb' 48 15 = 0#15 && h.extractLsb' 20 12 = 0#12 then
      s.sendDesc i 3 (h.extractLsb' 0 20).toNat 16 64 (s.readG a) h (BitVec.ofNat 64 s.clock) xs tk id
    else s.faultHere causeOperand)

def execXcopy (a b : BitVec 5) (t : BitVec 1) (s : State) : Host.Outcome State Fault Refusal :=
  .next (s.copyOp (.xcopy a b t) a b [] (t = 1))

/-- The index registers x0 to x(c). -/
def State.indexes (s : State) (c : BitVec 5) : List Word := s.me.drv.x.toList.take (c.toNat + 1)

def execXgather (a b c : BitVec 5) (t : BitVec 1) (s : State) : Host.Outcome State Fault Refusal :=
  .next (s.copyOp (.xgather a b c t) a b (s.indexes c) (t = 1))

def execXscatter (a b c : BitVec 5) (t : BitVec 1) (s : State) : Host.Outcome State Fault Refusal :=
  .next (s.copyOp (.xscatter a b c t) a b (s.indexes c) (t = 1))

/-- The copy that an instruction names, its spans as they stand; none where a span it names is not valid or a
core is outside the region. -/
def State.copyOf (s : State) (o : DescOp) (form : Nat) (free : Bool) : Except (BitVec 8) Copy :=
  let c := s.cur
  let k := s.me
  let ws := o.list 16
  let w := fun i => ws.getD i 0
  let src := if skind ws = 1 then k.spanAt (sspan ws) else none
  let dst := if dkind ws = 1 then k.spanAt (dspan ws) else none
  let dcore := if dkind ws = 2 then s.regionCore c (bits (w 3) 11 0) (bits (w 3) 16 12) else some c
  let tok := if o.flag then s.regionCore c (bits (w 12) 11 0) (bits (w 12) 16 12) else none
  match dcore with
  | none => .error causeOperand
  | some d =>
    if o.flag && tok.isNone then .error causeOperand
    else if (skind ws = 1 && src.isNone) || (dkind ws = 1 && dst.isNone) then .error causeSpan
    else
      let stamp := o.va.toNat
      let k0 : Copy := {
        core := c, node := k.place.node, engine := 8 * coreDie c + corePair c / 2, form := form, stamp := stamp, due := if free then stamp else stamp + k.place.hshift, desc := ws, xs := o.xs, token := tok, src := src, dst := dst, dstCore := d, total := 0, reading := [], writing := [], readLines := [], writeLines := [], units := [], slots := [], checked := [], written := [] }
      .ok { k0 with total := (k0.pieces + k0.unitPieces - 1) / k0.unitPieces }

/-- The spans of a copy checked (R24, R116, R117, R201, R202), and its XID, which is 0 where no side lies in HBM (Table 6.5). -/
def State.copyFault (s : State) (k : Copy) (timed : Bool) : Option (BitVec 8) :=
  match s.sideFault k timed false k.src k.srcOff with
  | some f => some f
  | none =>
    match s.sideFault k timed true k.dst k.dstOff with
    | some f => some f
    | none => if !k.srcHbm && !k.dstHbm && shapeXid k.desc ≠ 0 then some causeOperand else none

/-- The four checks of R116 after the descriptor has been read again, then the entry. -/
def finishCopy (o : DescOp) (form : Nat) (s : State) : State :=
  let ws := o.list 16
  let issue := if o.free then o.vd.toNat else o.issue
  let one := bits (ws.getD 5 0) 31 16 = 1 && bits (ws.getD 5 0) 15 0 = 1
  if shapeChk ws ≠ o.vb.extractLsb' 32 16 || !s.shapeOk s.cur ws || (form ≠ 0 && !one) then
    s.opFault o causeOperand 0
  else if o.va.toNat < issue + 32 then s.opFault o causeLateStamp 0
  else match s.copyOf o form o.free with
    | .error f => s.opFault o f 0
    | .ok k =>
      match s.copyFault k (!o.free) with
      | some f => s.opFault o f 0
      | none =>
        if 64 ≤ s.buffered k.engine then s.opFault o causeBufferFull 0
        else s.enterCopy k

/-! ### Pins (R119, R120, R212) -/

/-- Outcome of the walk of an XPIN. -/
inductive PinResult where
  | ok (sp : Span)
  | operand
  | missing (va : Nat)
  | wait
  deriving DecidableEq, Repr

/-- Frames of the 64 KiB pages of a range, in order. -/
def State.pinFrames (s : State) (c va : Nat) (write : Bool) : List Nat → List Nat → PinResult × State
  | [], fs => (.ok ⟨write, va, 0, false, fs.reverse⟩, s)
  | p :: r, fs =>
    let first := max va (p * 2 ^ 16)
    let t := if 2 ^ 55 ≤ first then (none, s) else s.translate c (BitVec.ofNat 64 first)
    match t.1 with
    | none => (.missing first, t.2)
    | some q =>
      if q.big then (.operand, t.2) -- a range over two pages of which one is of 512 MiB is neither of the two cases
      else if q.mig then (.wait, t.2)
      else if write && !q.write then (.missing first, t.2)
      else State.pinFrames t.2 c va write r ((q.pa (BitVec.ofNat 64 (p * 2 ^ 16))) :: fs)

/-- The range of an XPIN translated: one 512 MiB page, or at most sixteen of 64 KiB. No page lies at 2^55 or above (R211). -/
def State.pinRange (s : State) (c va n : Nat) (write : Bool) : PinResult × State :=
  let pages := rangePages va n
  if va / 2 ^ 29 ≠ (va + n - 1) / 2 ^ 29 && 16 < pages.length then (.operand, s)
  else
    let t := if 2 ^ 55 ≤ va then (none, s) else s.translate c (BitVec.ofNat 64 va)
    match t.1 with
    | none => (.missing va, t.2)
    | some q =>
      if q.big && va / 2 ^ 29 = (va + n - 1) / 2 ^ 29 then
        if q.mig then (.wait, t.2)
        else if write && !q.write then (.missing va, t.2)
        else (.ok ⟨write, va, n, true, [q.frame]⟩, t.2)
      else if 16 < pages.length then (.operand, t.2)
      else
        let f := t.2.pinFrames c va write pages []
        match f.1 with
        | .ok sp => (.ok { sp with extent := n }, f.2)
        | x => (x, f.2)

/-- The pins of a span of an address space. -/
def spanPins (asid : BitVec 13) (owner : Option Nat) (sp : Span) : List Pin :=
  if sp.big then [⟨asid, sp.vbase / 2 ^ 29, true, owner⟩]
  else (List.range sp.frames.length).map (fun i => ⟨asid, sp.vbase / 2 ^ 16 + i, false, owner⟩)

/-- Address space of a core. -/
def Core.asid (k : Core) : BitVec 13 := k.csr.ctxid.setWidth 13

/-- The pins of a span fall. -/
def State.unpin (s : State) (c : Nat) (sp : Span) : State :=
  let k := s.core c
  let s := { s with pins := (spanPins k.asid k.place.node sp).foldl List.erase s.pins }
  s.retryTlbinv

/-- A span pinned. -/
def State.pin (s : State) (c : Nat) (sp : Span) : State :=
  let k := s.core c
  { s with pins := spanPins k.asid k.place.node sp ++ s.pins }

/-- XPIN: free mode; issue holds until the walk is done, which reads its entries in open windows and free depot cycles (R198,
R207) after a latency that the spec does not give (log 3). -/
def execXpin (_a b c : BitVec 5) (_w sh : BitVec 1) (s : State) : Host.Outcome State Fault Refusal :=
  let n := c.toNat + 32 * sh.toNat
  let len := (s.readG b).toNat
  .next (s.notOnBox (s.freeOnly (
    if len = 0 || (s.me.spanAt n).isSome || (2 ^ 29 < len) then s.faultHere causeOperand
    else
      let f := ((s.retireHold .pin id).walkPin s.cur).freeCycles
      f.2.laterAt (1 + f.1) rankVisible s.cur .xpinComplete)))

/-- The walk of a held XPIN reads its next entry, and goes on in the next cycle. -/
def State.pinTurn (s : State) (c pa : Nat) : State :=
  let t := s.untimedTurn (walkAgent, c) pa
  if t.1 then (t.2.modCore c (fun k => { k with walk := k.walk.drop 1 })).laterAt 1 rankVisible c .xpinComplete
  else if tierOf pa = some .hbm then t.2
  else t.2.laterAt 1 rankVisible c .xpinComplete

/-- XPIN_COMPLETE: once its walk has read its entries, the XPIN before the PC pins its pages, faults, or goes on waiting for a
migrating page. -/
def execXpinComplete (s : State) : Host.Outcome State Fault Refusal :=
  let c := s.cur
  let pc := s.me.drv.pc - 4
  let tt := s.tt
  .next (match s.me.heldPin, s.me.walk with
    | none, _ => s
    | some _, pa :: _ => s.pinTurn c pa
    | some (n, a, b, w), [] =>
      let r := s.pinRange c (s.readG a).toNat (s.readG b).toNat w
      match r.1 with
      | .ok sp => ((r.2.pin c sp).modMe (fun k => { k with span := k.span.put n sp })).unhold c tt
      | .operand => r.2.precise c causeOperand pc 0
      | .missing va => r.2.precise c causeTranslation pc (BitVec.ofNat 64 va)
      | .wait => r.2)

/-- Whether the descriptor of a leased-engine command names a span by its number, as a side that its kind of command uses
(Table 18.2, R295, R297, R298). -/
def LeasedCmd.names (r : LeasedCmd) (n : Nat) : Bool :=
  let w := r.desc.getD 0 0
  let a := bits w 13 8 = n
  let b := bits w 21 16 = n
  if r.op ≤ 0x02 then a || (r.op = 0x01 && w.getLsbD 24 && bits (r.desc.getD 7 0) 29 24 = n)
  else if r.op ≤ 0x04 then b
  else if r.op < 0x18 then (a && w.getLsbD 24) || (b && w.getLsbD 25)
  else a || (b && w.getLsbD 25)

/-- Whether a command that has not retired names a span of a core (R120). -/
def State.spanNamed (s : State) (c n : Nat) (sp : Span) : Bool :=
  s.copies.any (fun p => p.2.core = c &&
      ((p.2.src = some sp && sspan p.2.desc = n) || (p.2.dst = some sp && dspan p.2.desc = n))) ||
    s.fabric.buckets.any (fun p => p.2.members.any (fun m => m.core = some c && m.spans.contains n)) ||
    (s.core c).leased.any (fun p => p.2.names n && (p.2.spanA = some sp || p.2.spanB = some sp || p.2.spanL = some sp))

/-- Emptied spans that no command names any more lose their pins. -/
def State.releaseSpans (s : State) (c : Nat) : State :=
  let k := s.core c
  let gone := k.unpinned.filter (fun p => !s.spanNamed c p.1 p.2)
  if gone.isEmpty then s
  else gone.foldl (fun s p => s.unpin c p.2)
    (s.modCore c (fun k => { k with unpinned := k.unpinned.filter (fun p => !gone.contains p) }))

/-- XUNPIN (R120); after a valid span the next instruction issues 4 cycles on (Table 13.1). -/
def execXunpin (c : BitVec 5) (sh : BitVec 1) (s : State) : Host.Outcome State Fault Refusal :=
  let n := c.toNat + 32 * sh.toNat
  .next (s.notOnBox (s.freeOnly (
    match s.me.spanAt n with
    | none => s.retire 1 id
    | some sp => (s.retire 4 (fun k => { k with span := k.span.drop n, unpinned := k.unpinned ++ [(n, sp)] })).releaseSpans
        s.cur)))

/-! ### Units (R118, R198 to R200) -/

/-- Whether copies of a timetable still move: no stop pulse has reached it (R118, R273). -/
def State.transfersRun (s : State) (n : Option Nat) : Bool :=
  match n.bind s.nodes.find with
  | none => false
  | some nd => match nd.stopping with
    | none => true
    | some t => s.clock < t + nd.hn

/-- A copy leaves its buffer; claims of it that wait are taken back, and spans may lose their pins. -/
def State.dropCopy (s : State) (id : Nat) : State :=
  match s.copies.find id with
  | none => s
  | some k =>
    let mine := fun (q : Claim) => match q.act with
      | .copyRead x _ => x = id
      | .copyWrite x _ => x = id
      | _ => false
    let clean := fun (p : Core) => p.modPad (fun p => { p with claims := p.claims.filter (fun q => !mine q) })
    let s := { s with copies := s.copies.drop id }
    let s := (s.modCore k.core clean).modCore k.dstCore clean
    s.releaseSpans k.core

/-- A copy fails after its issue: recorded with the issuing core and the stamp (R118, Table 17.4). -/
def State.failCopy (s : State) (id : Nat) (cause : BitVec 8) : State :=
  match s.copies.find id with
  | none => s
  | some k =>
    (s.dropCopy id).fatal k.core false cause 3 (faultInfo unitTransfer (k.engine % 8) false (shapeXid k.desc)) 5 0
      (BitVec.ofNat 64 k.stamp) 0

/-- Bytes or accesses added to a count of this cycle, and whether they exceed its limit. -/
def State.carry (s : State) (key n limit : Nat) : State × Bool :=
  let t := (s.carried.find key).getD 0 + n
  ({ s with carried := s.carried.put key t }, decide (limit < t))

/-- A node may now be complete: every core has fired and every copy and bucket has retired (R233). -/
def State.checkNode (s : State) (n : Nat) : State :=
  match s.nodes.find n with
  | none => s
  | some nd =>
    let cs := s.coresOf n
    if nd.state = .running && nd.stopping.isNone && !cs.isEmpty && cs.all (fun c => (s.core c).place.fired) &&
        s.copies.all (fun p => p.2.node ≠ some n) && s.fabric.buckets.all (fun p => p.2.node ≠ n) &&
        !s.agenda.any (fun d => d.who = n && d.instr = .completionRecordWrite) then
      s.due (s.clock + 1) rankWalker none n .completionRecordWrite
    else s

/-- The token of a copy enters the X to L FIFO of a core; eight held already are a token overflow, recorded with the issuing
core and the stamp (R56, R118). -/
def State.copyToken (s : State) (x : Copy) (c : Nat) : State :=
  let k := s.core c
  let p := vecGet k.q.popped (0, 0) 5
  let held := (vecGet k.q.token [] 5).length + (if p.1 = s.ttOf c then p.2 else 0)
  if 8 ≤ held then s.fatal x.core false causeToken 3 (faultInfo unitTransfer 5 false 0) 5 0 (BitVec.ofNat 64 x.stamp) 0
  else s.modCore c (·.modQ (·.pushToken 5 (s.ttOf c + 2)))

/-- The copy is changed. -/
def State.modCopy (s : State) (id : Nat) (f : Copy → Copy) : State :=
  match s.copies.find id with
  | none => s
  | some k => { s with copies := s.copies.put id (f k) }

/-- Lines of 256 bytes that pieces touch. -/
def linesOf (offs : List Int) : List Nat :=
  (offs.flatMap (fun (o : Int) => [o.toNat / 256, (o.toNat + 31) / 256])).eraseDups

/-- The bytes of a piece as they stand, and whether they hold poison. -/
def State.pieceBytes (s : State) (k : Copy) (q : Nat) : Payload :=
  let o := (k.srcOff q).toNat
  match k.src with
  | none => (s.core k.core).pad.payload o 32
  | some x => s.spanPayload x o 32

/-- Unit `u` of a copy is read now, and goes on its way. -/
def State.readUnit (s : State) (id : Nat) (k : Copy) (u : Nat) : State :=
  let ps := (k.unit u).map (s.pieceBytes k)
  let n := 32 * ps.length
  let k := { k with reading := k.reading.erase u }
  let s := { s with copies := s.copies.put id k }
  if ps.any (fun p => !p.poison.isEmpty) then s.failCopy id 0x34
  else
    let b := if k.srcHbm then (s, false) else s.carry k.engine n 384
    let d := if k.src.isSome && !k.srcHbm then b.1.carry (64 + k.srcDie u) 1 8 else (b.1, false)
    if b.2 || d.2 then d.1.failCopy id 0x32
    else
      let s := (d.1.modCore k.core (·.charged 4 1)).modCopy id (fun k => { k with
        units := k.units.put u ⟨ps.flatMap (·.bytes), []⟩ })
      if k.dstHbm then s
      else s.due (s.clock + k.lead u) rankUnit k.node id (.copyUnitWrite u)

/-- Line claims of a unit on a core's scratchpad at a station. -/
def State.claimLines (s : State) (c rank : Nat) (lines : List Nat) (act : Act) : State :=
  lines.foldl (fun s l => s.claimBlock c 0 rank (256 * l) act) s

/-! ### Window slots given to commands (R205) -/

/-- Slots of the timeline entries of a pseudo-channel that are still to come, with the cycle of their window. -/
def PseudoChannel.coming (q : PseudoChannel) : List (Nat × Nat × Nat) :=
  q.line.flatMap (fun e =>
    if (e.extractLsb' 28 4) = 5#4 then
      let w := q.base + (e.extractLsb' 32 32).toNat
      (List.range ((e.extractLsb' 16 8).toNat + 1)).map (fun n => ((e.extractLsb' 0 16).toNat, w, w + 4 * n))
    else [])

/-- A slot placed by its cycle, then its pseudo-channel. -/
def insertSlot (x : Nat × Nat × Nat) : List (Nat × Nat × Nat) → List (Nat × Nat × Nat)
  | [] => [x]
  | y :: r => if x.1 < y.1 ∨ (x.1 = y.1 ∧ x.2.1 < y.2.1) then x :: y :: r else y :: insertSlot x r

/-- Slots with a command id that a timetable's timelines still hold: cycle, pseudo-channel, window. -/
def State.slotsFor (s : State) (n xid : Nat) : List (Nat × Nat × Nat) :=
  (s.pcs.flatMap (fun p => if p.2.owner = some n && p.2.running then
      (p.2.coming.filter (fun x => x.1 = xid)).map (fun x => (x.2.2, p.1, x.2.1)) else [])).foldl
    (fun l x => insertSlot x l) []

/-- Units of a command that a slot already serves, on the read or the write side. -/
def Copy.booked (k : Copy) (write : Bool) : Nat := (k.slots.filter (fun b => b.write = write)).length

/-- A slot is offered to a command: it takes the next unit of the side whose address lies in the slot's
pseudo-channel, or of its one HBM side. A write needs its read lead (Table 11.5). -/
def Copy.offer (k : Copy) (cycle pc window : Nat) : Copy :=
  let r := k.booked false
  let w := k.booked true
  let pcAt := fun (sp : Option Span) (off : Int) => match sp with
    | some x => pcOf (spanAt x off)
    | none => 1024
  let readOk := k.srcHbm && r < k.total &&
    (!k.dstHbm || pcAt k.src (k.srcOff (k.unitPieces * r)) = pc || k.total ≤ w)
  let lead := k.lead w
  let readAt := ((k.slots.find? (fun b => b.unit = w && !b.write)).map (·.cycle))
  let leadOk : Bool := if k.srcHbm then (match readAt with
      | some t => decide (t + lead ≤ cycle)
      | none => false)
    else decide (k.due + lead ≤ cycle)
  let writeOk := k.dstHbm && w < k.total && leadOk
  if window < k.due then k
  else if readOk then { k with slots := k.slots ++ [⟨pc, cycle, r, false⟩] }
  else if writeOk then { k with slots := k.slots ++ [⟨pc, cycle, w, true⟩] }
  else k

/-- Commands of a timetable with an HBM side whose stamp has come, oldest stamp first, entry order among equals. -/
def State.liveCommands (s : State) (n : Nat) : List (Nat × Copy) :=
  let l := s.copies.filter (fun p => p.2.node = some n && (p.2.srcHbm || p.2.dstHbm) && p.2.due ≤ s.clock)
  l.foldl (fun acc p => acc.takeWhile (fun q => q.2.due ≤ p.2.due) ++ p :: acc.dropWhile (fun q => q.2.due ≤ p.2.due)) []

/-- Whether a slot has been given. -/
def State.taken (s : State) (pc cycle : Nat) : Bool :=
  s.copies.any (fun p => p.2.slots.any (fun b => b.pc = pc && b.cycle = cycle))

/-- Every live command is given the coming slots that bind it: the oldest command first. -/
def State.bookSlots (s : State) (n : Nat) : State :=
  (s.liveCommands n).foldl (fun s p =>
    let free := (s.slotsFor n (shapeXid p.2.desc)).filter (fun x => !s.taken x.2.1 x.1)
    let k := free.foldl (fun (k : Copy) x => k.offer x.1 x.2.1 x.2.2) p.2
    let new := k.slots.drop p.2.slots.length
    let s := { s with copies := s.copies.put p.1 k }
    if k.srcHbm then s
    else new.foldl (fun s b => s.due (b.cycle - k.lead b.unit) rankUnit k.node p.1 (.copyUnitRead b.unit)) s) s

/-- COPY_UNIT_READ. At its cycle a unit asks for its lines; it is read in the cycle in which the last one is
granted, a depot unit at once. At the stamp of a command with an HBM side, slots are given; a command with a
host-tier side begins after a latency the spec does not give (log 3). -/
def execCopyUnitRead (u : Nat) (s : State) : Host.Outcome State Fault Refusal :=
  let id := s.cur
  .next (match s.copies.find id with
    | none => s
    | some k =>
      if !s.transfersRun k.node then s
      else if k.onHost then
        let f := s.freeCycles
        f.2.laterAt f.1 rankRead id .hostTierCopyWrite
      else if k.reading.contains u then s.readUnit id k u
      else
        let begun := k.dstHbm && !k.srcHbm && k.slots.any (fun b => b.unit = u && b.write && b.cycle - k.lead u ≤ s.clock)
        if (k.srcHbm || k.dstHbm) && !begun then
          match k.node with
          | some n => s.bookSlots n
          | none => s
        else
          let offs := (k.unit u).map k.srcOff
          let lines := linesOf offs
          let next := if k.dstHbm || k.total ≤ u + 1 then s
            else s.due (s.clock + 1) rankUnit k.node id (.copyUnitRead (u + 1))
          let s := next.modCopy id (fun k => { k with
            reading := u :: k.reading, readLines := k.readLines.put u lines.length })
          if k.src.isSome then s.due s.clock rankRead k.node id (.copyUnitRead u)
          else s.claimLines k.core 10 lines (.copyRead id u))

/-- A copy has written its last unit: its token enters and it retires (R56, R116, R120). -/
def State.retireCopy (s : State) (id : Nat) (k : Copy) : State :=
  let s := s.dropCopy id
  let s := match k.token with
    | some c => s.copyToken k c
    | none => s
  match k.node with
  | some n => s.checkNode n
  | none => s

/-- Whether a copy meets the slots of a ring with another swizzle, at its first write there (R197). -/
def State.swizzleFault (s : State) (k : Copy) (u : Nat) : Bool × List Nat :=
  if k.dst.isSome then (false, [])
  else
    let offs := (k.unit u).map (fun q => (k.dstOff q).toNat)
    let touched := (List.range 16).filter (fun r =>
      let g := (s.core k.dstCore).getRing r
      let lo := g.base.toNat
      let hi := lo + g.count.toNat * g.slot.toNat * 256
      !k.checked.contains r && offs.any (fun o => o < hi && lo < o + 32))
    (touched.any (fun r => ((s.core k.dstCore).getRing r).swz ≠ shapeSwz k.desc), touched)

/-- The bytes of a piece written. -/
def State.writePiece (s : State) (k : Copy) (q : Nat) (bytes : List Byte) : State :=
  let o := (k.dstOff q).toNat
  match k.dst with
  | none => s.modCore k.dstCore (·.modPad (·.write o ⟨bytes, []⟩))
  | some x => s.spanWrite x o ⟨bytes, []⟩

/-- Pieces of a unit that it still writes, with their places in the unit: rows of a gather or scatter stand in the order of
i, so that a unit that a bank delay makes late leaves the bytes of later ones as they are (R117). -/
def Copy.piecesLeft (k : Copy) (u : Nat) : List (Nat × Nat) :=
  let later := if k.form = 0 then [] else k.written.filter (u < ·)
  ((k.unit u).zipIdx).filter (fun x => later.all (fun v => (k.unit v).all (fun q => k.dstOff q ≠ k.dstOff x.1)))

/-- Unit `u` of a copy performs at its destination, its bytes in walk order. -/
def State.writeUnit (s : State) (id : Nat) (k : Copy) (u : Nat) : State :=
  match k.units.find u with
  | none => s
  | some p =>
    let sw := s.swizzleFault k u
    if sw.1 then s.failCopy id 0x33
    else
      let d := if k.dst.isSome && !k.dstHbm then s.carry (64 + k.dstDie u) 1 8 else (s, false)
      if d.2 then d.1.failCopy id 0x32
      else
        let s := (k.piecesLeft u).foldl (fun s q => s.writePiece k q.1 ((p.bytes.drop (32 * q.2)).take 32)) d.1
        let k := { k with
          written := u :: k.written, units := k.units.drop u, writing := k.writing.erase u,
          checked := sw.2 ++ k.checked }
        let s := { s with copies := s.copies.put id k }
        if k.written.length = k.total then s.retireCopy id k else s

/-- COPY_UNIT_WRITE: at its cycle a unit for a scratchpad asks for its lines at S0; it performs in the cycle in
which the last one is granted, elsewhere at once. -/
def execCopyUnitWrite (u : Nat) (s : State) : Host.Outcome State Fault Refusal :=
  let id := s.cur
  .next (match s.copies.find id with
    | none => s
    | some k =>
      if !s.transfersRun k.node then s
      else if k.writing.contains u then s.writeUnit id k u
      else
        let lines := linesOf ((k.unit u).map k.dstOff)
        let s := s.modCopy id (fun k => { k with
          writing := u :: k.writing, writeLines := k.writeLines.put u lines.length })
        if k.dst.isSome then s.due s.clock rankWrite k.node id (.copyUnitWrite u)
        else s.claimLines k.dstCore 0 lines (.copyWrite id u))

/-- A unit of a copy with a host-tier side is read from its array, and may be written after a time that the spec does not give
(R202, R218, R224, log 3). -/
def State.readHostUnit (s : State) (id : Nat) (k : Copy) (u : Nat) : State :=
  let ps := (k.unit u).map (s.pieceBytes k)
  if ps.any (fun p => !p.poison.isEmpty) then (s.failCopy id 0x34).checkFence k.core
  else
    let f := (s.modCopy id (fun k => { k with units := k.units.put u ⟨ps.flatMap (·.bytes), []⟩ })).freeCycles
    f.2.laterAt f.1 rankCopy id .hostTierCopyWrite

/-- A unit of such a copy is written; the last one is its final write (R202), the next one is read from the next cycle on. -/
def State.writeHostUnit (s : State) (id : Nat) (k : Copy) (u : Nat) (d : Payload) : State :=
  let sw := s.swizzleFault k u
  if sw.1 then (s.failCopy id 0x33).checkFence k.core
  else
    let s := ((k.unit u).zipIdx).foldl (fun s q => s.writePiece k q.1 ((d.bytes.drop (32 * q.2)).take 32)) s
    let k := { k with written := u :: k.written, units := k.units.drop u, checked := sw.2 ++ k.checked }
    let s := ({ s with copies := s.copies.put id k }).modCore k.core (·.charged 4 1)
    if k.written.length = k.total then (s.retireCopy id k).checkFence k.core
    else s.laterAt 1 rankRead id .hostTierCopyWrite

/-- The unit of a copy with a host-tier side whose turn it is: read if it has no data yet, else written. -/
def State.hostUnit (s : State) (id : Nat) (k : Copy) : State :=
  let u := k.written.length
  match k.units.find u with
  | none => s.readHostUnit id k u
  | some d => s.writeHostUnit id k u d

/-- A side of such a copy has its turn at its memory; a scratchpad has it at once. -/
def State.sideTurn (s : State) (id : Nat) (sp : Option Span) (off : Int) : Bool × State :=
  match sp with
  | none => (true, s)
  | some x => s.untimedTurn (copyAgent, id) (spanAt x off)

/-- HOST_TIER_COPY_WRITE: a copy with a host-tier side goes on with its next unit, in walk order: each unit is read and then
written, untimed, at an HBM side in an open window and at a depot in a free cycle (R198, R202, R207, R224, R319). -/
def execHostTierCopyWrite (s : State) : Host.Outcome State Fault Refusal :=
  let id := s.cur
  .next (match s.copies.find id with
    | none => s
    | some k =>
      if !s.transfersRun k.node then s
      else
        let u := k.written.length
        let q := k.unitPieces * u
        let data := (k.units.find u).isSome
        let sp := if data then k.dst else k.src
        let off := if data then k.dstOff q else k.srcOff q
        let t := s.sideTurn id sp off
        if t.1 then t.2.hostUnit id k
        else if sp.any (fun x => tierOf (spanAt x off) = some .hbm) then t.2
        else t.2.laterAt 1 (if data then rankCopy else rankRead) id .hostTierCopyWrite)

/-- WINDOW_SLOT for a copy: RD of the next unit of the source, or WR of the next one of the destination (R205). -/
def State.copySlot (s : State) (pc id : Nat) : State :=
  match s.copies.find id with
  | none => s
  | some k =>
    match k.slots.find? (fun b => b.pc = pc && b.cycle = s.clock) with
    | none => s
    | some b =>
      let s := s.modCore k.core (·.charged 5 1)
      let c := s.carry k.engine 64 384
      if c.2 then c.1.failCopy id 0x32
      else if b.write then
        if (k.units.find b.unit).isNone then c.1.failCopy id 0x30
        else
          let s := c.1.modCopy id (fun k => { k with writing := b.unit :: k.writing })
          s.due s.clock rankWrite k.node id (.copyUnitWrite b.unit)
      else
        let s := c.1.modCopy id (fun k => { k with reading := b.unit :: k.reading })
        s.due s.clock rankRead k.node id (.copyUnitRead b.unit)

end Sys2Proof.Machine
end

