-- ==== Sys2Proof/Machine/Lease.lean ====
section
/-! DEFINITION. Leases: the lease word, the die's queue, grants, warm-up, boosts, expiry of the lease wait and
eviction (06, R122 to R124; 14, R242; 15, R255 to R257). -/

namespace Sys2Proof.Machine

/-- A die changed. -/
def State.modDie (s : State) (d : Nat) (f : Die → Die) : State := { s with dies := vecMod s.dies d f }
def State.getDie (s : State) (d : Nat) : Die := vecGet s.dies Die.reset d

/-- Fields of the lease word, with the ranges of R122 and R257. -/
def leaseKind (v : DWord) : BitVec 3 := v.extractLsb' 0 3
def leaseSlot (v : DWord) : Nat := (v.extractLsb' 4 3).toNat
def leaseBoost (v : DWord) : Nat := (v.extractLsb' 8 4).toNat
def leaseWordOk (v : DWord) : Bool :=
  (leaseKind v).toNat ≤ 4 && v.getLsbD 3 = false && v.getLsbD 7 = false && v.extractLsb' 12 52 = 0#52 &&
    (if leaseKind v = 4#3 then 1 ≤ leaseBoost v && leaseBoost v ≤ 7 else leaseBoost v = 0)

/-- A lease slot of a core. -/
def Core.leaseAt (k : Core) (n : Nat) : Option Lease := vecGet k.lease none n
def Core.setLease (k : Core) (n : Nat) (l : Option Lease) : Core := { k with lease := vecMod k.lease n (fun _ => l) }

/-- Instances of a kind on a die, and how many may be leased (Table 15.4). -/
def instances (kind : Nat) : Nat :=
  match kind with
  | 0 => 16
  | 1 => 16
  | 2 => 32
  | 3 => 8
  | _ => 0
def Die.cap (d : Die) (kind : Nat) : Nat :=
  match kind with
  | 0 => d.capIl
  | 1 => d.capSrt
  | 2 => d.capInf
  | 3 => d.capSh
  | _ => d.capBoost

/-- Leases of a kind on a die; boost units drawn. -/
def Die.leased (d : Die) (kind : Nat) : Nat :=
  (d.granted.filter (fun g => g.kind.toNat = kind)).foldl (fun n g => n + (if kind = 4 then g.boost else 1)) 0

/-- Instances of a kind that no lease holds. -/
def Die.freeInst (d : Die) (kind : Nat) : List Nat :=
  (List.range (instances kind)).filter (fun i => !d.granted.any (fun g => g.kind.toNat = kind && g.inst = i))

/-- Pairs of a timetable's rectangle on a die. -/
def Node.onDie (nd : Node) (d : Nat) : Bool :=
  let w := nd.words.getD 8 0
  let x := 4 * (d % 4)
  let y := 4 * (d / 4)
  nd.ox < x + 4 && x < nd.ox + bits w 4 0 && nd.oy < y + 4 && y < nd.oy + bits w 8 5

/-- Instances of a kind free on a set of dies, the bits of its number. -/
def State.freeOn (s : State) (dies kind : Nat) : Nat :=
  (List.range 8).foldl (fun n d => if dies.testBit d then n + ((s.getDie d).freeInst kind).length else n) 0

/-- The dies under a timetable's rectangle, as such a set. -/
def Node.dieSet (nd : Node) : Nat := (List.range 8).foldl (fun m d => if nd.onDie d then m + 2 ^ d else m) 0

/-- Instances of a kind that the timetables but one still hold reserved, with the dies on which each may take them. -/
def State.reservations (s : State) (own : Option Nat) (kind : Nat) : List (Nat × Nat) :=
  (s.nodes.filter (fun p => some p.1 ≠ own && vecGet p.2.reserved 0 kind ≠ 0)).map
    (fun p => (p.2.dieSet, vecGet p.2.reserved 0 kind))

/-- Instances that the reservations within a set of dies take. -/
def reservedIn (l : List (Nat × Nat)) (dies : Nat) : Nat :=
  l.foldl (fun n r => if r.1 &&& dies = r.1 then n + r.2 else n) 0

/-- Whether a grant on a die leaves all the other timetables' reservations whole together: those of placed ones, and of a kernel
that waits for its victim (R237, R240). They can all be served just when no set of dies has fewer instances free than are
reserved within it. -/
def State.reservationsHold (s : State) (own : Option Nat) (d kind : Nat) : Bool :=
  let l := s.reservations own kind
  l.isEmpty || (List.range 256).all (fun m => !m.testBit d || reservedIn l m = 0 || reservedIn l m < s.freeOn m kind)

/-- Whether a waiting lease can be granted now (R255, R257). -/
def State.canGrant (s : State) (d : Nat) (w : LeaseWait) : Bool :=
  let die := s.getDie d
  let kind := w.kind.toNat
  if kind = 4 then die.leased 4 + w.boost ≤ die.capBoost
  else die.leased kind < die.cap kind && !(die.freeInst kind).isEmpty &&
    s.reservationsHold (s.core w.core).place.node d kind

/-- A lease waits behind those of its priority and above (R123). -/
def insertWait (w : LeaseWait) : List LeaseWait → List LeaseWait
  | [] => [w]
  | v :: r => if v.prio < w.prio then w :: v :: r else v :: insertWait w r

/-- First of its kind in the die's queue. -/
def firstOfKind (l : List LeaseWait) (w : LeaseWait) : Bool :=
  match l.find? (fun v => v.kind = w.kind) with
  | some v => v = w
  | none => false

/-- The first waiting lease of each kind that can be granted is granted in the next cycle: the spec gives a grant that has
become possible no latency (DESIGN CHOICE, log 140). -/
def State.tryGrants (s : State) (d : Nat) : State :=
  let q := (s.getDie d).waits
  (q.filter (fun w => firstOfKind q w && s.canGrant d w)).foldl (fun s w =>
    if s.agenda.any (fun e => e.who = w.core && e.instr = .leaseGrant) then s
    else s.laterAt 1 rankVisible w.core .leaseGrant) s

/-- The lease-wait limit of the point at which a core stands (R242). -/
def State.waitLimit (s : State) (c : Nat) : Nat :=
  match s.nodeOf c, (s.core c).place.point with
  | some nd, some i => (nd.points[i]?.map (·.wait)).getD (2 ^ 40)
  | _, _ => 2 ^ 40

/-- Priority of a core's timetable. -/
def State.prioOf (s : State) (c : Nat) : Nat :=
  match s.nodeOf c with
  | some nd => bits (nd.words.getD 0 0) 6 4
  | none => 0

/-- A lease joins the queue of its die (R123). -/
def State.joinQueue (s : State) (c slot : Nat) (kind : BitVec 3) (boost : Nat) : State :=
  let d := coreDie c
  let w : LeaseWait := ⟨c, slot, kind, boost, s.prioOf c, s.clock⟩
  ((s.modDie d (fun q => { q with waits := insertWait w q.waits })).laterAt (s.waitLimit c) rankWalker c
    .leaseWaitExpiry).tryGrants d

def execLease (a : BitVec 5) (s : State) : Host.Outcome State Fault Refusal :=
  let v := s.readG a
  .next (s.notOnBox (s.freeOnly (
    if !leaseWordOk v || (s.me.leaseAt (leaseSlot v)).isSome then s.faultHere causeOperand
    else (s.retireHold .lease id).joinQueue s.cur (leaseSlot v) (leaseKind v) (leaseBoost v))))

/-- Warm-up (Table 15.1). -/
def warmup (kind : Nat) : Nat :=
  match kind with
  | 0 => 3000
  | 1 => 1500
  | 2 => 800
  | 3 => 5000
  | _ => 0

/-- A granted lease: the lowest free instance of its kind (log 18). -/
def State.grant (s : State) (d : Nat) (w : LeaseWait) : State :=
  let kind := w.kind.toNat
  let inst := if kind = 4 then 0 else ((s.getDie d).freeInst kind).headD 0
  let s := s.modDie d (fun q => { q with
    waits := q.waits.erase w, granted := ⟨w.kind, inst, w.boost, w.core, w.slot, false⟩ :: q.granted })
  let s := s.modNodeOf w.core (fun nd => { nd with reserved := vecMod nd.reserved kind (· - 1) })
  let no := s.fresh
  let s := { s with fresh := no + 1 }
  let s := s.modCore w.core (fun k =>
    { (k.setLease w.slot (some ⟨w.kind, w.boost, inst, kind = 4, false, false, false, no⟩)) with seqs := k.seqs.drop w.slot })
  if kind = 4 then s.laterAt (s.getDie d).blen.toNat rankVisible w.core (.boostExpiry w.slot)
  else s.laterAt (warmup kind) rankVisible w.core (.warmupEnd w.slot)

/-- LEASE_GRANT: HELD and KIND are set, warm-up begins, and the core goes on (R122, R123, R255). -/
def execLeaseGrant (s : State) : Host.Outcome State Fault Refusal :=
  let c := s.cur
  let d := coreDie c
  let tt := s.tt
  .next (match (s.getDie d).waits.find? (fun w => w.core = c && firstOfKind (s.getDie d).waits w && s.canGrant d w) with
    | none => s
    | some w =>
      let s := s.grant d w
      let s := if s.me.drv.hold = some .lease then s.unhold c tt else s
      let s := s.tryGrants d
      match s.me.place.node with
      | some n =>
        match s.nodes.find n with
        | some nd => if nd.state = .restoring then s.due s.clock rankWalker none n .contextRestoreComplete else s
        | none => s
      | none => s)

/-- WARMUP_END: READY (R122, R256). -/
def execWarmupEnd (slot : Nat) (s : State) : Host.Outcome State Fault Refusal :=
  .next (s.modMe (fun k => match k.leaseAt slot with
    | some l => if l.kind = 4#3 then k else k.setLease slot (some { l with ready := true })
    | none => k))

/-- BOOST_EXPIRY: the slot is cleared at the holder's next POINT (R257). -/
def execBoostExpiry (slot : Nat) (s : State) : Host.Outcome State Fault Refusal :=
  .next (s.modMe (fun k => match k.leaseAt slot with
    | some l => if l.kind = 4#3 then k.setLease slot (some { l with expired := true }) else k
    | none => k))

/-- A lease slot is cleared: the engine or allowance goes back, its internal state is lost, timers of the slot
end (R124, R257, R289). -/
def State.dropLease (s : State) (c slot : Nat) : State :=
  let d := coreDie c
  let s := { s with agenda := s.agenda.filter (fun e =>
    !(e.who = c && (e.instr = Instr.warmupEnd slot || e.instr = Instr.boostExpiry slot))) }
  let s := s.modDie d (fun q => { q with granted := q.granted.filter (fun g => !(g.core = c && g.slot = slot)) })
  let s := s.modCore c (fun k => { (k.setLease slot none) with seqs := k.seqs.drop slot })
  (s.tryGrants d).laterAt 1 rankWalker 0 .placementAttempt

def execRelease (a : BitVec 5) (s : State) : Host.Outcome State Fault Refusal :=
  let v := s.readG a
  .next (s.notOnBox (s.freeOnly (
    if !leaseWordOk v then s.faultHere causeOperand
    else
      let t := s.retire 1 id
      if (s.me.leaseAt (leaseSlot v)).isSome then t.dropLease s.cur (leaseSlot v) else t)))

/-- LQUERY's result (R124). -/
def leaseStatus : Option Lease → DWord
  | none => 0
  | some l => BitVec.ofNat 64 (1 + (if l.ready then 2 else 0) + 16 * l.kind.toNat + 256 * l.inst)

def execLquery (a e : BitVec 5) (s : State) : Host.Outcome State Fault Refusal :=
  let v := s.readG a
  .next (s.notOnBox (s.freeOnly (
    if leaseWordOk v then s.retireG 1 e (leaseStatus (s.me.leaseAt (leaseSlot v))) else s.faultHere causeOperand)))

/-- Units of the save pool that are taken: first unit and number. -/
def State.poolTaken (s : State) : List (Nat × Nat) := s.saveUsed.flatMap (fun a => a.starts.map (·, a.units))

/-- The lowest start at which an area of some units fits in a pool of some size, clear of those taken (the choice is the
model's, log 124). -/
def firstFit (size units : Nat) (taken : List (Nat × Nat)) : Option Nat :=
  ((0 :: taken.map (fun t => t.1 + t.2)).filter (fun a =>
    a + units ≤ size && taken.all (fun t => t.1 + t.2 ≤ a || a + units ≤ t.1))).min?

/-- Areas of some units for a number of pairs. -/
def fitAreas (size units : Nat) : Nat → List (Nat × Nat) → Option (List Nat)
  | 0, _ => some []
  | n + 1, taken =>
    match firstFit size units taken with
    | none => none
    | some a => (fitAreas size units n (taken ++ [(a, units)])).map (a :: ·)

/-- Save areas for a timetable, one for each pair of its region: those it has, or new ones (R249). -/
def State.areasFor (s : State) (n : Nat) (nd : Node) : Option SaveArea :=
  match s.saveUsed.find? (fun a => a.node = n) with
  | some a => some a
  | none =>
    let w := nd.words.getD 8 0
    (fitAreas s.host.svsize.toNat nd.saveUnits (bits w 4 0 * bits w 8 5) s.poolTaken).map (fun l => ⟨n, l, nd.saveUnits⟩)

/-- Whether the save pool has room for a timetable (R249). -/
def State.poolRoom (s : State) (n : Nat) (nd : Node) : Bool := (s.areasFor n nd).isSome

/-- The save areas of a timetable are allocated, if the pool has room; they are freed at its restore or its end. -/
def State.takeAreas (s : State) (n : Nat) (nd : Node) : State :=
  match s.areasFor n nd with
  | some a => { s with saveUsed := a :: s.saveUsed.filter (fun b => b.node ≠ n) }
  | none => s
def State.freeAreas (s : State) (n : Nat) : State := { s with saveUsed := s.saveUsed.filter (fun b => b.node ≠ n) }

/-- Address of the instruction a core in free code goes on with: the one its driver is held on, or the next
(R242). -/
def Driver.resumePc (d : Driver) : Half :=
  match d.hold with
  | none => d.pc
  | some (.descriptor _) => d.pc
  | some _ => d.pc - 4

/-- A core leaves the wait of its driver: a lease, a TLBINV, an arrival that it has made. -/
def State.leaveWait (s : State) (c : Nat) : State :=
  let s := s.modDie (coreDie c) (fun d => { d with waits := d.waits.filter (fun w => w.core ≠ c) })
  let s := { s with invs := s.invs.filter (fun q => q.1 ≠ c) }
  s.modCore c (·.modPlace (fun p => { p with arrived := false }))

/-- An AMO with a mask has sent its access and waits for the end of its fence. -/
def Driver.amoFence (d : Driver) : Bool :=
  match d.hold, decode .driver (BitVec.ofNat 32 (d.code.readLE (d.pc - 4).toNat 4)) with
  | some (.fence _), .ok (.amo ..) => true
  | _, _ => false

/-- A core is trapped for a lease-wait pre-emption, before the instruction it goes on with, or goes on to its POINT (R242,
R249, R269, R272). Behind an AMO that has sent its access that is the next instruction, once the fence of the AMO has ended. -/
def State.takeForLease (s : State) (c : Nat) : State :=
  let k := s.core c
  if k.timed then s
  else
    let pc := k.drv.resumePc
    let s := s.leaveWait c
    if k.drv.amoFence then
      s.modCore c (·.modDrv (fun d => { d with late := d.late ++ [⟨d.pc, 0, s.clock, true⟩] }))
    else s.deliver c causeLeaseWait pc pc (faultInfo unitDriver 0 false pc.toNat) 0

/-- A lease has waited past its point's limit: the timetable is pre-empted at this point instance, its arrivals on every package
withdrawn and the cycle of its traps told to the others (R243), or without room in the save pool it ends LOST (R242, R249). -/
def State.leaseWaitOver (s : State) (n : Nat) : State :=
  match s.nodes.find n with
  | none => s
  | some nd =>
    if nd.stopping.isSome || nd.leaseWait then s
    else if s.poolRoom n nd then
      let s := ((s.takeAreas n nd).notify nd 7 n (tellPointed + 4 * s.clock)).modNode n (fun nd => { nd with
        leaseWait := true, arrived := 0, proposals := [], cut := max nd.cut (s.clock + 1) })
      (s.coresOf n).foldl (fun s c => s.takeForLease c) s
    else s.fatalNode n
      { verdict := 4, cause := causeLeaseWait, info := faultInfo unitWalker 0 false 0, cyc := s.clock, site := 0,
        stream := 5, core := 0, aux := 0 }

/-- LEASE_WAIT_EXPIRY: acts on the LEASE that has waited its whole limit, on every package of the timetable. A lease that a
restore waits for re-queues its node (R242, R244). -/
def execLeaseWaitExpiry (s : State) : Host.Outcome State Fault Refusal :=
  let c := s.cur
  let d := coreDie c
  .next (match (s.getDie d).waits.find? (fun w => w.core = c && w.since + s.waitLimit c ≤ s.clock) with
    | none => s
    | some w =>
      let s := s.modDie d (fun q => { q with waits := q.waits.erase w })
      match s.me.place.node with
      | none => s
      | some n =>
        match s.nodes.find n with
        | none => s
        | some nd =>
          if nd.state = .restoring then (s.modNode n (fun nd => { nd with leaseWait := true })).due s.clock rankWalker none n
            .contextRestoreComplete
          else (s.notify nd 7 n tellLease).leaseWaitOver n)

/-- Eviction marks: the most recent grants beyond the cap (R255). -/
def markExcess (cap kind : Nat) (gs : List Granted) : List Granted :=
  let total := gs.foldl (fun n g => if g.kind.toNat = kind && !g.marked then n + (if kind = 4 then g.boost else 1) else n) 0
  (gs.foldl (fun (p : List Granted × Nat) g =>
    if g.kind.toNat = kind && !g.marked && cap < p.2 then
      (p.1 ++ [{ g with marked := true }], p.2 - (if kind = 4 then g.boost else 1))
    else (p.1 ++ [g], p.2)) ([], total)).1

/-- SBCAP_WRITE: caps clamped to their maxima, excess leases marked (R255, Table 15.4). -/
def execSbcapWrite (v : DWord) (s : State) : Host.Outcome State Fault Refusal :=
  let d := s.cur
  let f := fun (lo n mx : Nat) => min mx (v.extractLsb' lo n).toNat
  .next ((s.modDie d (fun q =>
    let q := { q with
      capIl := f 0 5 16, capSrt := f 8 5 16, capInf := f 16 6 32, capSh := f 24 4 8, capBoost := f 32 4 15 }
    { q with granted := (List.range 5).foldl (fun gs kind => markExcess (q.cap kind) kind gs) q.granted })).tryGrants d)

/-- Whether a lease of a core is marked for eviction. -/
def State.marked (s : State) (c slot : Nat) : Bool :=
  (s.getDie (coreDie c)).granted.any (fun g => g.core = c && g.slot = slot && g.marked)

/-- At POINT: marked leases are evicted, expired boosts cleared; whether REVOKED is set (R128, R246, R257). -/
def State.deliverEvictions (s : State) (c : Nat) : State × Bool :=
  (List.range 8).foldl (fun (p : State × Bool) n =>
    match (p.1.core c).leaseAt n with
    | none => p
    | some l =>
      if l.evict || p.1.marked c n then (p.1.dropLease c n, true)
      else if l.expired then (p.1.dropLease c n, p.2)
      else p) (s, false)

/-- Boost of a timetable: the smallest held by any of its cores, 0 if any core holds none (R257). -/
def State.boostOf (s : State) (n : Nat) : Nat :=
  let per := (s.coresOf n).map (fun c =>
    ((s.core c).lease.toList.filterMap id).filter (fun l => l.kind = 4#3 && !l.expired) |>.map (·.boost))
  if per.isEmpty || per.any (·.isEmpty) then 0 else (per.flatMap id).foldl min 7

/-- The boosts of a node's cores go back to the pools of their dies at once, without credit (R243, R257). -/
def State.returnBoosts (s : State) (n : Nat) : State :=
  let cs := s.coresOf n
  let ds := (List.range 8).filter (fun d => (s.getDie d).granted.any (fun g => g.kind = 4#3 && cs.contains g.core))
  ds.foldl (fun s d => (s.modDie d (fun q => { q with
    granted := q.granted.filter (fun g => !(g.kind = 4#3 && cs.contains g.core)) })).tryGrants d) s

/-- A command whose engine has gone off ends in the next cycle: nothing more is written, and the spec gives its
status no value (log 3). -/
def State.tripCommand (s : State) (c id : Nat) : State :=
  let f := s.freeValue
  (f.2.modCore c (fun k => match k.leased.find id with
    | none => k
    | some r => { k.modPad (fun p => { p with claims := p.claims.filter (fun q => match q.act with
        | .leaseRead i _ _ => i ≠ id
        | .leaseWrite i _ _ => i ≠ id
        | _ => true) }) with leased := k.leased.put id { r with
        status := some f.1, seqOut := none, depotOut := [], finish := some (s.ttOf c + 1) } })).timedAt c 1
    rankVisible (.leasedCommandComplete id)

/-- THERMAL_TRIP of a die: every leased engine goes off at once; LEASESET changes at the holder's next point (R122). A holder
whose sequence has unsaved progress ends its timetable LOST; the others see REVOKED at their next point (R258). -/
def execThermalTrip (s : State) : Host.Outcome State Fault Refusal :=
  let d := s.cur
  let gs := (s.getDie d).granted.filter (fun g => g.kind.toNat < 4)
  .next (gs.foldl (fun s g =>
    let k := s.core g.core
    let dirty := (k.seqs.find g.slot).any (·.dirty)
    let s := (k.leased.filter (fun p => p.2.lease = g.slot)).foldl (fun s p => s.tripCommand g.core p.1) s
    let s := s.modCore g.core (fun k =>
      let k := { k with seqs := k.seqs.drop g.slot }
      match k.leaseAt g.slot with
      | some l => k.setLease g.slot (some { l with off := true, evict := true })
      | none => k)
    if dirty then s.fatal g.core false 0x67 4 (faultInfo unitLeased g.inst false 0) 5 0 0 0 else s)
    { s with agenda := s.agenda.filter (fun e => !(gs.any (fun g => e.who = g.core && e.instr = Instr.warmupEnd g.slot))) })

end Sys2Proof.Machine
end

