-- ==== Sys2Proof/Machine/Leased.lean ====
section
/-! DEFINITION. Commands to leased engines: checks at issue, start, completion, and the shunter's window slots
(06, R125; 11, R210; 18, R287 to R298; 19, R300). -/

namespace Sys2Proof.Machine

/-! ### Issue (R107, R125, R287) -/

/-- Sub code and status register of a leased-engine command (Table 6.10). -/
def leasedOp : Instr → Option (Nat × BitVec 5)
  | .ilmask _ _ e => some (0x00, e)
  | .ilsamp _ _ e => some (0x01, e)
  | .iladv _ _ e => some (0x02, e)
  | .ilload _ _ e => some (0x03, e)
  | .ilsave _ _ e => some (0x04, e)
  | .srtopk _ _ e => some (0x08, e)
  | .srsort _ _ e => some (0x09, e)
  | .infblk _ _ e => some (0x10, e)
  | .shgath _ _ e => some (0x18, e)
  | .shscat _ _ e => some (0x19, e)
  | .shpack _ _ e => some (0x1A, e)
  | _ => none

/-- Lease kind of a sub code. -/
def leasedKind (op : Nat) : Nat := op / 8

/-- Range of g[b] (Table 6.10). -/
def leasedOperandOk (op : Nat) (v : DWord) : Bool :=
  let n := v.toNat
  match op with
  | 0x00 => n % 64 = 0 && n < padEnd
  | 0x01 => n / 2 ^ 32 % 2 ^ 31 = 0
  | 0x02 => n < 2 ^ 18
  | 0x03 => n < 65536
  | 0x04 => n < 65536
  | 0x08 => 1 ≤ n && n ≤ 262144
  | 0x09 => 1 ≤ n && n ≤ 65536
  | 0x10 => 1 ≤ n && n ≤ 2 ^ 31
  | _ => 1 ≤ n && n ≤ 65535

/-- READY bits of the lease slots whose engine is powered: a command to one that a thermal trip has put off is a lease fault
(log 125). -/
def Core.readySlots (k : Core) : Word :=
  (k.lease.toList.zipIdx).foldl (fun (m : Word) x => match x.1 with
    | some l => if l.ready && !l.off then m ||| (1#32 <<< x.2) else m
    | none => m) 0

/-- A command at its issue: the READY bits and RNGSEED are those of this cycle (R27, R125, R294). -/
def State.leasedIssue (s : State) (i : Instr) (op : Nat) (a b e : BitVec 5) : State :=
  let v := s.readG b
  s.notOnBox (
    if !leasedOperandOk op v then s.faultHere causeOperand
    else s.sendDesc i 2 (s.readG a).toNat 8 32 (s.readG a) v s.me.view.rngseed [s.me.readySlots] false
      (·.modDrv (fun d => { d with owedG := e.toNat :: d.owedG })))

def execIlmask (a b e : BitVec 5) (s : State) : Host.Outcome State Fault Refusal :=
  .next (s.leasedIssue (.ilmask a b e) 0x00 a b e)
def execIlsamp (a b e : BitVec 5) (s : State) : Host.Outcome State Fault Refusal :=
  .next (s.leasedIssue (.ilsamp a b e) 0x01 a b e)
def execIladv (a b e : BitVec 5) (s : State) : Host.Outcome State Fault Refusal :=
  .next (s.leasedIssue (.iladv a b e) 0x02 a b e)
def execIlload (a b e : BitVec 5) (s : State) : Host.Outcome State Fault Refusal :=
  .next (s.leasedIssue (.ilload a b e) 0x03 a b e)
def execIlsave (a b e : BitVec 5) (s : State) : Host.Outcome State Fault Refusal :=
  .next (s.leasedIssue (.ilsave a b e) 0x04 a b e)
def execSrtopk (a b e : BitVec 5) (s : State) : Host.Outcome State Fault Refusal :=
  .next (s.leasedIssue (.srtopk a b e) 0x08 a b e)
def execSrsort (a b e : BitVec 5) (s : State) : Host.Outcome State Fault Refusal :=
  .next (s.leasedIssue (.srsort a b e) 0x09 a b e)
def execInfblk (a b e : BitVec 5) (s : State) : Host.Outcome State Fault Refusal :=
  .next (s.leasedIssue (.infblk a b e) 0x10 a b e)
def execShgath (a b e : BitVec 5) (s : State) : Host.Outcome State Fault Refusal :=
  .next (s.leasedIssue (.shgath a b e) 0x18 a b e)
def execShscat (a b e : BitVec 5) (s : State) : Host.Outcome State Fault Refusal :=
  .next (s.leasedIssue (.shscat a b e) 0x19 a b e)
def execShpack (a b e : BitVec 5) (s : State) : Host.Outcome State Fault Refusal :=
  .next (s.leasedIssue (.shpack a b e) 0x1A a b e)

/-- Descriptor fields. -/
def LeasedCmd.w (r : LeasedCmd) (i : Nat) : Nat := (r.desc.getD i 0).toNat
def descSlot (ws : List Word) : Nat := bits (ws.getD 0 0) 2 0
def descA (ws : List Word) : Nat := bits (ws.getD 0 0) 13 8
def descB (ws : List Word) : Nat := bits (ws.getD 0 0) 21 16
def descL (ws : List Word) : Nat := bits (ws.getD 7 0) 29 24
def descFlag (ws : List Word) (n : Nat) : Bool := (ws.getD 0 0).getLsbD (24 + n)
def descV (ws : List Word) : Nat := bits (ws.getD 7 0) 18 0

/-- Field ranges of a descriptor (Table 18.2, R295, R297, R298). -/
def leasedDescOk (op : Nat) (ws : List Word) : Bool :=
  let w := fun i => (ws.getD i 0).toNat
  match leasedKind op with
  | 0 =>
    onlyBits (ws.getD 0 0) 0x13F3F07 && w 1 % 64 = 0 && w 2 % 4096 = 0 && w 3 % 64 = 0 &&
      f32finite (ws.getD 4 0) && 0 < w 4 && w 4 < 2 ^ 31 && w 5 ≤ 262144 && 1 ≤ w 6 && w 6 ≤ 65536 &&
      onlyBits (ws.getD 7 0) 0x3F07FFFF && 1 ≤ descV ws && descV ws ≤ 262144
  | 1 =>
    onlyBits (ws.getD 0 0) 0x73F3F07 && w 1 % 8 = 0 && w 2 % 8 = 0 &&
      (op ≠ 0x08 || (1 ≤ w 3 && w 3 ≤ 262144)) && (List.range' 4 4).all (fun i => w i = 0)
  | 2 =>
    onlyBits (ws.getD 0 0) 0x33F3F07 && w 1 % 4 = 0 && 4 ≤ w 3 && w 3 ≤ 2 ^ 31 && w 3 % 4 = 0
  | _ =>
    onlyBits (ws.getD 0 0) 0x23F3F07 && w 1 % 64 = 0 && w 2 % 64 = 0 && w 3 % 64 = 0 && 64 ≤ w 4 && w 4 ≤ 4096 &&
      w 4 % 64 = 0 && 1 ≤ w 5 && w 6 % 64 = 0 && w 7 = 0

/-- What a command names: span number (none for the scratchpad), offset, length as far as the descriptor and g[b] fix it,
whether it writes, and whether it must lie in HBM. -/
structure LeaseSide where
  span : Option Nat
  off : Nat
  n : Nat
  write : Bool
  hbm : Bool
  deriving DecidableEq, Repr

/-- The sides of a command, each checked at issue: the span is valid, may be written where it is, and maps the memory that the
engine reaches; a range whose length the descriptor and g[b] fix lies in the scratchpad or in the span's extent (R24). Where a
command follows its references at run time, and in the sorter's spans, a reference past the extent of a span ends the command
with INDEXRANGE when it is met (R287, DEDUCED, log 56). -/
def leasedSides (op : Nat) (ws : List Word) (v : Nat) : List LeaseSide :=
  let w := fun i => (ws.getD i 0).toNat
  let side := fun (useSpan : Bool) (span i n : Nat) (write : Bool) =>
    (⟨if useSpan then some span else none, w i, n, write, false⟩ : LeaseSide)
  let sort := fun (flag span i n : Nat) (write : Bool) =>
    side (descFlag ws flag) span i (if descFlag ws flag then 0 else n) write
  match op with
  | 0x00 => [side true (descA ws) 1 0 false, ⟨none, v, 64 * pagesOf (descV ws), true, false⟩]
  | 0x01 => [side true (descA ws) 1 0 false, side (descFlag ws 0) (descL ws) 3 (4 * descV ws) false]
  | 0x02 => [side true (descA ws) 1 0 false]
  | 0x03 => [side true (descB ws) 2 0 false]
  | 0x04 => [side true (descB ws) 2 0 true]
  | 0x08 => [sort 0 (descA ws) 1 (4 * w 3) false, sort 1 (descB ws) 2 (8 * min v (w 3)) true]
  | 0x09 => [sort 0 (descA ws) 1 (8 * v) false, sort 1 (descB ws) 2 (8 * v) true]
  | 0x10 => [side (descFlag ws 0) (descA ws) 1 0 false, side (descFlag ws 1) (descB ws) 2 0 true]
  | 0x19 =>
    [{ side true (descA ws) 1 (4 * v) false with hbm := true }, { side true (descA ws) 2 0 true with hbm := true },
      side (descFlag ws 1) (descB ws) 6 (v * w 4) false]
  | 0x1A =>
    [{ side true (descA ws) 1 ((w 5 + 7) / 8) false with hbm := true }, { side true (descA ws) 2 0 false with hbm := true },
      side (descFlag ws 1) (descB ws) 6 (v * w 4) true]
  | _ =>
    [{ side true (descA ws) 1 (4 * v) false with hbm := true }, { side true (descA ws) 2 0 false with hbm := true },
      side (descFlag ws 1) (descB ws) 6 (v * w 4) true]

/-- A frame of a span lies in the memory a side may reach: depot, or HBM of the die's own stack pair (R210). -/
def frameOk (die : Nat) (hbm : Bool) (pa : Nat) : Bool :=
  if hbm then tierOf pa = some .hbm && memDie pa = die else tierOf pa = some .depot

/-- The fault of a side (R24, R287). -/
def Core.leasedSideFault (k : Core) (die : Nat) (x : LeaseSide) : Option (BitVec 8) :=
  match x.span with
  | none => if padEnd < x.off + max 1 x.n then some causeScratchRange else none
  | some n =>
    match k.spanAt n with
    | none => some causeSpan
    | some sp =>
      if (x.write && !sp.write) || !sp.frames.all (frameOk die x.hbm) || (x.n ≠ 0 && sp.extent < x.off + x.n) then
        some causeSpan
      else none

/-- L of Table 18.1; the shunter has none. -/
def leasedLatency (op : Nat) (ws : List Word) (v : Nat) : Option Nat :=
  let w := fun i => (ws.getD i 0).toNat
  match op with
  | 0x00 => some (128 + 4 * pagesOf (descV ws))
  | 0x01 => some (384 + 3 * ((descV ws + 31) / 32))
  | 0x02 => some 360
  | 0x03 => some 300
  | 0x04 => some 300
  | 0x08 => some (256 + (w 3 + 15) / 16 + (v + 7) / 8)
  | 0x09 => some (512 + 17 * ((v + 15) / 16))
  | 0x10 => some (200 + (w 3 + 63) / 64 + (v + 63) / 64)
  | _ => none

/-- A fault of a command after its descriptor read: g[e] is not owed. -/
def State.leasedFault (s : State) (o : DescOp) (e : BitVec 5) (f : BitVec 8) : State :=
  (s.modMe (·.modDrv (·.unowe false [e.toNat]))).opFault o f 0

/-- Whether an engine of a core's die has a command outstanding, of whatever core and lease. -/
def State.engineOut (s : State) (c kind inst : Nat) : Bool :=
  s.cores.any (fun p => coreDie p.1 = coreDie c && p.2.leased.any (fun q => leasedKind q.2.op = kind && q.2.inst = inst))

/-- Number of an engine within its die. -/
def engineKey (kind inst : Nat) : Nat := 64 * kind + inst

/-- Station Clock cycle in which the last command of an engine has completed. -/
def State.engineBusyTo (s : State) (c kind inst : Nat) : Nat :=
  ((s.getDie (coreDie c)).busyTo.find (engineKey kind inst)).getD 0

/-- A command after its descriptor read: field ranges, the lease, the engine, the spans; then it is sent. The engine is occupied
up to the cycle before the completion of its last command, whichever lease that was issued under (R300). -/
def finishLeased (o : DescOp) (op : Nat) (e : BitVec 5) (s : State) : State :=
  let ws := o.words.getRange 0 8
  let v := o.vb.toNat
  let slot := descSlot ws
  let k := s.me
  if !leasedDescOk op ws then s.leasedFault o e causeOperand
  else match k.leaseAt slot with
  | none => s.leasedFault o e causeLease
  | some l =>
    if l.kind.toNat ≠ leasedKind op || !(o.xs.getD 0 0).getLsbD slot then s.leasedFault o e causeLease
    else if s.engineOut s.cur (leasedKind op) l.inst ||
        o.issue + k.place.hshift < s.engineBusyTo s.cur (leasedKind op) l.inst then s.leasedFault o e causeOccupancy
    else match (leasedSides op ws v).findSome? (k.leasedSideFault (coreDie s.cur)) with
    | some f => s.leasedFault o e f
    | none =>
      let id := s.fresh
      let start := o.issue + 8
      let finish := (leasedLatency op ws v).map (start + ·)
      let r : LeasedCmd := {
          op := op, lease := slot, serial := l.serial, inst := l.inst, reg := e.toNat, desc := ws, operand := o.vb, seed := o.vd,
          start := start, finish := finish, depot := [], depotBad := [], local_ := [], localBad := [], spanA := k.spanAt (descA ws),
          spanB := k.spanAt (descB ws), spanL := if op = 0x01 then k.spanAt (descL ws) else none, slots := [],
          list := [], rows := 0, status := none, seqOut := none, depotOut := [] }
      let s := ({ s with fresh := id + 1 }).modMe (fun k => { k with leased := k.leased.put id r })
      s.soon (start - s.tt) rankUnit (.leasedCommandStart id)

/-! ### What a command reads and gives -/

/-- A command changed. -/
def State.modLeased (s : State) (c id : Nat) (f : LeasedCmd → LeasedCmd) : State :=
  s.modCore c (fun k => match k.leased.find id with
    | none => k
    | some r => { k with leased := k.leased.put id (f r) })

/-- Scratchpad bytes that a command reads: address and length. -/
def LeasedCmd.localRead (r : LeasedCmd) : Nat × Nat :=
  if descFlag r.desc 0 then (0, 0)
  else match r.op with
  | 0x01 => (r.w 3, 4 * descV r.desc)
  | 0x08 => (r.w 1, 4 * r.w 3)
  | 0x09 => (r.w 1, 8 * r.operand.toNat)
  | 0x10 => (r.w 1, min (r.w 3) (padEnd - r.w 1))
  | _ => (0, 0)

/-- Lines of scratchpad that a command writes at most. -/
def LeasedCmd.linesMax (r : LeasedCmd) : Nat :=
  match r.op with
  | 0x00 => (64 * pagesOf (descV r.desc) + 255) / 256
  | 0x08 => if descFlag r.desc 1 then 0 else (8 * min r.operand.toNat (r.w 3) + 255) / 256
  | 0x09 => if descFlag r.desc 1 then 0 else (8 * r.operand.toNat + 255) / 256
  | 0x10 => if descFlag r.desc 1 then 0 else (r.operand.toNat + 255) / 256
  | _ => 0

/-- What a command gives: code, VALUE, the sequence it leaves, scratchpad bytes from an address, span bytes. -/
structure LeasedResult where
  code : Nat
  value : Nat
  seq : Option Sequence
  pad : Option (Nat × List Byte)
  span : List (Span × Nat × List Byte)
  deriving DecidableEq, Repr

def LeasedResult.plain (code value : Nat) (seq : Option Sequence) : LeasedResult := ⟨code, value, seq, none, []⟩

/-- Bytes for the destination of a sorter or inflater. -/
def LeasedCmd.output (r : LeasedCmd) (code value : Nat) (bytes : List Byte) : LeasedResult :=
  match descFlag r.desc 1, r.spanB with
  | true, some sp => ⟨code, value, none, none, if bytes.isEmpty then [] else [(sp, r.w 2, bytes)]⟩
  | true, none => ⟨code, value, none, none, []⟩
  | false, _ => ⟨code, value, none, if bytes.isEmpty then none else some (r.w 2, bytes), []⟩

/-- Bytes of the source of a sorter or inflater, `p` bytes on. -/
def LeasedCmd.input (r : LeasedCmd) (x : Source) (p n : Nat) : Rd (List Byte) :=
  match descFlag r.desc 0, r.spanA with
  | true, some sp => x.span sp (r.w 1 + p) n
  | true, none => Rd.fail
  | false, _ => x.local_ (r.w 1 + p) n

/-- The interlocking commands on the current sequence (R291 to R294). -/
def LeasedCmd.interlock (r : LeasedCmd) (x : Source) (cur : Option Sequence) : Rd LeasedResult := do
  let v := descV r.desc
  let n := r.operand.toNat
  let record := r.w 2 + 4096 * n
  match r.op, cur with
  | 0x03, _ =>
    match r.spanB with
    | none => Rd.fail
    | some sp =>
      let b ← x.span sp record 4096
      match sequenceOf b with
      | none => Rd.fail
      | some q => pure (LeasedResult.plain codeOk q.state.toNat (some q))
  | _, none => pure (LeasedResult.plain codeStalled 0 none)
  | 0x04, some q =>
    match r.spanB with
    | none => Rd.fail
    | some sp =>
      if sp.extent < record + 4096 then Rd.fail
      else pure ⟨codeOk, 0, some { q with dirty := false }, none,
        (sp, record, q.head) :: (if q.sp = 0 then [] else [(sp, record + 64, q.halves)])⟩
  | op, some q =>
    match r.spanA with
    | none => Rd.fail
    | some sp =>
      if op = 0x00 then
        let g ← x.grammar sp (r.w 1) v
        let k ← x.key g q
        let m ← x.mask g k v
        pure ⟨codeOk, (maskTokens m).length, some q, some (n, m), []⟩
      else if op = 0x02 then
        let a ← x.advance sp (r.w 1) v q n
        pure (LeasedResult.plain a.1 a.2.1 (some a.2.2))
      else
        let logits : Rd (List Byte) := match descFlag r.desc 0, r.spanL with
          | true, some l => x.span l (r.w 3) (4 * v)
          | true, none => Rd.fail
          | false, _ => x.local_ (r.w 3) (4 * v)
        let u := if r.operand.getLsbD 63 then (mix64 r.seed q.step >>> 32).toNat else n % 2 ^ 32
        let a ← x.sample sp (r.w 1) v (r.desc.getD 4 0) (r.w 5) (r.w 6) logits u q
        pure (LeasedResult.plain a.1 a.2.1 (some a.2.2))

/-- Whether the destination of a sorter or shunter has room for bytes from `off` on: a span's extent. -/
def LeasedCmd.fits (r : LeasedCmd) (off n : Nat) : Bool :=
  !descFlag r.desc 1 || r.spanB.any (fun sp => off + n ≤ sp.extent)

/-- The sorter (R295). -/
def LeasedCmd.sorter (r : LeasedCmd) (x : Source) : Rd LeasedResult := do
  let up := descFlag r.desc 2
  let n := r.operand.toNat
  if r.op = 0x08 then
    let b ← r.input x 0 (4 * r.w 3)
    let l := (sortPairs up (((wordsOf b).zipIdx).map (fun p => (p.1, BitVec.ofNat 32 p.2)))).take n
    if !r.fits (r.w 2) (8 * min n (r.w 3)) then Rd.fail
    else pure (r.output codeOk (min n (r.w 3)) (bytesOf (l.flatMap (fun p => [p.1, p.2]))))
  else
    let b ← r.input x 0 (8 * n)
    if !r.fits (r.w 2) (8 * n) then Rd.fail
    else pure (r.output codeOk n (bytesOf ((sortPairs up (pairsOf (wordsOf b))).flatMap (fun p => [p.1, p.2]))))

/-- The inflater (R297). -/
def LeasedCmd.inflater (r : LeasedCmd) (x : Source) : StateM Met LeasedResult := do
  let inp : Input8 := fun p n => if r.w 3 < p + n then pure none else do
    let b ← r.input x p n
    pure (some b)
  let room := if descFlag r.desc 1 then (r.spanB.map (fun sp => sp.extent - r.w 2)).getD 0 else padEnd - r.w 2
  let out ← inflate inp r.operand.toNat room (r.w 3 / 4 + 1) 0 [] 0
  pure (r.output out.1 out.2.length out.2)

/-- Result of a command, and where it met poison. -/
def LeasedCmd.result (r : LeasedCmd) (x : Source) (cur : Option Sequence) : LeasedResult × Met :=
  let orRange := fun (f : Rd LeasedResult) (v : Nat) =>
    let a := f.run none
    (a.1.getD (LeasedResult.plain codeRange v cur), a.2)
  match leasedKind r.op with
  | 0 => orRange (r.interlock x cur) ((cur.map (·.state.toNat)).getD 0)
  | 1 => orRange (r.sorter x) 0
  | _ => (r.inflater x).run none

/-- Status word (Table 6.11). -/
def statusWord (value code : Nat) : DWord := BitVec.ofNat 64 (value % 2 ^ 32 * 2 ^ 32 + code)

/-- The timetable is TAINTED by what a leased engine has read (R277). -/
def State.metPoison (s : State) (c : Nat) (m : Met) : State :=
  match m with
  | none => s
  | some (sub, phys, addr) => s.taint c 0x40 sub phys addr unitLeased 0

/-! ### The shunter (R210, R298) -/

/-- Units of the list or bitmap, and per row; window XID. -/
def LeasedCmd.heads (r : LeasedCmd) : Nat :=
  if r.op = 0x1A then (r.w 5 + 511) / 512 else (4 * r.operand.toNat + 63) / 64
/-- Bytes of the list or bitmap. -/
def LeasedCmd.headBytes (r : LeasedCmd) : Nat := if r.op = 0x1A then (r.w 5 + 7) / 8 else 4 * r.operand.toNat
def LeasedCmd.perRow (r : LeasedCmd) : Nat := r.w 4 / 64
def LeasedCmd.units (r : LeasedCmd) : Nat := r.heads + r.operand.toNat * r.perRow
def LeasedCmd.xid (r : LeasedCmd) : Nat := 0xFFF0 + r.inst % 4
def LeasedCmd.isShunter (r : LeasedCmd) : Bool := leasedKind r.op = 3

/-- Offset of a unit of a row on the packed side, and the die of the depot there. -/
def LeasedCmd.packedOff (r : LeasedCmd) (u : Nat) : Nat := r.w 6 + 64 * (u - r.heads)
def LeasedCmd.crossing (r : LeasedCmd) (die u : Nat) : Nat :=
  match descFlag r.desc 1, r.spanB with
  | true, some sp => 24 * boundaries die (memDie (sp.pa (r.packedOff u)))
  | _, _ => 0

/-- Cycles between a slot and the packed side's access (Table 11.5). -/
def LeasedCmd.lag (r : LeasedCmd) (die u : Nat) : Nat :=
  (if r.op = 0x19 then 48 else if descFlag r.desc 1 then 56 else 72) + r.crossing die u

/-- Shunter commands of a timetable that run, oldest first: start cycle, core, command number. -/
def State.shunters (s : State) (n : Nat) : List (Nat × Nat × LeasedCmd) :=
  let l := (s.coresOf n).flatMap (fun c => ((s.core c).leased.filter (fun p =>
    p.2.isShunter && p.2.start ≤ s.ttOf c && p.2.finish.isNone)).map (fun p => (c, p.1, p.2)))
  l.foldl (fun acc x => acc.takeWhile (fun y => y.2.2.start ≤ x.2.2.start) ++
    x :: acc.dropWhile (fun y => y.2.2.start ≤ x.2.2.start)) []

/-- Whether a slot has been given to a shunter. -/
def State.shuntTaken (s : State) (n pc cycle : Nat) : Bool :=
  (s.coresOf n).any (fun c => (s.core c).leased.any (fun p => p.2.slots.any (fun b => b.pc = pc && b.cycle = cycle)))

/-- A slot given to the next unit of a shunter; its packed side is read ahead of a slot that writes. With the last unit the
completion is known: one cycle behind the last write, which a nearer depot may let come before another unit's (R288). -/
def State.giveSlot (s : State) (c id : Nat) (x : Nat × Nat × Nat) : State :=
  match (s.core c).leased.find id with
  | none => s
  | some r =>
    let u := r.slots.length
    let die := coreDie c
    let ahead := r.op = 0x19 && r.heads ≤ u
    let begun := r.start + (s.core c).place.hshift
    if r.units ≤ u || x.2.2 < begun || (ahead && x.1 < begun + r.lag die u) || (ahead && x.1 < s.clock + r.lag die u) then s
    else
      let s := s.modLeased c id (fun r => { r with slots := r.slots ++ [⟨x.2.1, x.1, u, ahead⟩] })
      let s := if u + 1 = r.units then
          let at_ := fun (b : Booked) => b.cycle + (if r.op = 0x19 then 0 else r.lag die b.unit)
          let last := (r.slots.map at_).foldl max (at_ ⟨x.2.1, x.1, u, ahead⟩)
          let fin := last - (s.core c).place.hshift + 1
          (s.modLeased c id (fun r => { r with finish := some fin })).timedAt c
            (fin + (s.core c).place.hshift - s.clock) rankVisible (.leasedCommandComplete id)
        else s
      if !ahead then s
      else
        let n := x.1 - r.lag die u - s.clock
        if descFlag r.desc 1 then s.timedAt c n rankUnit (.leasedCommandStart id)
        else s.claimBlock c n 10 (r.packedOff u) (.leaseRead id (r.packedOff u) 64)

/-- Every running shunter of a timetable is given the coming slots of its engine, the oldest command first. -/
def State.bookShunts (s : State) (n : Nat) : State :=
  (s.shunters n).foldl (fun s q =>
    let die := coreDie q.1
    let free := (s.slotsFor n q.2.2.xid).filter (fun x => x.2.1 / 128 = die && !s.shuntTaken n x.2.1 x.1)
    free.foldl (fun s x => s.giveSlot q.1 q.2.1 x) s) s

/-- The depot side of a slot that writes, read now. -/
def State.shuntAhead (s : State) (c id : Nat) (r : LeasedCmd) : State :=
  match r.spanB with
  | none => s
  | some sp =>
    (r.slots.filter (fun b => b.write && b.cycle = s.clock + r.lag (coreDie c) b.unit)).foldl (fun s b =>
      let off := r.packedOff b.unit
      let p := s.spanPayload sp off 64
      s.modLeased c id (fun r => { r with
        local_ := r.local_.setRange off p.bytes,
        localBad := p.poison.foldl (fun (m : Cells 1) w => m.set (off / 4 + w) 1) r.localBad })) s

/-- Selected rows of a bitmap, ascending. -/
def LeasedCmd.selected (r : LeasedCmd) : List Nat :=
  (maskTokens (r.list.getRange 0 ((r.w 5 + 7) / 8))).filter (· < r.w 5)

/-- The table row that packed row `n` names; none where the bitmap has no such row. -/
def LeasedCmd.rowIndex (r : LeasedCmd) (n : Nat) : Option Nat :=
  if r.op = 0x1A then r.selected[n]? else some (r.list.readLE (4 * n) 4)

/-- Unit of the list or bitmap that holds it. -/
def LeasedCmd.headOf (r : LeasedCmd) (n : Nat) : Nat :=
  if r.op = 0x1A then ((r.rowIndex n).getD 0) / 512 else n / 16

/-- A shunter ends early: an index or a reference out of range. -/
def State.shuntRange (s : State) (c id n : Nat) : State :=
  s.modLeased c id (fun r => { r with status := some (statusWord n codeRange) })

/-- Packed bytes of a unit go to their place after the lag of the slot. -/
def State.shuntOut (s : State) (c id : Nat) (r : LeasedCmd) (u : Nat) (d : Payload) : State :=
  let lag := r.lag (coreDie c) u
  match descFlag r.desc 1, r.spanB with
  | true, some sp =>
    (s.modLeased c id (fun r => { r with
      depotOut := r.depotOut ++ [(s.ttOf c + lag, sp, r.packedOff u, d)] })).timedAt c lag rankWrite
      (.leasedCommandComplete id)
  | _, _ => s.claimBlock c lag 0 (r.packedOff u) (.leaseWrite id (r.packedOff u) d)

/-- Bytes that a slot is to write: as the packed side was read, or as it stands if its claim still waits. -/
def State.shuntIn (s : State) (c id : Nat) (r : LeasedCmd) (u : Nat) : Payload :=
  let off := r.packedOff u
  let p := (s.core c).pad
  if p.claims.any (fun q => q.act = .leaseRead id off 64) then p.payload off 64
  else ⟨r.local_.getRange off 64, ((wordsIn off 64).filter (fun w => r.localBad.get w ≠ 0)).map (· - off / 4)⟩

/-- What a poisoned word of the packed side is reported as: scratchpad, or the physical address in the depot (Table 17.4). -/
def LeasedCmd.packedMet (r : LeasedCmd) (u w : Nat) : Nat × Bool × Nat :=
  match descFlag r.desc 1, r.spanB with
  | true, some sp => (1, true, sp.wordPa (r.packedOff u) w)
  | _, _ => (0, false, r.packedOff u + 4 * w)

/-- A row unit in its slot. -/
def State.shuntRow (s : State) (c id : Nat) (r : LeasedCmd) (u : Nat) (sp : Span) : State :=
  let n := (u - r.heads) / r.perRow
  let part := (u - r.heads) % r.perRow
  let count := fun (s : State) => s.modLeased c id (fun r => { r with
    rows := if part + 1 = r.perRow then n + 1 else r.rows })
  match r.rowIndex n with
  | none => s
  | some idx =>
    let sigma := (r.slots[r.headOf n]?.map (·.cycle)).getD s.clock
    if !r.fits (r.packedOff u) 64 then s.shuntRange c id n
    else if s.clock ≤ sigma + 40 then
      s.fatal c false 0x30 3 (faultInfo unitLeased 0 false r.xid) 5 0 (BitVec.ofNat 64 r.start) 0
    else if idx = 0xFFFFFFFF && r.op ≠ 0x1A then
      count (if r.op = 0x18 then s.shuntOut c id r u ⟨List.replicate 64 0, []⟩ else s)
    else if r.w 5 ≤ idx || sp.extent < r.w 2 + idx * r.w 3 + r.w 4 then s.shuntRange c id n
    else
      let off := r.w 2 + idx * r.w 3 + 64 * part
      if r.op = 0x19 then
        let d := s.shuntIn c id r u
        let s := s.metPoison c (d.poison.head?.map (r.packedMet u))
        count ((s.modLeased c id (fun r => { r with
          depotOut := r.depotOut ++ [(s.ttOf c, sp, off, d)] })).timedAt c 0 rankWrite (.leasedCommandComplete id))
      else
        let d := s.spanPayload sp off 64
        let s := s.metPoison c (d.poison.head?.map (fun w => (2, true, sp.wordPa off w)))
        count (s.shuntOut c id r u d)

/-- WINDOW_SLOT for a shunter: its next HBM unit (R298). -/
def State.shuntSlot (s : State) (pc c id : Nat) : State :=
  match (s.core c).leased.find id with
  | none => s
  | some r =>
    match r.slots.find? (fun b => b.pc = pc && b.cycle = s.clock), r.spanA with
    | some b, some sp =>
      if r.status.isSome then s
      else if b.unit < r.heads then
        let off := 64 * b.unit
        let len := r.headBytes - off
        if sp.extent < r.w 1 + off + min 64 len then s.shuntRange c id 0
        else
          let p := s.spanPayload sp (r.w 1 + off) (min 64 len)
          let s := s.metPoison c (p.poison.head?.map (fun w => (2, true, sp.wordPa (r.w 1 + off) w)))
          s.modLeased c id (fun r => { r with list := r.list.setRange off p.bytes })
      else s.shuntRow c id r b.unit sp
    | _, _ => s

/-! ### Start and completion (R287, R289) -/

/-- Claims of S11 on the lines of a range, line n asked for `first + n` cycles on. -/
def State.claimPort (s : State) (c first addr n : Nat) (act : Nat → Nat → Act) : State :=
  (List.range ((n + 255) / 256)).foldl (fun s i =>
    let a := addr + 256 * i
    let len := min 256 (n - 256 * i)
    s.claim c (first + i) 11 (a / 0x10000) 0xFF (if a / 0x10000 = (a + len - 1) / 0x10000 then 0 else 0xFF) (act a len)) s

/-- LEASED_COMMAND_START: depot reads perform now, scratchpad lines are claimed one a cycle. A shunter is given its slots at
its start, and reads the depot side ahead of a slot that writes. -/
def execLeasedCommandStart (cmd : Nat) (s : State) : Host.Outcome State Fault Refusal :=
  let c := s.cur
  let tt := s.tt
  .next (match s.me.leased.find cmd with
    | none => s
    | some r =>
      if r.isShunter then
        let s := match decide (tt = r.start), s.me.place.node with
          | true, some n =>
            let s := s.bookShunts n
            if s.agenda.any (fun d => d.who = cmd && d.instr = Instr.missingWindowTimeout) then s
            else s.due (s.clock + Config.windowLimit) rankCheck s.me.place.node cmd .missingWindowTimeout
          | _, _ => s
        match s.me.leased.find cmd with
        | some r => s.shuntAhead c cmd r
        | none => s
      else
        let s := s.modLeased c cmd (fun r => { r with
          depot := s.mem, depotBad := s.bad })
        let rd := r.localRead
        let s := s.claimPort c 0 rd.1 rd.2 (fun a n => .leaseRead cmd a n)
        let fin := r.finish.getD tt
        (s.soon (fin - max 1 r.linesMax - tt) rankUnit (.leasedCommandComplete cmd)).soon (fin - tt) rankVisible
          (.leasedCommandComplete cmd))

/-- Lines of a command whose claims still wait when its results are formed, as they stand in that cycle (log 61). -/
def LeasedCmd.takeLate (r : LeasedCmd) (p : Scratch) (id : Nat) : LeasedCmd :=
  p.claims.foldl (fun (r : LeasedCmd) q => match q.act with
    | .leaseRead i addr n =>
      if i = id then { r with
        local_ := r.local_.setRange addr (p.bytes addr n),
        localBad := (p.poison addr n).foldl (fun (m : Cells 1) w => m.set (addr / 4 + w) 1) r.localBad }
      else r
    | _ => r) r

/-- The lease slot of a command still holds the grant under which it was issued. -/
def Core.underGrant (k : Core) (r : LeasedCmd) : Bool := (k.leaseAt r.lease).any (fun l => l.serial = r.serial)

/-- Results are formed: status and sequence kept for the end, lines claimed for their cycles, depot bytes for the
cycle before the end. -/
def State.leasedForm (s : State) (c id : Nat) (r : LeasedCmd) : State :=
  let r := r.takeLate (s.core c).pad id
  let x : Source := ⟨{ s with mem := r.depot, bad := r.depotBad }, r.local_, r.localBad⟩
  let out := r.result x (if (s.core c).underGrant r then (s.core c).seqs.find r.lease else none)
  let s := s.metPoison c out.2
  let bad := out.2.isSome
  let fin := r.finish.getD 0
  let pay := fun (b : List Byte) => (⟨b, if bad then List.range ((b.length + 3) / 4) else []⟩ : Payload)
  let s := s.modLeased c id (fun r => { r with
    status := some (statusWord out.1.value out.1.code), seqOut := out.1.seq,
    depotOut := out.1.span.map (fun p => (fin - 1, p.1, p.2.1, pay p.2.2)), depot := [], depotBad := [], local_ := [],
    localBad := [] })
  let s := if out.1.span.isEmpty then s else s.timedAt c (fin - 1 - s.ttOf c) rankWrite (.leasedCommandComplete id)
  match out.1.pad with
  | none => s
  | some (a, b) =>
    s.claimPort c (fin - (b.length + 255) / 256 - s.ttOf c) a b.length (fun ad n =>
        .leaseWrite id ad (pay ((b.drop (ad - a)).take n)))

/-- Commands in ascending engine number, and those of one number by core. -/
def insertInst (x : Nat × Nat × Nat) : List (Nat × Nat × Nat) → List (Nat × Nat × Nat)
  | [] => [x]
  | y :: r => if x.1 < y.1 then x :: y :: r else y :: insertInst x r

/-- Every write to memory that leased engines make in this cycle; the higher engine number last (R289). -/
def State.leasedWrites (s : State) : State :=
  let ready := fun (c : Nat) (x : Nat × Span × Nat × Payload) => decide (x.1 ≤ s.ttOf c)
  let cmds := s.cores.flatMap (fun p => (p.2.leased.filter (fun q => q.2.depotOut.any (ready p.1))).map
    (fun q => (q.2.inst, p.1, q.1)))
  (cmds.foldl (fun l x => insertInst x l) []).foldl (fun s x =>
    match (s.core x.2.1).leased.find x.2.2 with
    | none => s
    | some r =>
      let s := (r.depotOut.filter (ready x.2.1)).foldl (fun s d => s.spanWrite d.2.1 d.2.2.1 d.2.2.2) s
      s.modLeased x.2.1 x.2.2 (fun r => { r with depotOut := r.depotOut.filter (fun d => !ready x.2.1 d) })) s

/-- A command ends: its status word goes to g[e], its sequence stands if the lease it was issued under does, its engine is free,
its spans may lose their pins (R289, R300). -/
def State.leasedEnd (s : State) (c id : Nat) (r : LeasedCmd) : State :=
  let tt := s.ttOf c
  let v := r.status.getD (statusWord r.rows codeOk)
  let key := engineKey (leasedKind r.op) r.inst
  let s := s.modDie (coreDie c) (fun d => { d with busyTo := d.busyTo.put key s.clock })
  let s := s.modCore c (fun k =>
    let held := k.underGrant r
    let k := { k with leased := k.leased.drop id }
    let k := match r.seqOut, held with
      | some q, true => { k with seqs := k.seqs.put r.lease q }
      | _, _ => k
    k.modDrv (fun d =>
      let e := BitVec.ofNat 5 r.reg
      (if tt ≤ d.wroteG[e.toNat] then d else d.writeG e v).unowe false [r.reg]))
  s.releaseSpans c

/-- LEASED_COMMAND_COMPLETE: the results are formed as late as the last lines need; memory is written in the cycle
before the end, or a lag after a shunter's slot; the status is written at the end. -/
def execLeasedCommandComplete (cmd : Nat) (s : State) : Host.Outcome State Fault Refusal :=
  let c := s.cur
  .next (match s.me.leased.find cmd with
    | none => s
    | some r =>
      if r.finish.any (fun f => decide (f ≤ s.tt)) then s.leasedEnd c cmd r
      else if !r.isShunter && r.status.isNone then s.leasedForm c cmd r
      else s.leasedWrites)

/-- Cycles of this tick in which leased engines of a core execute (R259). -/
def Core.leasedRunning (k : Core) (tt : Nat) : Nat :=
  (k.leased.filter (fun p => p.2.start ≤ tt && (match p.2.finish with
    | some f => decide (tt < f)
    | none => true))).length

end Sys2Proof.Machine
end

