-- ==== Sys2Proof/Machine/Dram.lean ====
section
/-! DEFINITION. HBM pseudo-channels: timeline entries and their checks, column windows, refresh, open windows and
what the sequencer does between segments and in a hold (11, R203 to R208). -/

namespace Sys2Proof.Machine

/-! ### Pseudo-channels -/

def State.getPc (s : State) (pc : Nat) : PseudoChannel := (s.pcs.find pc).getD PseudoChannel.reset
def State.modPc (s : State) (pc : Nat) (f : PseudoChannel → PseudoChannel) : State :=
  { s with pcs := s.pcs.put pc (f (s.getPc pc)) }

def DramBank.reset : DramBank := ⟨none, none, none, none, none, none⟩
def PseudoChannel.bank (q : PseudoChannel) (b : Nat) : DramBank := (q.banks.find b).getD DramBank.reset
def PseudoChannel.setBank (q : PseudoChannel) (b : Nat) (f : DramBank → DramBank) : PseudoChannel :=
  { q with banks := q.banks.put b (f (q.bank b)) }

/-- Bank group. -/
def groupOf (bank : Nat) : Nat := bank / 4

/-- At least `n` cycles since an event that may never have happened. -/
def since (e : Option Nat) (n now : Nat) : Bool := match e with
  | none => true
  | some t => t + n ≤ now

/-! ### Table 11.7 -/

/-- A command breaks a rule: its row, the first that fails. -/
def firstRule (l : List (Nat × Bool)) : Option Nat := (l.find? (fun p => !p.2)).map Prod.fst

/-- Rules of ACT: tRP, tRC, tRRD, tFAW, tRFC, tRFCpb. -/
def PseudoChannel.actRule (q : PseudoChannel) (b now : Nat) : Option Nat :=
  let k := q.bank b
  let rrd := q.acts.all (fun a => a.1 + (if groupOf a.2 = groupOf b then 5 else 3) ≤ now)
  let faw := match q.acts[3]? with
    | some a => decide (a.1 + 24 ≤ now)
    | none => true
  firstRule [(1, since k.pre 20 now), (3, since k.act 66 now), (4, rrd), (5, faw), (9, since q.refab 490 now),
    (10, since k.refpb 224 now)]

/-- Rules of PRE on a bank: tRAS, tWR, tRTP. -/
def DramBank.preRules (k : DramBank) (now : Nat) : List (Nat × Bool) :=
  [(2, since k.act 46 now), (7, since k.write 22 now), (8, since k.read 6 now)]

/-- Rules of a column slot: tRCD, tCCD, tRFC, ROW. -/
def PseudoChannel.slotRule (q : PseudoChannel) (b row now : Nat) : Option Nat :=
  let k := q.bank b
  let ccd := match q.slot with
    | some x => decide (x.1 + (if groupOf x.2 = groupOf b then 4 else 3) ≤ now)
    | none => true
  firstRule [(0, since k.act 20 now), (6, ccd), (9, since q.refab 490 now), (11, k.row = some row)]

/-- Whom a DRAM-timing fault is recorded with: COREIX of a command's issuing core, and the stamp of a copy (R118, Table 17.5);
both 0 for a command of the timeline or of the sequencer. -/
structure Reporter where
  core : BitVec 24
  aux : DWord
  deriving DecidableEq, Repr

def Reporter.nobody : Reporter := ⟨0, 0⟩

/-- The reporter of a command of a core, with its stamp. -/
def State.reporter (s : State) (c stamp : Nat) : Reporter := ⟨(s.core c).csr.coreix.setWidth 24, BitVec.ofNat 64 stamp⟩

/-- A DRAM-timing fault of the owner of a pseudo-channel that the command of a reporter meets (R118, R204). -/
def State.dramFaultOf (s : State) (pc : Nat) (w : Reporter) (rule : Option Nat) : State :=
  match rule, (s.getPc pc).owner with
  | some r, some n => s.fatalNode n
      { verdict := 3, cause := causeDram, info := faultInfo unitDram r false pc, cyc := s.clock, site := 0, stream := 5,
        core := w.core, aux := w.aux }
  | _, _ => s

/-- A DRAM-timing fault that no command of a core has met (R204). -/
def State.dramFault (s : State) (pc : Nat) (rule : Option Nat) : State := s.dramFaultOf pc Reporter.nobody rule

/-! ### The timeline (R203) -/

/-- Fields of an entry. -/
def entryCyc (e : DWord) : Nat := (e.extractLsb' 32 32).toNat
def entryCmd (e : DWord) : Nat := (e.extractLsb' 28 4).toNat
def entryBank (e : DWord) : Nat := (e.extractLsb' 24 4).toNat
def entrySlots (e : DWord) : Nat := (e.extractLsb' 16 8).toNat + 1
def lineRow (e : DWord) : Nat := (e.extractLsb' 0 16).toNat

/-- The step of an entry. -/
def entryStep (e : DWord) : Instr :=
  match entryCmd e with
  | 0 => .dramAct (entryBank e) (lineRow e)
  | 1 => .dramPre (entryBank e)
  | 2 => .dramPrea
  | 3 => .dramRefab
  | 4 => .dramRefpb (entryBank e)
  | _ => .dramWin (entrySlots e) (lineRow e)

/-- The next entry of a timeline falls due. -/
def State.nextEntry (s : State) (pc : Nat) : State :=
  let q := s.getPc pc
  match q.line with
  | [] => s
  | e :: _ => s.due (q.base + entryCyc e) rankVisible q.owner pc (entryStep e)

/-- The timetable of a pseudo-channel holds (R208): start of that hold. -/
def State.holdOf (s : State) (pc : Nat) : Option Nat :=
  ((s.getPc pc).owner.bind s.nodes.find).bind (fun nd => nd.holdEnd.map (· - Config.holdCycles))

/-- Whether the sequencer itself issues now: its timetable holds, or no timeline runs yet (R206, R208). -/
def State.ownCommand (s : State) (pc : Nat) : Bool :=
  let q := s.getPc pc
  (s.holdOf pc).isSome || q.owner.isNone || !q.running || s.clock < q.base

/-- An entry of the timeline has issued: the next one falls due. -/
def State.entryDone (s : State) (pc : Nat) : State :=
  if s.ownCommand pc then s else (s.modPc pc (fun q => { q with line := q.line.drop 1 })).nextEntry pc

/-- ACT, whoever places it: its checks, and the bank's record (R204). -/
def State.openRow (s : State) (pc bank row : Nat) : State :=
  let t := s.clock
  (s.dramFault pc ((s.getPc pc).actRule bank t)).modPc pc (fun q =>
    { q.setBank bank (fun k => { k with row := some row, act := some t }) with acts := ((t, bank) :: q.acts).take 8 })

/-- DRAM_ACT: a row opens. -/
def execDramAct (bank row : Nat) (s : State) : Host.Outcome State Fault Refusal :=
  .next ((s.openRow s.cur bank row).entryDone s.cur)

/-- A bank is precharged. -/
def DramBank.close (k : DramBank) (t : Nat) : DramBank := { k with row := none, pre := some t }

/-- PRE, whoever places it: its checks, and the bank's record (R204). -/
def State.closeRow (s : State) (pc bank : Nat) : State :=
  let t := s.clock
  let q := s.getPc pc
  (s.dramFault pc (firstRule ((q.bank bank).preRules t ++ [(9, since q.refab 490 t)]))).modPc pc
    (·.setBank bank (·.close t))

/-- DRAM_PRE. -/
def execDramPre (bank : Nat) (s : State) : Host.Outcome State Fault Refusal :=
  .next ((s.closeRow s.cur bank).entryDone s.cur)

/-- Every bank precharged. -/
def PseudoChannel.closeAll (q : PseudoChannel) (t : Nat) : PseudoChannel :=
  { q with banks := (List.range 16).map (fun b => (b, (q.bank b).close t)) }

/-- PREA, whoever places it (R204). -/
def State.closeRows (s : State) (pc : Nat) : State :=
  let t := s.clock
  let q := s.getPc pc
  let rules := (List.range 16).flatMap (fun b => (q.bank b).preRules t)
  (s.dramFault pc (firstRule (rules ++ [(9, since q.refab 490 t)]))).modPc pc (·.closeAll t)

/-- DRAM_PREA. -/
def execDramPrea (s : State) : Host.Outcome State Fault Refusal := .next ((s.closeRows s.cur).entryDone s.cur)

/-- The refresh debt changes by sixteenths; outside -8 to 8 it is a REFPOST violation (R206). -/
def State.addDebt (s : State) (pc : Nat) (d : Int) : State :=
  let s := s.modPc pc (fun q => { q with debt := q.debt + d })
  let v := (s.getPc pc).debt
  if v < -128 || 128 < v then s.dramFault pc (some 12) else s

/-- A refresh of `n` sixteenths: `check` is its rule, `mark` its interval. After a hold it is skipped, though credited, and its
interval stays idle all the same (R208). -/
def State.refresh (s : State) (pc n : Nat) (check : State → State) (mark : PseudoChannel → PseudoChannel) : State :=
  if s.ownCommand pc then (check s).modPc pc mark
  else if 0 < (s.getPc pc).skip then
    (s.modPc pc (fun q => mark { q with skip := q.skip - n })).addDebt pc (-(n : Int))
  else ((check s).modPc pc mark).addDebt pc (-(n : Int))

/-- tRFC since the last REFAB of a pseudo-channel (R204). -/
def State.refreshRule (s : State) (pc t : Nat) : State :=
  s.dramFault pc (firstRule [(9, since (s.getPc pc).refab 490 t)])

/-- REFAB, whoever places it, in a cycle (R204). -/
def State.refreshAll (s : State) (pc t : Nat) : State :=
  (s.refreshRule pc t).modPc pc (fun q => { q with refab := some t })

/-- DRAM_REFAB. -/
def execDramRefab (s : State) : Host.Outcome State Fault Refusal :=
  let pc := s.cur
  let t := s.clock
  .next ((s.refresh pc 16 (·.refreshRule pc t) (fun q => { q with refab := some t })).entryDone pc)

/-- DRAM_REFPB. -/
def execDramRefpb (bank : Nat) (s : State) : Host.Outcome State Fault Refusal :=
  let pc := s.cur
  let t := s.clock
  .next ((s.refresh pc 1 (·.refreshRule pc t) (·.setBank bank (fun k => { k with refpb := some t }))).entryDone pc)

/-- DRAM_WIN: slot n of the window comes 4n cycles on. -/
def execDramWin (slots xid : Nat) (s : State) : Host.Outcome State Fault Refusal :=
  let pc := s.cur
  let t := s.clock
  let n := (s.getPc pc).owner
  .next (((List.range slots).foldl (fun s i => s.due (t + 4 * i) rankVisible n pc (.windowSlot xid t)) s).entryDone pc)

/-! ### Window slots (R205) -/

/-- Address of the HBM unit that a booked slot of a copy moves. -/
def Copy.slotPa (k : Copy) (b : Booked) : Nat :=
  let q := k.unitPieces * b.unit
  match (if b.write then k.dst else k.src) with
  | some x => spanAt x (if b.write then k.dstOff q else k.srcOff q)
  | none => 0

/-- A column command at an address, of a command of a core: its checks, and the bank's record. -/
def State.columnOf (s : State) (pc pa : Nat) (write : Bool) (w : Reporter) : State :=
  let b := bankOf pa
  let t := s.clock
  let q := s.getPc pc
  let rule := if pcOf pa = pc then q.slotRule b (rowOf pa) t else some 11
  (s.dramFaultOf pc w rule).modPc pc (fun q =>
    { q.setBank b (fun k => if write then { k with write := some t } else { k with read := some t }) with
      slot := some (t, b) })

/-- A column command of the sequencer's own. -/
def State.column (s : State) (pc pa : Nat) (write : Bool) : State := s.columnOf pc pa write Reporter.nobody

/-- Address of the HBM unit that a shunter's slot moves, if it moves one: a reference past the extent of its span moves
nothing (R287). -/
def LeasedCmd.slotPa (r : LeasedCmd) (u : Nat) : Option Nat :=
  match r.spanA with
  | none => none
  | some sp =>
    if u < r.heads then
      if sp.extent < r.w 1 + 64 * u + min 64 (r.headBytes - 64 * u) then none else some (sp.pa (r.w 1 + 64 * u))
    else
      match r.rowIndex ((u - r.heads) / r.perRow) with
      | none => none
      | some idx =>
        if r.status.isSome || r.w 5 ≤ idx || sp.extent < r.w 2 + idx * r.w 3 + r.w 4 then none
        else some (sp.pa (r.w 2 + idx * r.w 3 + 64 * ((u - r.heads) % r.perRow)))

/-- The shunter command, with its core, that a slot has been given to. -/
def State.shuntAt (s : State) (n pc : Nat) : Option (Nat × Nat × LeasedCmd × Booked) :=
  (s.coresOf n).findSome? (fun c => (s.core c).leased.findSome? (fun p =>
    (p.2.slots.find? (fun b => b.pc = pc && b.cycle = s.clock)).map (fun b => (c, p.1, p.2, b))))

/-- An unbound window is recorded with the issuing core and the stamp of a copy of the timetable that carries its command id,
and the copy's engine; with nothing where no command carries it (R118, DEDUCED, log 141). -/
def State.unbound (s : State) (n xid : Nat) : State :=
  let k := s.copies.find? (fun p => p.2.node = some n && (p.2.srcHbm || p.2.dstHbm) && shapeXid p.2.desc = xid)
  let w := (k.map (fun p => s.reporter p.2.core p.2.stamp)).getD Reporter.nobody
  s.fatalNode n
    { verdict := 3, cause := 0x30, info := faultInfo unitTransfer ((k.map (fun p => p.2.engine % 8)).getD 0) false xid,
      cyc := s.clock, site := 0, stream := 5, core := w.core, aux := w.aux }

/-- WINDOW_SLOT: the slot moves a unit of the command it was given to; without one it is an unbound window. -/
def execWindowSlot (xid _window : Nat) (s : State) : Host.Outcome State Fault Refusal :=
  let pc := s.cur
  .next (match (s.getPc pc).owner with
    | none => s
    | some n =>
      match s.copies.findSome? (fun p => (p.2.slots.find? (fun b => b.pc = pc && b.cycle = s.clock)).map
          (fun b => (p.1, p.2, b))) with
      | some (id, k, b) =>
        if s.transfersRun (some n) then (s.columnOf pc (k.slotPa b) b.write (s.reporter k.core k.stamp)).copySlot pc id
        else s
      | none =>
        match s.shuntAt n pc with
        | some (c, id, r, b) =>
          let s := match r.slotPa b.unit with
            | some pa => s.columnOf pc pa b.write (s.reporter c 0)
            | none => s
          s.shuntSlot pc c id
        | none =>
          if s.transfersRun (some n) then s.unbound n xid else s)

/-- MISSING_WINDOW_TIMEOUT: a command 2^20 cycles after its stamp whose HBM units have not all had their slots. -/
def execMissingWindowTimeout (s : State) : Host.Outcome State Fault Refusal :=
  let id := s.cur
  let had := fun (l : List Booked) (write : Bool) => (l.filter (fun b => b.write = write && b.cycle ≤ s.clock)).length
  .next (match s.copies.find id with
    | some k =>
      if (k.srcHbm && had k.slots false < k.total) || (k.dstHbm && had k.slots true < k.total) then s.failCopy id 0x31 else s
    | none =>
      match s.cores.findSome? (fun p => (p.2.leased.find id).map (fun r => (p.1, r))) with
      | some (c, r) =>
        if had r.slots false + had r.slots true < r.units then
          s.fatal c false 0x31 3 (faultInfo unitLeased 0 false r.xid) 5 0 (BitVec.ofNat 64 r.start) 0
        else s
      | none => s)

/-! ### Refresh, segments (R206) -/

/-- REFRESH_DEBT_TICK. -/
def execRefreshDebtTick (s : State) : Host.Outcome State Fault Refusal :=
  let pc := s.cur
  let q := s.getPc pc
  .next (if q.running then (s.addDebt pc 16).due (s.clock + 4096) rankCheck q.owner pc .refreshDebtTick else s)

/-- Cycles of entries and slots of a timeline, rising. -/
def busyCycles (line : List DWord) : List Nat :=
  (line.flatMap (fun e =>
    if entryCmd e = 5 then (List.range (entrySlots e)).map (fun n => entryCyc e + 4 * n) else [entryCyc e])).mergeSort

/-- Gaps of at least 128 free cycles between busy cycles: first free cycle, and the busy one that ends it. -/
def longGaps : Nat → List Nat → List (Nat × Option Nat)
  | a, [] => [(a, none)]
  | a, b :: r => if a + 128 ≤ b then (a, some b) :: longGaps (b + 1) r else longGaps (max a (b + 1)) r

/-- End of the first 512-cycle interval from `x` on that holds no whole gap. -/
def firstClosed (x : Nat) : List (Nat × Option Nat) → Option Nat
  | [] => some (x + 512)
  | (a, b) :: r =>
    if x + 384 < a then some (x + 512)
    else match b with
      | none => none
      | some b => firstClosed (max x (b - 127)) r

/-- OPEN_INTERVAL_CHECK: an interval without an open window has ended. -/
def execOpenIntervalCheck (s : State) : Host.Outcome State Fault Refusal :=
  .next (if (s.getPc s.cur).running then s.dramFault s.cur (some 13) else s)

/-- Cycles that the banks need from a REFAB of the sequencer to the precharged state of Dreg - 64 (R204, R206). -/
def refreshSpan : Nat := 20 + 490 + 64

/-- Timelines of a segment are laid: the debt is zero, entries and slots count from Dreg. The sequencer leaves every bank
precharged and no refresh unfinished by Dreg - 64: a REFAB of its own that would reach into these cycles has given way (R206,
log 70). -/
def State.startTimelines (s : State) (n seg dreg : Nat) : State :=
  match s.nodes.find n with
  | none => s
  | some nd =>
    (s.pcs.filter (fun p => p.2.owner = some n)).foldl (fun s p =>
      let line := ((nd.pcs.find? (fun x => x.1 = p.1 && x.2.1 = seg)).map (fun x => x.2.2)).getD []
      let busy := busyCycles line
      let s := s.modPc p.1 (fun q => { q with
        refab := q.refab.filter (fun t => t + 490 + 64 ≤ dreg), debt := 0, running := true, base := dreg, busy := busy,
        line := line })
      let s := (s.nextEntry p.1).due (dreg + 4096) rankCheck (some n) p.1 .refreshDebtTick
      match firstClosed 0 (longGaps 0 busy) with
      | some e => s.due (dreg + e) rankCheck (some n) p.1 .openIntervalCheck
      | none => s) s

/-- Steps of a timeline: all but the slots of windows already open. -/
def isTimelineStep : Instr → Bool
  | .dramAct .. | .dramPre _ | .dramPrea | .dramRefab | .dramRefpb _ | .dramWin .. | .refreshDebtTick
  | .openIntervalCheck => true
  | _ => false

/-- Slots given to copies on some pseudo-channels that no window will bring any more are theirs no longer: their units wait for
windows to come (R205). -/
def State.dropSlots (s : State) (mine : List Nat) : State :=
  let stays := fun (b : Booked) => !mine.contains b.pc || b.cycle ≤ s.clock ||
    s.agenda.any (fun d => d.who = b.pc && d.cycle = b.cycle && (match d.instr with
      | .windowSlot .. => true
      | _ => false))
  { s with copies := s.copies.map (fun (p : Nat × Copy) => (p.1, { p.2 with slots := p.2.slots.filter stays })) }

/-- The sequencer takes the pseudo-channels of a timetable over: at the last POINT of a region what its timelines still hold is
dropped, and slots of a window that is open come as they would, even where they meet the PREA 64 cycles on; the spec says of
neither what becomes of it (DESIGN CHOICE, log 142). -/
def State.endTimelines (s : State) (n : Nat) : State :=
  let mine := (s.pcs.filter (fun p => p.2.owner = some n)).map Prod.fst
  let s := s.dropSlots mine
  let s := { s with agenda := s.agenda.filter (fun d => !(mine.contains d.who &&
    (isTimelineStep d.instr && d.node = some n || d.instr = .sequencerRefresh))) }
  mine.foldl (fun s pc =>
    ((s.modPc pc (fun q => { q with running := false, line := [], busy := [] })).due (s.clock + 64) rankCheck none pc
      .sequencerRefresh).laterAt 0 rankWalker pc .openWindowRequest) s

/-- First cycle from `now` on in which every bank may be precharged. -/
def PseudoChannel.preaAt (q : PseudoChannel) (now : Nat) : Nat :=
  let after := fun (e : Option Nat) (n : Nat) => (e.map (· + n)).getD 0
  (q.banks.map (fun p => max (after p.2.act 46) (max (after p.2.write 22) (after p.2.read 6)))).foldl max
    (max now (after q.refab 490))

/-- SEQUENCER_REFRESH: between segments every bank is precharged, and refreshed tRP later, at tREFI and at the first legal
cycle, but not in the last cycles before a departure, nor in a hold, which refreshes twice (R206, R208). -/
def execSequencerRefresh (s : State) : Host.Outcome State Fault Refusal :=
  let pc := s.cur
  let q := s.getPc pc
  let t := s.clock
  .next (if q.owner.isNone || (q.running && q.base < t + refreshSpan) then s
    else if (s.holdOf pc).isSome then s.due (t + 4096) rankCheck none pc .sequencerRefresh
    else match q.serving with
      | some x => s.due (max (x.1 + 66) (t + 1)) rankCheck none pc .sequencerRefresh
      | none =>
        if t < q.preaAt t then s.due (q.preaAt t) rankCheck none pc .sequencerRefresh
        else ((s.closeRows pc).refreshAll pc (t + 20)).due (t + 4096) rankCheck none pc .sequencerRefresh)

/-! ### Open windows (R207) -/

/-- First cycle from `now` on in which a row of a bank may open (Table 11.7). -/
def PseudoChannel.actFrom (q : PseudoChannel) (b now : Nat) : Nat :=
  let k := q.bank b
  let after := fun (e : Option Nat) (n : Nat) => (e.map (· + n)).getD 0
  let rrd := (q.acts.map (fun a => a.1 + (if groupOf a.2 = groupOf b then 5 else 3))).foldl max now
  let faw := (q.acts[3]?.map (fun a => a.1 + 24)).getD 0
  max (max rrd faw) (max (max (after k.pre 20) (after k.act 66)) (max (after q.refab 490) (after k.refpb 224)))

/-- The open windows, rising: first cycle, and the one by which a request must have left its bank precharged. In a hold they
lie between the sequencer's own commands (log 70). -/
def PseudoChannel.windows (q : PseudoChannel) (hold : Option Nat) : List (Nat × Option Nat) :=
  match hold with
  | some h => [(h + 618, some (h + 4224)), (h + 4714, some (h + 7936)), (h + Config.holdCycles, none)]
  | none =>
    if !q.running then [(0, none)]
    else (0, some (q.base - 64)) ::
      (longGaps 0 q.busy).map (fun g => (q.base + g.1 + 8, g.2.map (fun b => q.base + b - 8)))

/-- Cycle in which a request for a bank may begin, as far as it is known now, and whether that is certain; otherwise the
cycle in which to look again. A request takes tRC, 66 cycles, from its ACT to its bank precharged. -/
def PseudoChannel.openAt (q : PseudoChannel) (hold : Option Nat) (bank now : Nat) : Bool × Option Nat :=
  let a := q.actFrom bank now
  let fits := (q.windows hold).any (fun w => w.1 ≤ a && w.2.all (a + 66 ≤ ·))
  if fits && (q.bank bank).row.isNone && hold.all (fun h => a < h + Config.holdCycles) then (a = now, some a)
  else if !q.running && hold.isNone then (false, some (now + 66))
  else (false, ((q.windows hold).find? (fun w => now < w.1)).map Prod.fst)

/-- A free byte string (log 3). -/
def State.freeBytes (s : State) (n : Nat) : List Byte × State :=
  ((List.range n).map (fun i => (Config.freeValue (s.fresh + i)).setWidth 8), { s with fresh := s.fresh + n })

/-- A host piece performs: at its memory, or at an absent stack, whose reads are poisoned and whose writes are
dropped (R317, R331). A read sees the writes of earlier cycles (R225). -/
def State.performHost (s : State) (id : Nat) : State :=
  match s.hostOps.find id with
  | none => s
  | some o =>
    let s := { s with hostOps := s.hostOps.drop id }
    if tierOf o.pa = some .hbm && (s.getPc (pcOf o.pa)).absent then
      if o.write then s
      else
        let f := s.freeBytes o.n
        { f.2 with replies := (o.pa, ⟨f.1, List.range (o.n / 4 + 1)⟩) :: f.2.replies }
    else if o.write then s.frontWrite (hostAgent + id) o.pa o.bytes false
    else { s with replies := (o.pa, ⟨s.loadBytes o.pa o.n, poisonIn s.bad o.pa o.n⟩) :: s.replies }

/-- The turn of the oldest host piece (the model's own step). -/
def hostTurnStep : Instr := .hostMemoryRead 0 0

/-- The oldest host piece has its turn in the next cycle, if it has asked for none yet: pieces enter the front buffers in link
order (R225, R317). In boot phase 0 nothing is served. -/
def State.hostPump (s : State) : State :=
  match s.hostOps with
  | [] => s
  | (id, o) :: _ =>
    if s.host.phase = 0 || s.agenda.any (fun d => d.instr = hostTurnStep) ||
        (tierOf o.pa = some .hbm && (s.getPc (pcOf o.pa)).queue.any (fun r => r.core = hostAgent + id)) then s
    else s.laterAt 1 (if o.write then rankStore else rankRead) 0 hostTurnStep

/-- The oldest host piece performs in a free cycle of its depot; one for HBM asks for an open window and holds those behind it
(R198, R207, R317). -/
def State.hostTurn (s : State) : State :=
  match s.hostOps with
  | [] => s
  | (id, o) :: _ =>
    if s.host.phase = 0 then s
    else
      let t := s.untimedTurn (hostAgent + id, 0) o.pa
      if t.1 then (t.2.performHost id).hostPump else t.2.hostPump

/-- A request is over: the next one may begin. -/
def State.requestDone (s : State) (pc : Nat) : State :=
  (s.modPc pc (fun q => { q with serving := none, queue := q.queue.drop 1 })).laterAt 0 rankRead pc .openWindowRequest

/-- The access of a driver that a request serves. -/
def State.requested (s : State) (r : Request) : Option Access :=
  if copyAgent ≤ r.core then none else (s.core r.core).acc.find? (fun a => a.id = r.access)

/-- A request performs: a host piece, a unit of a copy with a host-tier side, an entry of a walk, or an access of a driver. -/
def State.serveRequest (s : State) (r : Request) : State :=
  if hostAgent ≤ r.core then (s.performHost (r.core - hostAgent)).hostPump
  else if r.core = copyAgent then
    match s.copies.find r.access with
    | some k => if s.transfersRun k.node then s.hostUnit r.access k else s
    | none => s
  else if r.core = walkAgent then
    if (s.core r.access).walk.head? = some r.pa then
      (s.modCore r.access (fun k => { k with walk := k.walk.drop 1 })).laterAt 1 rankVisible r.access .xpinComplete
    else s
  else match s.requested r with
    | some a =>
      if !a.queued || a.performed then s
      else if a.walk.isEmpty then s.performAccess r.core a
      else (s.modAccess r.core a.id (fun b => { b with walk := b.walk.drop 1, queued := false })).laterAt 1 a.kind.rank r.core
        (a.kind.event a.id)
    | none => s

/-- Whether the column command of a request would come in the cycle of another write of its bytes: an AMO waits. -/
def State.requestClash (s : State) (r : Request) : Bool := (s.requested r).any (fun a => a.walk.isEmpty && s.amoClash a)

/-- Whether the column command of a request writes. -/
def State.requestWrites (s : State) (r : Request) : Bool :=
  if hostAgent ≤ r.core then (s.hostOps.find (r.core - hostAgent)).any (·.write)
  else if r.core = copyAgent then (s.copies.find r.access).any (fun k => (k.units.find k.written.length).isSome)
  else (s.requested r).any (fun a => a.walk.isEmpty && a.kind ≠ .load)

/-- Place of a request within the cycle of its column command. -/
def State.requestRank (s : State) (r : Request) : Nat :=
  if s.requestWrites r then (if r.core = copyAgent then rankCopy else rankStore) else rankRead

/-- OPEN_WINDOW_REQUEST: the first request of a pseudo-channel gets an ACT when its bank and an open window allow it, its
column command, in which it performs, 20 cycles on, a PRE at 46, and is over at 66 (R207). -/
def execOpenWindowRequest (s : State) : Host.Outcome State Fault Refusal :=
  let pc := s.cur
  let q := s.getPc pc
  let t := s.clock
  .next (match q.serving, q.queue with
    | _, [] => s.modPc pc (fun q => { q with serving := none })
    | some (a, b, false), r :: _ =>
      let rank := s.requestRank r
      if t < a + 20 || s.agenda.any (fun d => d.who = pc && d.cycle = t && d.rank = rank && d.instr = .openWindowRequest) then s
      else if s.requestClash r then s.due (t + 1) rank none pc .openWindowRequest
      else
        let s := (s.column pc r.pa (s.requestWrites r)).modPc pc (fun q => { q with serving := some (a, b, true) })
        (s.serveRequest r).due (max (a + 46) (t + 22)) rankRead none pc .openWindowRequest
    | some (a, b, true), _ :: _ =>
      if t < a + 46 then s
      else if t < a + 66 then
        (if (q.bank b).row.isSome then s.closeRow pc b else s).due (a + 66) rankRead none pc .openWindowRequest
      else s.requestDone pc
    | none, r :: _ =>
      if s.host.phase.toNat ≤ 2 then s
      else if q.absent then (s.serveRequest r).requestDone pc
      else
        match q.openAt (s.holdOf pc) (bankOf r.pa) t with
        | (true, _) =>
          ((s.openRow pc (bankOf r.pa) (rowOf r.pa)).modPc pc (fun q => { q with
            serving := some (t, bankOf r.pa, false) })).due (t + 20) (s.requestRank r) none pc .openWindowRequest
        | (false, some w) => s.due (max w (t + 1)) rankRead none pc .openWindowRequest
        | (false, none) => s)

/-! ### Holds (R208) -/

/-- A hold begins: each owned pseudo-channel moves its timeline by 8,192 cycles. Its open rows are recorded, closed,
refreshed twice, opened again, and the next two refreshes of the compiled timeline will be skipped. The sequencer's own
commands come at their cycles or at the first legal one after them (log 70). -/
def State.holdDram (s : State) (n : Nat) : State :=
  let h := s.clock
  (s.pcs.filter (fun p => p.2.owner = some n)).foldl (fun s p =>
    let q := p.2
    let open_ := q.banks.filterMap (fun b =>
      if q.serving.any (fun x => x.2.1 = b.1) then none else b.2.row.map (fun r => (b.1, r)))
    let first := max (h + 128) ((q.refab.map (· + 490)).getD 0)
    let s := s.modPc p.1 (fun q => { q with
      base := if q.running then q.base + Config.holdCycles else q.base, recorded := open_, skip := q.skip + 32 })
    let s := s.due (q.preaAt h) rankVisible none p.1 .dramPrea
    let s := (s.due first rankVisible none p.1 .dramRefab).due (h + 4224) rankVisible none p.1 .dramRefab
    (open_.zipIdx).foldl (fun s x => s.due (h + 7936 + 6 * x.2) rankVisible none p.1 (.dramAct x.1.1 x.1.2)) s) s

end Sys2Proof.Machine
end

