-- ==== Sys2Proof/Machine/Collective.lean ====
section
/-! DEFINITION. Collectives: COLL, ranks and chunks, slots and flits, the reduction, the flag word and the final
write (06, R121; 20, R309 to R315). -/

namespace Sys2Proof.Machine

/-! ### COLL (R121) -/

/-- COLL: stamp in g[a], descriptor at g[b]; VSTAT.VNF is that of the issue. -/
def execColl (a b : BitVec 5) (s : State) : Host.Outcome State Fault Refusal :=
  .next (s.notOnBox (
    s.sendDesc (.coll a b) 2 (s.readG b).toNat 8 32 (s.readG a) (BitVec.ofNat 64 s.clock) 0 [] s.me.vec.vnf id))

/-- Field ranges of the descriptor (Table 6.7). -/
def collDescOk (ws : List Word) : Bool :=
  let w := fun i => ws.getD i 0
  bits (w 2) 1 0 = 0 && onlyBits (w 3) 0x1F3F3F3F && bits (w 3) 27 26 ≠ 3 && bits (w 3) 25 24 ≠ 3 &&
    (w 4).toNat % 256 = 0 && 256 ≤ (w 4).toNat && (w 4).toNat ≤ 2 ^ 31 && onlyBits (w 5) 0xFFFF && w 6 = 0 && w 7 = 0

/-- Whether a span covers bytes and may be used: not the host tier, which only copies reach (R319). -/
def collSpanOk (sp : Option Span) (off n : Nat) (write : Bool) : Bool :=
  match sp with
  | none => false
  | some x => (!write || x.write) && off + n ≤ x.extent && !x.meets .host

/-- Length of a flit's payload (R303). -/
def flitBytes : Nat := 248

/-- Chunk size, and chunk j of a bucket: first byte and the byte after its last (R312). -/
def Bucket.ranks (k : Bucket) : Nat := k.members.length
def Bucket.chunkSize (k : Bucket) : Nat := 256 * ((k.bytes + 256 * k.ranks - 1) / (256 * max 1 k.ranks))
def Bucket.lo (k : Bucket) (j : Nat) : Nat := min (j * k.chunkSize) k.bytes
def Bucket.hi (k : Bucket) (j : Nat) : Nat := min ((j + 1) * k.chunkSize) k.bytes

/-- Shift of a timetable's time against the Station Clock. -/
def State.nodeShift (s : State) (n : Nat) : Nat := match s.coresOf n with
  | [] => 0
  | c :: _ => (s.core c).place.hshift

/-- Members in ascending order of package, Y, X. -/
def insertMember (m : Member) : List Member → List Member
  | [] => [m]
  | x :: r => if key m < key x then m :: x :: r else x :: insertMember m r
where
  /-- Place of a participant within the region. -/
  key (m : Member) : Nat := (m.pkg * 4096 + m.y) * 4096 + m.x

/-- Numbers of buckets start here: below stand the ports, whose number is the subject of a flit that arrives, and 32 more the
subject of one that the receiver buffers. -/
def bucketIds : Nat := 64

/-- A schedule fault of a bucket: fabric slot miss (R315). -/
def State.slotMiss (s : State) (n : Nat) (k : Option Bucket) : State :=
  s.fatalNode n
    { verdict := 3, cause := causeSlotMiss, info := faultInfo unitCollective 0 false ((k.map (·.group)).getD 0),
      cyc := s.clock, site := 0, stream := 5, core := 0, aux := BitVec.ofNat 64 ((k.map (·.stamp)).getD 0) }

/-- Station Clock cycle of a bucket's stamp (R281). -/
def State.stampClock (s : State) (k : Bucket) : Nat := if k.free then k.stamp else k.stamp + s.nodeShift k.node

/-- A participant enters its bucket; its timetable's first COLL of a bucket makes it. -/
def State.joinBucket (s : State) (n : Nat) (k : Bucket) : State :=
  match s.fabric.buckets.find? (fun p => p.2.node = n && p.2.group = k.group && p.2.bseq = k.bseq) with
  | some (id, b) =>
    if s.stampClock b ≠ s.stampClock k || b.bytes ≠ k.bytes || b.kind ≠ k.kind || b.fmt ≠ k.fmt || b.started then s.slotMiss n (some b)
    else { s with fabric := { s.fabric with
      buckets := s.fabric.buckets.put id { b with members := k.members.foldl (fun l m => insertMember m l) b.members } } }
  | none =>
    let id := bucketIds + s.fresh
    let at_ := s.stampClock k
    let s := { s with fresh := s.fresh + 1, fabric := { s.fabric with buckets := s.fabric.buckets.put id k } }
    (s.due at_ rankUnit (some n) id .bucketSendTimeout).due (at_ + Config.windowLimit) rankUnit (some n) id .bucketSendTimeout

/-- The chunk of a participant of a group whose ranks an earlier bucket has fixed: offset and length; none while the rank
is not known (R121, R312). -/
def State.ownChunk (s : State) (n group bytes : Nat) (me : Nat × Nat × Nat) : Option (Nat × Nat) :=
  (s.fabric.groups.find? (fun g => g.1 = n && g.2.1 = group)).bind (fun g =>
    (g.2.2.findIdx? (· = me)).map (fun r =>
      let c := 256 * ((bytes + 256 * g.2.2.length - 1) / (256 * g.2.2.length))
      (min (r * c) bytes, min ((r + 1) * c) bytes - min (r * c) bytes)))

/-- Bytes of the source and of the destination that a participant's spans must cover: all of them, or its own chunk, as far
as its rank is known (R121). -/
def collSides (kind bytes : Nat) (own : Option (Nat × Nat)) : (Nat × Nat) × (Nat × Nat) :=
  let c := own.getD (0, 0)
  (if kind = 2 then c else (0, bytes), if kind = 1 then c else (0, bytes))

/-- COLL after its descriptor read: field ranges, stamp, spans; then the bucket goes to the collective unit. The
own chunk of a participant whose rank is not known before the stamp is checked there (DEDUCED, log 74). -/
def finishColl (o : DescOp) (s : State) : State :=
  let ws := o.words.getRange 0 8
  let w := fun i => (ws.getD i 0).toNat
  let issue := if o.free then o.vb.toNat else o.issue
  let k := s.me
  let kind := bits (ws.getD 3 0) 25 24
  let src := k.spanAt (bits (ws.getD 3 0) 5 0)
  let dst := k.spanAt (bits (ws.getD 3 0) 13 8)
  let fsp := k.spanAt (bits (ws.getD 3 0) 21 16)
  let bytes := w 4
  let group := w 5
  let x := k.csr.coreix
  let me := ((x.extractLsb' 20 4).toNat, (x.extractLsb' 12 5).toNat, (x.extractLsb' 0 12).toNat)
  let sides := collSides kind bytes (k.place.node.bind (fun n => s.ownChunk n group bytes me))
  if !collDescOk ws then s.opFault o causeOperand 0
  else if o.va.toNat < issue + 32 then s.opFault o causeLateStamp 0
  else if !(collSpanOk src (w 0 + sides.1.1) sides.1.2 false && collSpanOk dst (w 1 + sides.2.1) sides.2.2 true &&
      collSpanOk fsp (w 2) 4 true) then
    s.opFault o causeSpan 0
  else match k.place.node with
  | none => s
  | some n =>
    let count := (k.colls.find group).getD 0
    let m : Member := {
      pkg := me.1, y := me.2.1, x := me.2.2, core := some s.cur, pc := o.pc,
      flag := (ws.getD 3 0).getLsbD 28 && o.flag, soff := w 0, doff := w 1, foff := w 2, src := src, dst := dst, fspan := fsp,
      spans := [bits (ws.getD 3 0) 5 0, bits (ws.getD 3 0) 13 8, bits (ws.getD 3 0) 21 16] }
    let b : Bucket := {
      node := n, group := group, bseq := count % 256, stamp := o.va.toNat, free := o.free, bytes := bytes, kind := kind,
      fmt := bits (ws.getD 3 0) 27 26, members := [m], contrib := [], contribBad := [], result := [], resultBad := [],
      started := false, ownRead := false, sent := [], got := [], ends := [], recv := [], anf := false, flagIn := false, cnfIn := false,
      flagBad := false }
    (s.modMe (fun k => { k with colls := k.colls.put group (count + 1) })).joinBucket n b

/-! ### Slots and flits (R309, R310, R312) -/

/-- A flit in the order of R312: phase (0 contributions, 1 gathering), rank it goes to, offset, rank it comes from. -/
structure FlitKey where
  phase : Nat
  dest : Nat
  off : Nat
  src : Nat
  deriving DecidableEq, Repr

/-- Offsets of the flits of chunk j. -/
def Bucket.starts (k : Bucket) (j : Nat) : List Nat :=
  (List.range ((k.hi j - k.lo j + flitBytes - 1) / flitBytes)).map (fun i => k.lo j + flitBytes * i)

/-- Length of the flit at an offset of chunk j. -/
def Bucket.flitLen (k : Bucket) (j off : Nat) : Nat := min flitBytes (k.hi j - off)

def Bucket.member (k : Bucket) (r : Nat) : Option Member := k.members[r]?
def Bucket.local_ (k : Bucket) (r : Nat) : Bool := (k.member r).any (fun m => m.core.isSome)

/-- Every flit of a bucket, in order; a group of more than 1,024 ranks has none (R312, log 123). -/
def Bucket.allFlits (k : Bucket) : List FlitKey :=
  let rs := if k.ranks ≤ 1024 then List.range k.ranks else []
  let first := if k.kind = 2 then []
    else rs.flatMap (fun d => (k.starts d).flatMap (fun o => (rs.filter (fun r => r ≠ d)).map (fun r => ⟨0, d, o, r⟩)))
  let second := if k.kind = 1 then []
    else rs.flatMap (fun d => (rs.filter (fun j => j ≠ d)).flatMap (fun j => (k.starts j).map (fun o => ⟨1, d, o, j⟩)))
  first ++ second

/-- Every flit that this package sends for a bucket, in order. -/
def Bucket.flits (k : Bucket) : List FlitKey := k.allFlits.filter (fun f => k.local_ f.src)

/-- Every flit that this package receives from another one for a bucket, in order. -/
def Bucket.incoming (k : Bucket) (pkg : Nat) : List FlitKey :=
  k.allFlits.filter (fun f => k.local_ f.dest && !k.local_ f.src && (k.member f.src).any (fun m => m.pkg = pkg))

/-- Number of the table of the internal exchange. -/
def exchange : Nat := 31

/-- Port through which a flit leaves. -/
def Bucket.port (k : Bucket) (f : FlitKey) : Nat :=
  match k.member f.dest with
  | some m => if m.core.isSome then exchange else Config.route m.pkg
  | none => exchange

/-- Word i of a transmit table of a timetable. -/
def Node.slotWord (nd : Node) (port i : Nat) : Word :=
  ((nd.slots.find? (fun p => p.1 = port)).map (fun p => p.2.getD i 0)).getD 0

/-- Whether entry i carries a group. -/
def Node.slotFor (nd : Node) (port group i : Nat) : Bool :=
  let w := nd.slotWord port i
  w.getLsbD 31 && !w.getLsbD 30 && bits w 15 0 = group

/-- The first slot of a group through a port from cycle `t` of timetable time on, looked for over one frame. -/
def Node.slotAfter (nd : Node) (port group t : Nat) : Option Nat :=
  let first := (t + 255) / 256
  ((List.range' first 4096).find? (fun i => nd.slotFor port group (i % 4096))).map (256 * ·)

/-- The next slot of a group through a port is placed on the agenda. -/
def State.placeSlot (s : State) (n port group t : Nat) : State :=
  match s.nodes.find n with
  | none => s
  | some nd =>
    match nd.slotAfter port group t with
    | none => s
    | some x =>
      let i : Instr := .fabricSlot port (x / 256 % 4096)
      let at_ := x + s.nodeShift n
      if s.agenda.any (fun d => d.who = n && d.cycle = at_ && d.instr = i) then s else s.due at_ rankUnit (some n) n i

/-- A bucket changed. -/
def State.modBucket (s : State) (id : Nat) (f : Bucket → Bucket) : State :=
  match s.fabric.buckets.find id with
  | none => s
  | some k => { s with fabric := { s.fabric with buckets := s.fabric.buckets.put id (f k) } }

/-- Flits that leave through a port and are not yet sent. -/
def Bucket.unsent (k : Bucket) (port : Nat) : List FlitKey :=
  (k.flits.filter (fun f => k.port f = port)).drop ((k.sent.find port).getD 0)

/-- A reduced chunk can leave in a slot whose first flit leaves no earlier than its reduction ends (DEDUCED, log 55). -/
def Bucket.readyAt (k : Bucket) (f : FlitKey) (t : Nat) : Bool :=
  f.phase = 0 || k.kind = 2 || (match k.ends.find f.src with
    | some e => decide (e ≤ t)
    | none => false)

/-- The flits of a bucket that a slot at S sends, after `used` of its thirteen places. -/
def Bucket.inSlot (k : Bucket) (port start used : Nat) : List (FlitKey × Nat) :=
  (((k.unsent port).take (13 - used)).zipIdx used).takeWhile (fun p => k.readyAt p.1 (start + 24))

/-- Header and target of a flit: the rank it goes to, and 65536 times the rank it comes from. -/
def Bucket.flit (k : Bucket) (f : FlitKey) (payload : List Byte) : Flit :=
  ⟨BitVec.ofNat 16 k.group, BitVec.ofNat 8 k.bseq, if f.phase = 0 then 0 else if k.kind = 2 then 2 else 1, 0,
    BitVec.ofNat 32 f.off, payload, false⟩
def Bucket.flitStep (k : Bucket) (f : FlitKey) (payload : List Byte) : Instr :=
  let x := k.flit f payload
  let t := f.dest + 65536 * f.src
  if f.phase = 0 then .contributionFlit k.group t x
  else if k.kind = 2 then .gatheredDataFlit k.group t x
  else .reducedResultFlit k.group t x

/-- Whether every flit of a bucket has been sent. -/
def Bucket.allSent (k : Bucket) : Bool := k.flits.all (fun f => !(k.unsent (k.port f)).contains f)

/-! ### Time slots (R306, R308) -/

/-- A port changed. -/
def State.modPort (s : State) (p : Nat) (f : Port → Port) : State :=
  { s with fabric := { s.fabric with ports := vecMod s.fabric.ports p f } }
def State.getPort (s : State) (p : Nat) : Port := vecGet s.fabric.ports Port.reset p

/-- Time messages that a port sends as control flits of KIND 4 (the model's own numbers). -/
def ptpSyncOut : Nat := 1
def ptpDelayReqOut : Nat := 2
def ptpDelayRespOut : Nat := 3

/-- A time message waits for a guard band of a port (R310). -/
def State.sendTime (s : State) (port message time : Nat) : State :=
  s.modPort port (fun p => { p with notices := p.notices ++ [(4, message, time)] })

/-- First time slot of a transmit table. -/
def Node.timeSlot (nd : Node) (port : Nat) : Option Nat :=
  (List.range 4096).find? (fun i => let w := nd.slotWord port i; w.getLsbD 31 && w.getLsbD 30)

/-- The next time slot of a port, from cycle `t` of timetable time on, is placed on the agenda: one in each frame. -/
def State.placeTime (s : State) (n port t : Nat) : State :=
  match s.nodes.find n with
  | none => s
  | some nd =>
    match nd.timeSlot port with
    | none => s
    | some i =>
      let x := (t + 2 ^ 20 - 1 - 256 * i) / 2 ^ 20 * 2 ^ 20 + 256 * i
      if s.agenda.any (fun d => d.who = n && d.instr = Instr.fabricSlot port i) then s
      else s.due (x + s.nodeShift n) rankUnit (some n) n (.fabricSlot port i)

/-- Whether a node holds its ports. -/
def Node.holdsPorts (nd : Node) : Bool :=
  nd.state = .loading || nd.state = .running || nd.state = .saving || nd.state = .restoring

/-- A time slot of a port: a Delay_Req goes out, so that every port measures its offset once per frame; toward a child the
package acts as a master too and sends a Sync (R306, R308). -/
def State.timeSlotBegins (s : State) (n port i : Nat) (nd : Node) : State :=
  let tt := s.clock - s.nodeShift n
  if !nd.holdsPorts then s
  else
    let s := if tt % 2 ^ 20 ≠ 256 * i then s
      else
        let s := s.sendTime port ptpDelayReqOut 0
        if (s.getPort port).parent then s else s.sendTime port ptpSyncOut 0
    s.placeTime n port (tt + 1)

/-- FABRIC_SLOT of a timetable's port: a time slot, or the next flits of its buckets leave, oldest bucket first. -/
def execFabricSlot (port i : Nat) (s : State) : Host.Outcome State Fault Refusal :=
  let n := s.cur
  .next (match s.nodes.find n with
    | none => s
    | some nd =>
      let group := bits (nd.slotWord port i) 15 0
      let start := s.clock - s.nodeShift n
      if nd.timeSlot port = some i then s.timeSlotBegins n port i nd
      else if !nd.slotFor port group i || !s.transfersRun (some n) then s
      else if start % 2 ^ 20 ≠ 256 * i then s.placeSlot n port group start
      else
        let mine := s.fabric.buckets.filter (fun p =>
          p.2.node = n && p.2.group = group && p.2.started && p.2.stamp + 64 ≤ start && !(p.2.unsent port).isEmpty)
        let r := mine.foldl (fun (a : State × Nat) p =>
          let fs := p.2.inSlot port start a.2
          let s := fs.foldl (fun s f => s.due (s.clock + 24 + 16 * f.2) rankUnit (some n) p.1 (p.2.flitStep f.1 [])) a.1
          let s := s.modBucket p.1 (fun k => { k with sent := k.sent.put port ((k.sent.find port).getD 0 + fs.length) })
          let s := match s.fabric.buckets.find p.1, fs.getLast? with
            | some k, some l =>
              if k.allSent && k.kind ≠ 1 && k.members.all (fun m => m.core.isSome) then
                s.due (s.clock + 280 + 16 * l.2) rankRead (some n) p.1 .collectiveFinalWrite
              else s
            | _, _ => s
          (s, a.2 + fs.length)) (s, 0)
        if r.1.fabric.buckets.any (fun p => p.2.node = n && p.2.group = group && !(p.2.unsent port).isEmpty) then
          r.1.placeSlot n port group (start + 256)
        else r.1)

/-- Slots of a node's tables. -/
def isSlotStep : Instr → Bool
  | .fabricSlot .. => true
  | _ => false

/-- The timetable time of a node starts anew at a departure, at which its shift was `old`: what its buckets hold in that time
keeps its Station Clock cycle, and its slots stand where the frames of the new time have them (R281, R309). -/
def State.reclock (s : State) (n old : Nat) : State :=
  let new := s.nodeShift n
  if old = new then s
  else
    let f := fun (t : Nat) => t + old - new
    let s := { s with
      fabric := { s.fabric with buckets := s.fabric.buckets.map (fun (p : Nat × Bucket) =>
        if p.2.node = n && !p.2.free then
          (p.1, { p.2 with stamp := f p.2.stamp, ends := p.2.ends.map (fun (e : Nat × Nat) => (e.1, f e.2)) })
        else p) },
      agenda := s.agenda.filter (fun (d : Due) => !(d.node = some n && d.who = n && isSlotStep d.instr)) }
    match s.nodes.find n with
    | none => s
    | some nd =>
      let s := (nd.slots.map Prod.fst).foldl (fun s p => s.placeTime n p (s.clock - new)) s
      (s.fabric.buckets.filter (fun p => p.2.node = n && p.2.started)).foldl (fun s b =>
        (nd.slots.filter (fun p => !(b.2.unsent p.1).isEmpty)).foldl (fun s p =>
          s.placeSlot n p.1 b.2.group (max (s.clock - new) (b.2.stamp + 64))) s) s

/-- The own chunk of a participant lies outside its span, or where it may not write (R121). -/
def Bucket.chunkBad (k : Bucket) (p : Member × Nat) : Bool :=
  p.1.core.isSome && k.lo p.2 < k.hi p.2 &&
    ((k.kind = 2 && !collSpanOk p.1.src (p.1.soff + k.lo p.2) (k.hi p.2 - k.lo p.2) false) ||
      (k.kind = 1 && !collSpanOk p.1.dst (p.1.doff + k.lo p.2) (k.hi p.2 - k.lo p.2) true))

/-- Whether a driver can still take a fault of a COLL that it has issued: it is in free mode, and neither has its stream ended
nor is its departure proposed. -/
def State.mayTrap (s : State) (c : Nat) : Bool :=
  let k := s.core c
  !k.timed && (match k.drv.hold with
    | some .exited | some .halted | some .stopped | some .saved => false
    | some .depart => (s.nodeOf c).any (fun nd => 0 < nd.arrived && nd.arrived < ((k.place.node.map s.coresOf).getD []).length)
    | _ => true)

/-- The fault of a COLL whose own chunk shows at the stamp to be bad: as a precise fault, the core leaving the wait it is in and
its COLL counted no more; where that can not be, as a fault that stops the timetable (R121, DEDUCED, log 74). -/
def State.chunkFault (s : State) (k : Bucket) (m : Member) : State :=
  let c := m.core.getD 0
  if s.mayTrap c then
    let s := if (s.core c).place.arrived then s.modNodeOf c (fun nd => { nd with arrived := nd.arrived - 1 }) else s
    ((s.leaveWait c).modCore c (fun q => { q with colls := q.colls.put k.group ((q.colls.find k.group).getD 0 - 1) })).precise c
      causeSpan m.pc 0
  else s.fatal c true causeSpan 3 (faultInfo unitDriver 0 false m.pc.toNat) 0 m.pc (BitVec.ofNat 64 k.stamp) 0

/-- The bucket starts at its stamp: the participants told by then, on whatever package, are ranked; own chunks are checked, and
the bucket goes on without those that fault; the first slots are placed. From here its stamp counts timetable time. -/
def State.startBucket (s : State) (id : Nat) (k : Bucket) : State :=
  let mine : Remote → Bool := fun r => r.node = k.node && r.group = k.group && r.bseq = k.bseq
  let told := s.fabric.remote.filter mine
  let tt := s.clock - s.nodeShift k.node
  let k := { k with
    members := told.foldl (fun l (r : Remote) => insertMember r.member l) k.members, stamp := tt, free := false, started := true }
  let bad := (k.members.zipIdx.filter k.chunkBad).map Prod.fst
  let k := { k with members := k.members.filter (fun m => !bad.contains m) }
  let here := k.members.any (fun m => m.core.isSome)
  let s := { s with fabric := { s.fabric with
    buckets := if here then s.fabric.buckets.put id k else s.fabric.buckets.drop id,
    remote := s.fabric.remote.filter (fun r => !mine r),
    groups := if !here || s.fabric.groups.any (fun g => g.1 = k.node && g.2.1 = k.group) then s.fabric.groups
              else (k.node, k.group, k.members.map (fun (m : Member) => (m.pkg, m.y, m.x))) :: s.fabric.groups } }
  let s := bad.foldl (fun s m => s.chunkFault k m) s
  if !here then s
  else if told.any (fun r => r.stamp ≠ tt || r.bytes ≠ k.bytes) then s.slotMiss k.node (some k)
  else match s.nodes.find k.node with
  | none => s
  | some nd => nd.slots.foldl (fun s p => s.placeSlot k.node p.1 k.group (k.stamp + 64)) s

/-- BUCKET_SEND_TIMEOUT: at the stamp of a bucket its time begins; 2^20 cycles on, flits not yet sent are a slot
miss (R315). -/
def execBucketSendTimeout (s : State) : Host.Outcome State Fault Refusal :=
  let id := s.cur
  .next (match s.fabric.buckets.find id with
    | none => s
    | some k =>
      if !s.transfersRun (some k.node) then s
      else if !k.started then s.startBucket id k
      else if k.ranks < 2 || 1024 < k.ranks || !k.allSent then s.slotMiss k.node (some k)
      else s)

/-! ### Flits perform (R310, R313 to R315) -/

/-- Bytes that a rank's source holds at an offset of the bucket. -/
def State.memberBytes (s : State) (k : Bucket) (r off n : Nat) : Payload :=
  match (k.member r).bind (fun m => m.src.map (fun sp => (sp, m.soff))) with
  | some (sp, o) => s.spanPayload sp (o + off) n
  | none => ⟨List.replicate n 0, []⟩

/-- Where a contribution of a rank stands. -/
def contribAt (r off : Nat) : Nat := 2 ^ 32 * r + off

/-- Poisoned words marked, by number of the first byte's word. -/
def markBad (m : Cells 1) (a : Nat) (poison : List Nat) : Cells 1 :=
  poison.foldl (fun (m : Cells 1) w => m.set (a / 4 + w) 1) m
def badWords (m : Cells 1) (a n : Nat) : List Nat :=
  ((wordsIn a n).filter (fun w => m.get w ≠ 0)).map (· - a / 4)

/-- What a KIND 0 to 2 flit of a bucket is: the target gives the rank it goes to, and 65536 times the rank it comes from. -/
def flitKey (kind target : Nat) (f : Flit) : FlitKey := ⟨min kind 1, target % 65536, f.off.toNat, target / 65536⟩

/-- Number of flits that have come from the package of a rank. -/
def Bucket.came (k : Bucket) (r : Nat) : Nat := (((k.member r).map (·.pkg)).bind k.recv.find).getD 0

/-- Whether flits from the package of a rank are still to come; of a flag word, whether it is. -/
def Bucket.awaits (k : Bucket) (kind r : Nat) : Bool :=
  if kind = 3 then !k.flagIn else k.came r < (k.incoming (((k.member r).map (·.pkg)).getD 0)).length

/-- The bucket that a flit belongs to: the one it is sent for on this package; from another package, the oldest bucket of
its group that still awaits flits from there, if BSEQ and OFF are those of the next one (R315). -/
def State.bucketOf (s : State) (kind target : Nat) (f : Flit) : Option (Nat × Bucket) :=
  if bucketIds ≤ s.cur then (s.fabric.buckets.find s.cur).map (fun k => (s.cur, k))
  else
    let r := target / 65536
    match s.fabric.buckets.find? (fun p => p.2.started && p.2.group = f.group.toNat && p.2.awaits kind r) with
    | none => none
    | some (id, k) =>
      let due := (k.incoming (((k.member r).map (·.pkg)).getD 0))[k.came r]?
      if k.bseq = f.bseq.toNat && (kind = 3 || due = some (flitKey kind target f)) then some (id, k) else none

/-- A flit that is dropped: reserved KIND or a zero field that is not zero (R304). -/
def State.dropFlit (s : State) : State :=
  { s with fabric := { s.fabric with corrected := s.fabric.corrected + 1 } }

/-- The oldest outstanding bucket of the package, of the flit's group if there is one, misses its slot. -/
def State.strayFlit (s : State) (f : Flit) : State :=
  match (s.fabric.buckets.find? (fun p => p.2.group = f.group.toNat)).or s.fabric.buckets.head? with
  | none => s
  | some p => s.slotMiss p.2.node (some p.2)

/-- Cycles that the receiver buffers a flit from its departure at the sender on, so that it performs at S + 1,048 + 16 n
(R310). -/
def linkCycles : Nat := 1024

/-- The timetable that owns a port: its holds move what the port has on its way. -/
def State.portNode (s : State) (port : Nat) : Option Nat :=
  (s.nodes.find? (fun p => p.2.dreg.isSome && p.2.slots.any (fun q => q.1 = port))).map Prod.fst

/-- A flit of another package enters at a port, its input being the cycle in which it leaves there: the receiver buffers it.
One that FEC cannot correct makes the lane's test due (R303, R310). -/
def State.arriveFlit (s : State) (kind : Nat) (f : Flit) (again : Flit → Instr) : State :=
  let port := s.cur
  let bad := f.bad || s.fabric.badNext.contains port
  let s := { s with fabric := { s.fabric with badNext := s.fabric.badNext.erase port } }
  let s := if bad then s.testDue (port / 12) testLane port else s
  s.due (s.clock + linkCycles) (if kind = 3 then rankRead else rankWrite) (s.portNode port) (32 + port) (again { f with bad := bad })

/-- A flit enters at a port, leaves, or performs: its header's checks, its bucket, and what it does there. Payload words of
a flit that FEC could not correct are poisoned (R303). -/
def State.onFlit (s : State) (kind target : Nat) (f : Flit) (again : Flit → Instr)
    (go : State → Nat → Bucket → Nat → Nat → List Nat → State) : State :=
  if f.zero ≠ 0 || f.kind.toNat ≠ kind then s.dropFlit
  else if s.cur < 32 then s.arriveFlit kind f again
  else match s.bucketOf kind target f with
  | none => s.strayFlit f
  | some (id, k) =>
    let r := target / 65536
    let s := if id = s.cur || kind = 3 then s
      else s.modBucket id (fun k => { k with recv := k.recv.put (((k.member r).map (·.pkg)).getD 0) (k.came r + 1) })
    if !s.transfersRun (some k.node) then s
    else go s id k (target % 65536) r (if f.bad then List.range ((f.payload.length + 3) / 4) else [])

/-- A participant's source has been read and holds poison: the timetable is TAINTED, with the address of the first poisoned
word (R272, R277). -/
def State.sourcePoison (s : State) (k : Bucket) (r off : Nat) (poison : List Nat) : State :=
  match k.member r, poison with
  | some m, w :: _ =>
    match m.core, m.src with
    | some c, some sp =>
      let a := sp.wordPa (m.soff + off) w
      s.taint c 0x40 (if tierOf a = some .depot then 1 else 2) true a unitCollective (BitVec.ofNat 64 k.stamp)
    | _, _ => s
  | _, _ => s

/-- A flit leaves: its bytes are read now, and it performs at its target 256 cycles on when that is on this
package. -/
def State.flitLeaves (s : State) (id : Nat) (k : Bucket) (f : FlitKey) (chunk : Nat) : State :=
  let n := k.flitLen chunk f.off
  let reduced := f.phase = 1 && k.kind ≠ 2
  let p : Payload := if reduced then ⟨k.result.getRange f.off n, badWords k.resultBad f.off n⟩
    else s.memberBytes k f.src f.off n
  let s := if reduced then s else s.sourcePoison k f.src f.off p.poison
  let s := if p.poison.isEmpty then s
    else s.modBucket id (fun k => { k with contribBad := markBad k.contribBad (contribAt (if f.phase = 0 then f.src else 1024 + f.dest) f.off) p.poison })
  if k.port f = exchange then s.due (s.clock + 256) rankWrite (some k.node) id (k.flitStep f p.bytes) else s

/-- CONTRIBUTION_FLIT: it reaches the owner of its chunk; the reduction starts in the cycle after the last one. -/
def execContributionFlit (group target : Nat) (f : Flit) (s : State) : Host.Outcome State Fault Refusal :=
  .next (s.onFlit 0 target f (.contributionFlit group target) (fun s id k d r poison =>
    let off := f.off.toNat
    if f.payload.isEmpty then s.flitLeaves id k ⟨0, d, off, r⟩ d
    else if !(k.starts d).contains off || f.payload.length ≠ k.flitLen d off || k.kind = 2 then s.slotMiss k.node (some k)
    else
      let a := contribAt r off
      let got := (k.got.find d).getD 0 + f.payload.length
      let s := match poison, (k.member d).bind (·.core) with
        | _ :: _, some c => s.taint c 0x40 subQueue false 0 unitCollective (BitVec.ofNat 64 k.stamp)
        | _, _ => s
      let s := s.modBucket id (fun k => { k with
        contrib := k.contrib.setRange a f.payload, contribBad := markBad k.contribBad a poison, got := k.got.put d got })
      if got = (k.ranks - 1) * (k.hi d - k.lo d) then s.due (s.clock + 1) rankUnit (some k.node) id (.collectiveReduction d)
      else s))

/-- Data reaches a destination. -/
def State.bringTo (s : State) (k : Bucket) (d off : Nat) (p : Payload) : State :=
  match (k.member d).bind (fun m => m.dst.map (fun sp => (sp, m.doff))) with
  | some (sp, o) => s.spanWrite sp (o + off) p
  | none => s

/-- REDUCED_RESULT_FLIT and GATHERED_DATA_FLIT perform at their destination. -/
def State.dataFlit (s : State) (kind target : Nat) (f : Flit) (again : Flit → Instr) : State :=
  s.onFlit kind target f again (fun s id k d r poison =>
    let off := f.off.toNat
    if f.payload.isEmpty then s.flitLeaves id k ⟨1, d, off, r⟩ r
    else if !(k.starts r).contains off || f.payload.length ≠ k.flitLen r off then s.slotMiss k.node (some k)
    else
      let bad := poison ++ badWords k.contribBad (contribAt (1024 + d) off) f.payload.length
      s.bringTo k d off ⟨f.payload, bad⟩)

def execReducedResultFlit (group target : Nat) (f : Flit) (s : State) : Host.Outcome State Fault Refusal :=
  .next (s.dataFlit 1 target f (.reducedResultFlit group target))

def execGatheredDataFlit (group target : Nat) (f : Flit) (s : State) : Host.Outcome State Fault Refusal :=
  .next (s.dataFlit 2 target f (.gatheredDataFlit group target))

/-- FLAG_WORD_FLIT of another package: ANF of its owners and CNF of its participants, and the final write of the bucket. A
flit that FEC could not correct poisons the flag word. -/
def execFlagWordFlit (group target : Nat) (f : Flit) (s : State) : Host.Outcome State Fault Refusal :=
  .next (s.onFlit 3 target f (.flagWordFlit group target) (fun s id k _ _ _ =>
    let w := leNat (f.payload.take 4)
    (s.modBucket id (fun k => { k with
        anf := k.anf || w / 4 % 2 = 1, cnfIn := k.cnfIn || w / 2 % 2 = 1, flagIn := true, flagBad := k.flagBad || f.bad })).due
      s.clock rankRead (some k.node) id .collectiveFinalWrite))

/-! ### The reduction (R313) -/

/-- Formats of Table 6.7. -/
def collFmt (code : Nat) : FpFmt := if code = 1 then bf16 else if code = 2 then fp16 else fp32
def collSize (code : Nat) : Nat := if code = 0 then 4 else 2

/-- Elements of a byte list. -/
def elementsOf (size : Nat) : Nat → List Byte → List Nat
  | 0, _ => []
  | n + 1, b => leNat (b.take size) :: elementsOf size n (b.drop size)

/-- One addition of the collective adders, and whether it sets ANF. -/
def collAdd (f : FpFmt) (a b : Nat) : Nat × Bool :=
  let x := f.decode a
  let y := f.decode b
  let r := (f.round .rne false (x.add y)).1
  let z := f.decode r
  (r, (z.isNaN && !x.isNaN && !y.isNaN) || (!z.isFinite && !z.isNaN && x.isFinite && y.isFinite))

/-- Elements added in rank order. -/
def collSum (f : FpFmt) : List (List Nat) → List Nat × Bool
  | [] => ([], false)
  | h :: r => r.foldl (fun (a : List Nat × Bool) x =>
      let p := (a.1.zip x).map (fun q => collAdd f q.1 q.2)
      (p.map Prod.fst, a.2 || p.any Prod.snd)) (h, false)

/-- COLLECTIVE_REDUCTION of the chunk of an owner: element n is complete 16 + n cycles on. -/
def execCollectiveReduction (rank : Nat) (s : State) : Host.Outcome State Fault Refusal :=
  let id := s.cur
  .next (match s.fabric.buckets.find id with
    | none => s
    | some k =>
      if !s.transfersRun (some k.node) then s
      else
        let lo := k.lo rank
        let n := k.hi rank - lo
        let size := collSize k.fmt
        let own := s.memberBytes k rank lo n
        let parts := (List.range k.ranks).map (fun r => if r = rank then own.bytes else k.contrib.getRange (contribAt r lo) n)
        let bad := ((List.range k.ranks).flatMap (fun r =>
          if r = rank then own.poison else badWords k.contribBad (contribAt r lo) n)).eraseDups
        let out := collSum (collFmt k.fmt) (parts.map (elementsOf size (n / size)))
        let fin := s.clock - s.nodeShift k.node + 15 + n / size
        let s := s.sourcePoison k rank lo own.poison
        let s := s.modBucket id (fun k => { k with
          result := k.result.setRange lo (out.1.flatMap (leBytes size)), resultBad := markBad k.resultBad lo bad, anf := k.anf || out.2, ends := k.ends.put rank fin })
        match s.fabric.buckets.find id with
        | none => s
        | some k =>
          let owners := (List.range k.ranks).filter (fun r => k.local_ r && k.lo r < k.hi r)
          if k.kind = 1 && k.members.all (fun m => m.core.isSome) && owners.all (fun r => (k.ends.find r).isSome) then
            let f := (k.ends.map Prod.snd).foldl max 0 + 1
            s.due (f + s.nodeShift k.node) rankRead (some k.node) id .collectiveFinalWrite
          else s)

/-- The flag word (Table 6.8). -/
def Bucket.flagWord (k : Bucket) : Nat :=
  let c := k.cnfIn || k.members.any (·.flag)
  (if c || k.anf then 1 else 0) + (if c then 2 else 0) + (if k.anf then 4 else 0)

/-- The own chunks of an all-gather are read for its final write, with the reads of the cycle (R216, R218). -/
def State.readOwn (s : State) (id : Nat) (k : Bucket) : State :=
  if k.kind ≠ 2 then s
  else (k.members.zipIdx.filter (fun p => p.1.core.isSome)).foldl (fun s p =>
    let lo := k.lo p.2
    let d := s.memberBytes k p.2 lo (k.hi p.2 - lo)
    (s.modBucket id (fun b => { b with
      result := b.result.setRange lo d.bytes, resultBad := markBad b.resultBad lo d.poison })).sourcePoison k p.2 lo d.poison) s

/-- The final write of a bucket: own chunks and the flag word at every participant of this package. -/
def State.writeOwn (s : State) (k : Bucket) : State :=
  (k.members.zipIdx.filter (fun p => p.1.core.isSome)).foldl (fun s p =>
    let lo := k.lo p.2
    let n := k.hi p.2 - lo
    let s := if 0 < n then s.bringTo k p.2 lo ⟨k.result.getRange lo n, badWords k.resultBad lo n⟩ else s
    match p.1.fspan with
    | some sp => s.spanWrite sp p.1.foff ⟨leBytes 4 k.flagWord, if k.flagBad then [0] else []⟩
    | none => s) s

/-- COLLECTIVE_FINAL_WRITE at f: with the cycle's reads the own chunks of an all-gather are read, with its timed writes own
chunks and the flag word reach every participant, and the bucket retires (R216, R218, R314). -/
def execCollectiveFinalWrite (s : State) : Host.Outcome State Fault Refusal :=
  let id := s.cur
  .next (match s.fabric.buckets.find id with
    | none => s
    | some k =>
      if !s.transfersRun (some k.node) ||
          s.agenda.any (fun d => d.who = id && d.cycle = s.clock && d.rank = rankWrite && d.instr = .collectiveFinalWrite) then s
      else if !k.ownRead then
        ((s.readOwn id k).modBucket id (fun b => { b with ownRead := true })).due s.clock rankWrite (some k.node) id
          .collectiveFinalWrite
      else
        let t := s.writeOwn k
        let t := { t with fabric := { t.fabric with buckets := t.fabric.buckets.drop id } }
        let t := (k.members.filterMap (·.core)).foldl (fun t c => t.releaseSpans c) t
        t.checkNode k.node)

end Sys2Proof.Machine
end

