-- ==== Sys2Proof/Machine/Row.lean ====
section
/-! DEFINITION. The row engine: row phases over the scratchpad through station S8 (02, R53; 06, R126, R127). -/

namespace Sys2Proof.Machine

/-- The operation of a ROW instruction: 0 RWMAX, 1 RWEXS, 2 RWSCL, 3 RWNORM. -/
def rowOp : Instr → Option Nat
  | .rwmax _ _ => some 0
  | .rwexs _ _ => some 1
  | .rwscl _ _ => some 2
  | .rwnorm _ _ => some 3
  | _ => none

/-- Whether a ROW command that issues now finds the engine occupied: the last row of an earlier one, or of one
whose descriptor is still being read, which takes one cycle at least (R127). -/
def Core.rowTaken (k : Core) (tt : Nat) : Bool :=
  tt < k.rowBusy || k.ops.any (fun p => (rowOp p.2.instr).isSome && tt < p.2.issue + 9)

/-- A ROW instruction at its issue (R107, R126, R127). -/
def State.rowIssue (s : State) (i : Instr) (a b : BitVec 5) : State :=
  let v := s.readG b
  s.notOnBox (
    if v.extractLsb' 32 32 ≠ 0#32 then s.faultHere causeOperand
    else if s.me.rowTaken s.tt then s.faultHere causeOccupancy
    else s.sendDesc i 2 (s.readG a).toNat 8 32 (s.readG a) v 0 [] false id)

def execRwmax (a b : BitVec 5) (s : State) : Host.Outcome State Fault Refusal := .next (s.rowIssue (.rwmax a b) a b)
def execRwexs (a b : BitVec 5) (s : State) : Host.Outcome State Fault Refusal := .next (s.rowIssue (.rwexs a b) a b)
def execRwscl (a b : BitVec 5) (s : State) : Host.Outcome State Fault Refusal := .next (s.rowIssue (.rwscl a b) a b)
def execRwnorm (a b : BitVec 5) (s : State) : Host.Outcome State Fault Refusal := .next (s.rowIssue (.rwnorm a b) a b)

/-- Cycles of a row, and the latency of its results (R127). -/
def RowCmd.period (r : RowCmd) : Nat := r.len / 64
def rowLatency (op : Nat) : Nat := if op = 1 then 32 else if op = 3 then 40 else 16

/-- AUX words of a row. -/
def auxWords (op : Nat) : Nat := if op = 3 then 2 else 1

/-- A row operation reads its source, an AUX word, or writes destination rows. -/
def readsAux (op : Nat) : Bool := op = 1 || op = 2
def writesRow (op : Nat) : Bool := op = 1 || op = 2

/-- The command of a descriptor, or its fault: field ranges, then extents. -/
def rowCmdOf (ws : List Word) (op : Nat) (c : Word) (issue : Nat) : Except (BitVec 8) RowCmd :=
  let w := fun i => (ws.getD i 0).toNat
  let rows := w 3 / 65536
  let len := w 3 % 65536
  let addrOk := fun (i : Nat) => decide (w i < padEnd ∧ w i % 4 = 0)
  let rowsEnd := fun (i : Nat) => w i + (rows - 1) * w 4 + 4 * len
  if !(addrOk 0 && addrOk 1 && addrOk 2) || rows = 0 || 4096 < rows || len % 64 ≠ 0 || len < 64 || 16384 < len ||
      w 4 % 256 ≠ 0 || w 5 ≠ 0 || w 6 ≠ 0 || w 7 ≠ 0 then .error causeOperand
  else if padEnd < rowsEnd 0 || (writesRow op && padEnd < rowsEnd 1) || padEnd < w 2 + 4 * auxWords op * rows then
    .error causeScratchRange
  else .ok {
    op := op, src := w 0, dst := w 1, aux := w 2, rows := rows, len := len, stride := w 4, c := c, start := issue + 8,
    words := [], bad := [], begun := 0 }

/-- A ROW instruction after its descriptor read: the phase starts at issue + 8. -/
def finishRow (o : DescOp) (op : Nat) (s : State) : State :=
  match rowCmdOf (o.words.getRange 0 8) op (o.vb.setWidth 32) o.issue with
  | .error f => s.opFault o f 0
  | .ok r =>
    let id := s.fresh
    let tt := s.tt
    let s := ({ s with fresh := id + 1 }).modMe (fun k => { k with
      rows := k.rows.put id r, rowBusy := r.start + r.rows * r.period })
    s.soon (r.start - tt) rankUnit (.rowResultPerform id 0)

/-- The first word of row `n` among the words read, and that of AUX. -/
def rowBase (n : Nat) : Nat := 16384 * n
def auxBase (n : Nat) : Nat := 2 ^ 26 + n

/-- Claims of S8 on the lines of a range, one asked for in each cycle from `n` on, or all in this cycle. -/
def State.claimRow (s : State) (n step addr words : Nat) (act : Nat → Nat → Nat → Act) : State :=
  (List.range ((words + 63) / 64)).foldl (fun s i =>
    let a := addr + 256 * i
    let len := 4 * min 64 (words - 64 * i)
    s.claim s.cur (n + step * i) 8 (a / 0x10000) 0xFF (if a / 0x10000 = (a + len - 1) / 0x10000 then 0 else 0xFF)
      (act i a len)) s

/-- Words of the scratchpad taken into a command as they stand. -/
def RowCmd.take (r : RowCmd) (p : Scratch) (word addr n : Nat) : RowCmd :=
  { r with
    words := r.words.setRange word (wordsOf (p.bytes addr (4 * n))),
    bad := (p.poison addr (4 * n)).foldl (fun (m : Cells 1) w => m.set (word + w) 1) r.bad }

/-- Lines of a command whose claims still wait when a result is due, as they stand in that cycle (log 61). -/
def RowCmd.takeLate (r : RowCmd) (p : Scratch) (id : Nat) : RowCmd :=
  p.claims.foldl (fun (r : RowCmd) q => match q.act with
    | .rowRead i word addr n => if i = id then r.take p word addr (n / 4) else r
    | _ => r) r

/-- A row of 64-element chunks: six levels each, then from left to right (R53). -/
def rowReduce (f : Word → Word → Word) (xs : List Word) : Word :=
  match (chunks 64 xs.length xs).map (fun c => (reduceLevels f 6 c).headD 0) with
  | [] => 0
  | h :: r => r.foldl f h

/-- What a row gives: destination words, AUX words, VNF. -/
structure RowResult where
  row : List Word
  aux : List Word
  vnf : Bool
  deriving DecidableEq, Repr

/-- Words non-finite though what they come from is finite. -/
def newNonFinite (inputs : Bool) (w : Word) : Bool := inputs && !f32finite w

/-- The four row operations (R126), with the poisoned elements and whether AUX is poisoned: a poisoned input sets
no VNF. -/
def rowCompute (op : Nat) (x : List Word) (xb : List Bool) (aux : Word) (ab : Bool) (c : Word) : RowResult :=
  let fins := (x.zip xb).map (fun p => f32finite p.1 && !p.2)
  let fin := fins.all id
  let auxFin := f32finite aux && !ab
  match op with
  | 0 => ⟨[], [rowReduce fmax x], false⟩
  | 1 =>
    let y := x.map (fun v => fexp2 (fmul (fsub v aux) c))
    let sum := rowReduce fadd y
    let ok := auxFin && f32finite c
    ⟨y, [sum], (fins.zip y).any (fun p => newNonFinite (ok && p.1) p.2) || newNonFinite (ok && fin) sum⟩
  | 2 =>
    let r := frcp aux
    let y := x.map (fun v => fmul v r)
    ⟨y, [], (fins.zip y).any (fun p => newNonFinite (auxFin && p.1) p.2)⟩
  | _ =>
    let inv := frcp (toF32 (Num.ofInt x.length))
    let mu := fmul (rowReduce fadd x) inv
    let var := fmul (rowReduce fadd (x.map (fun v => let d := fsub v mu; fmul d d))) inv
    let rs := frsq (fadd var c)
    ⟨[], [mu, rs], newNonFinite fin mu || newNonFinite (fin && f32finite c) rs⟩

/-- Row `n` begins: its lines are claimed one a cycle and its AUX word at once; each is read as its claim is granted. -/
def State.rowBegin (s : State) (id n : Nat) (r : RowCmd) : State :=
  let a := r.src + n * r.stride
  let s := s.modMe (fun k => { k with rows := k.rows.put id { r with begun := n + 1 } })
  let s := s.claimRow 0 1 a r.len (fun i ad len => .rowRead id (rowBase n + 64 * i) ad len)
  let s := if readsAux r.op then s.claimRow 0 0 (r.aux + 4 * n) 1 (fun _ ad len => .rowRead id (auxBase n) ad len) else s
  let s := if n + 1 < r.rows then s.soon r.period rankUnit (.rowResultPerform id (n + 1)) else s
  s.soon (r.period + rowLatency r.op) rankUnit (.rowResultPerform id n)

/-- The results of row `n` claim their banks in this cycle and perform as they are granted (R127, R194). -/
def State.rowResult (s : State) (id n : Nat) (r : RowCmd) : State :=
  let r := r.takeLate s.me.pad id
  let x := r.words.getRange (rowBase n) r.len
  let xb := (r.bad.getRange (rowBase n) r.len).map (fun b => decide (b ≠ 0#1))
  let ab : Bool := readsAux r.op && r.bad.get (auxBase n) ≠ 0#1
  let out := rowCompute r.op x xb (r.words.get (auxBase n)) ab r.c
  let anyBad := xb.any (fun b => b) || ab
  let s := s.modMe (fun k => { k with
    rows := if n + 1 = r.rows then k.rows.drop id
            else k.rows.put id { r with
              words := (r.words.above (rowBase (n + 1))).filter (fun p => p.1 ≠ auxBase n),
              bad := (r.bad.above (rowBase (n + 1))).filter (fun p => p.1 ≠ auxBase n) } })
  let s := if anyBad then
      s.readPoison s.cur subScratch (if ab then r.aux + 4 * n else r.src + n * r.stride + 4 * xb.findIdx (fun b => b)) unitRow
    else s
  let s := if out.aux.isEmpty then s
    else s.claimRow 0 0 (r.aux + 4 * auxWords r.op * n) out.aux.length (fun _ ad _ =>
      .rowWrite ad ⟨bytesOf out.aux, if anyBad then List.range out.aux.length else []⟩)
  let s := if out.row.isEmpty then s
    else s.claimRow 0 0 (r.dst + n * r.stride) r.len (fun i ad len =>
      .rowWrite ad ⟨bytesOf ((out.row.drop (64 * i)).take (len / 4)),
        (List.range (len / 4)).filter (fun j => ab || xb.getD (64 * i + j) false)⟩)
  if out.vnf then s.soon 0 rankVnf (.vectorWriteVisible ⟨.flag, [], [], true⟩) else s

/-- ROW_RESULT_PERFORM: in its first cycle a row begins; P + LAT cycles on its results perform (R127). -/
def execRowResultPerform (cmd row : Nat) (s : State) : Host.Outcome State Fault Refusal :=
  .next (match s.me.rows.find cmd with
    | none => s
    | some r => if row = r.begun then s.rowBegin cmd row r else s.rowResult cmd row r)

end Sys2Proof.Machine
end

