-- ==== Sys2Proof/Machine/Job.lean ====
section
/-! DEFINITION. Points and jobs: POINT, DEPART, EXIT, the region departure and its choice of variant, the local
departures, the combiner (03, R58; 06, R128 to R130; 14, R238, R239, R241, R245, R246, R339; 15, R251). -/

namespace Sys2Proof.Machine

/-! ### POINT (R128, R246) -/

/-- Steps by which engine work of a core is still owed. -/
def isEngineWork : Instr → Bool
  | .matrixUnitVisible .. | .tileWriteVisible _ | .vectorWriteVisible _ | .mdrainEntryPush .. | .mdrainSlotPush _
  | .mdrainComplete _ | .beatWrite .. | .ldringSlotPush _ | .ldqEntryPush _ => true
  | _ => false

/-- A bank claim of an engine's beat that writes. A beat that reads is owed to its order, which is counted. -/
def isBeatClaim : Act → Bool
  | .write .. => true
  | _ => false

/-- Whether an engine write of a core is owed: a visibility cycle to come, an order in flight, a pending carry, a
ring that is being filled (R128, R136, R144, R155, R178). -/
def State.engineOwes (s : State) (c : Nat) : Bool :=
  let k := s.core c
  let tt := s.ttOf c
  tt < k.mx.owed || tt < k.vec.owed || k.mx.jobs.any (fun p => !p.2.seen) || !k.mx.carry.isEmpty || !k.moves.isEmpty ||
    k.ring.toList.any (fun r => r.fill ≠ 0 || r.writes ≠ 0) || k.pad.claims.any (fun q => isBeatClaim q.act) ||
    s.agenda.any (fun d => d.who = c && s.clock < d.cycle && isEngineWork d.instr)

/-- Every queue and token FIFO of a core is empty, and no push is on its way to one (R8, R13, R15). -/
def Queues.empty (q : Queues) : Bool :=
  q.waybillIn = 0 && q.paramIn = 0 && q.waybill.isEmpty && q.param.isEmpty && q.vq.toList.all (·.isEmpty) && q.oq.toList.all (·.isEmpty) &&
    q.token.toList.all (·.isEmpty)

/-- Whether a leased-engine or row command of a core is outstanding, its descriptor read included (R300). -/
def Core.commandsOut (k : Core) (tt : Nat) : Bool :=
  !k.leased.isEmpty || !k.rows.isEmpty || tt < k.rowBusy ||
    k.ops.any (fun p => (rowOp p.2.instr).isSome || (leasedOp p.2.instr).isSome)

/-- The residue checks of POINT (R128). A TSTART on its way is none of them: it arms its engine behind the point
(DESIGN CHOICE, log 134). -/
def State.pointClean (s : State) (c : Nat) : Bool :=
  let k := s.core c
  k.q.empty && k.eng.toList.all (fun g => g.status ≠ .armed && g.status ≠ .running) && !s.engineOwes c &&
    k.mx.windows.isEmpty && !k.commandsOut (s.ttOf c) && k.vec.vloop.isNone

/-- Entry of the point directory for a driver-code address. -/
def Node.pointAt (nd : Node) (pc : Half) : Option Nat := nd.points.findIdx? (fun p => p.addr = pc.toNat)

/-- POINTSTAT (Table 1.11). -/
def pointStat (held preempt revoked throttled : Bool) : DWord :=
  (BitVec.ofBool held ++ BitVec.ofBool preempt ++ BitVec.ofBool revoked ++ BitVec.ofBool throttled).setWidth 64

/-- The point pre-emption trap of a core behind its POINT, delivered as any trap of the driver (R128, R249, R269, R272). -/
def State.preemptTrap (s : State) (c : Nat) (pc epc : Half) : State :=
  s.deliver c causePreempt pc epc (faultInfo unitDriver 0 false pc.toNat) 0

/-- The first POINT of a point instance is met: a pre-emption marked by now is latched (R241). -/
def Node.meetPoint (nd : Node) (clock : Nat) : Node :=
  if nd.firstPoint.isSome then nd else { nd with firstPoint := some clock, latched := nd.victimFor.isSome }

/-- A core's POINT latches a pre-emption if it is the first of its point instance; the other packages are told its cycle, and
the cut moves behind every POINT of the region (R241, R243). -/
def State.latchPoint (s : State) (n : Nat) : State :=
  let s := s.modNode n (fun nd => { nd.meetPoint s.clock with cut := max nd.cut (s.clock + 1) })
  match s.nodes.find n with
  | some nd => s.notify nd 7 n (tellPointed + 4 * s.clock)
  | none => s

/-- A timetable is marked as a victim now: a marking in the very cycle of the first POINT is latched too, and traps the
cores that have passed theirs in it (R241). -/
def State.markNow (s : State) (v k : Nat) : State :=
  let t := s.modNode v (fun nd => { nd with
    victimFor := some k, latched := nd.latched || nd.firstPoint = some s.clock })
  if (t.nodes.find v).any (·.latched) && !(s.nodes.find v).any (·.latched) then
    ((t.coresOf v).filter (fun c => !(t.core c).timed && (t.core c).place.point.isSome)).foldl (fun t c =>
      let pc := (t.core c).drv.pc
      t.preemptTrap c (pc - 4) pc) t
  else t

/-- The spacing that the header declares, exceeded by a core that reaches its POINT, or its EXIT in timed mode (R247; DEDUCED,
log 58). -/
def State.checkSpacing (s : State) (c n : Nat) (nd : Node) : State :=
  if nd.space < s.clock - (s.core c).csr.depart.toNat then
    s.fatalNode n
      { verdict := 3, cause := 0x63, info := faultInfo unitWalker 0 false 0, cyc := s.clock, site := 0, stream := 5,
        core := (s.core c).csr.coreix.setWidth 24, aux := 0 }
  else s

/-- The last core of a region has left timed mode: the sequencer takes over (R206). -/
def State.segmentEnds (s : State) (n : Nat) : State :=
  if (s.coresOf n).all (fun c => !(s.core c).timed) then s.endTimelines n else s

/-- POINT in timed mode, its checks passed. -/
def State.passPoint (s : State) (n : Nat) (nd : Node) (point : Nat) : State :=
  let c := s.cur
  let pc := s.me.drv.pc
  let s := s.retire 1 (fun k =>
    let done := k.allDone
    let k := k.modCsr (fun r => { r with status := mkStatus false k.priv k.ppriv k.ie k.pie })
    { (k.modPlace (fun p => { p with point := some point, arrived := false, doneAtPoint := done })) with
      eng := k.eng.map (fun (g : Engine) => { g with status := .stopped, loops := [] }) })
  let e := s.deliverEvictions c
  let s := e.1.modMe (fun k =>
    (k.modCsr (fun r => { r with pointstat := pointStat k.place.heldSince false e.2 k.place.throttled })).modPlace
      (fun p => { p with heldSince := false, throttled := false }))
  let s := ((s.latchPoint n).checkSpacing c n nd).segmentEnds n
  if s.preempting c then s.preemptTrap c pc (nextPc pc) else s

/-- POINT (R128). -/
def execPoint (s : State) : Host.Outcome State Fault Refusal :=
  .next (s.notOnBox (
    if !s.me.timed then s.faultHere causeUntimed
    else match s.me.place.node, s.nodeOf s.cur with
    | some n, some nd =>
      match nd.pointAt s.me.drv.pc with
      | none => s.faultHere causePoint
      | some p => if s.pointClean s.cur then s.passPoint n nd p else s.faultHere causePoint
    | _, _ => s.faultHere causePoint))

/-! ### Region departure (R129, R238, R239, R245, R251) -/

/-- The next multiple of 64. -/
def upTo64 (n : Nat) : Nat := (n + 63) / 64 * 64

/-- Dies that hold cores of a timetable on this package. -/
def State.diesUnder (s : State) (n : Nat) : List Nat := ((s.coresOf n).map coreDie).eraseDups

/-- SBSLEW(E) over the dies of a region on this package. -/
def State.sbslew (s : State) (n e : Nat) : Nat :=
  (s.diesUnder n).foldl (fun m d => min m (vecGet (s.getDie d).slew 0 e).toNat) 64

/-- The variant slot that E and the slew step select; none marks a single-variant segment (R251). -/
def Segment.single (g : Segment) : Bool := g.entry[0] = g.entry[1] && g.entry[1] = g.entry[2]
def Segment.select (g : Segment) (e slew : Nat) : Nat :=
  if g.single then 0
  else if g.level[0] ≤ e && g.slew[0] ≤ slew then 0
  else if g.level[1] ≤ e && g.slew[1] ≤ slew then 1
  else 2

/-- Packages of a node. -/
def Node.npkg (nd : Node) : Nat := max 1 (bits (nd.words.getD 8 0) 13 9)

/-- The local departure of a core from the region's (R239). -/
def Node.departAt (nd : Node) (dreg c : Nat) : Nat :=
  let o := coreAt (8 * nd.ox) (4 * nd.oy)
  dreg + 2 * ((coreCol c - coreCol o) + (coreRow c - coreRow o)) + 24 * boundaries (coreDie o) (coreDie c)

/-- A copy withdrawn at a save enters again with its lead over the departure (R244). -/
def State.reenter (s : State) (dreg : Nat) (w : Withdrawn) : State :=
  s.enterCopy { w.copy with stamp := dreg + w.lead, due := dreg + w.lead }

/-- Dreg is agreed, for the segment that the cores have arrived for: variant and slew step are chosen, every core's local
departure falls due, timelines, time slots and withdrawn copies are set to it. -/
def State.agreeDeparture (s : State) (n : Nat) : State :=
  match s.nodes.find n with
  | none => s
  | some nd =>
    match nd.dreg with
    | none => s
    | some own =>
      if nd.arrived < (s.coresOf n).length || nd.proposals.length + 1 < nd.npkg then s
      else
        let dreg := nd.proposals.foldl (fun m p => max m p.1) own
        let e := nd.proposals.foldl (fun m p => min m p.2.1) nd.level
        let slew := nd.proposals.foldl (fun m p => min m p.2.2) (s.sbslew n e)
        let seg := (((s.coresOf n).head?).map (fun c => (s.core c).place.segment)).getD 0
        let variant := match nd.segments[seg]? with
          | some g => g.select e slew
          | none => 0
        let s := s.modNode n (fun nd => { nd with
          segment := seg, dreg := some dreg, level := e, variant := variant, slew := slew, proposals := [], arrived := 0, departed := 0, firstPoint := none, latched := false, withdrawn := [] })
        let s := (s.coresOf n).foldl (fun s c => s.due (nd.departAt dreg c) rankVisible (some n) c .localDeparture) s
        let s := s.startTimelines n seg dreg
        let s := nd.withdrawn.foldl (fun s w => s.reenter dreg w) s
        let s := (s.bookSlots n).bookShunts n
        (nd.slots.map Prod.fst).foldl (fun s p => s.placeTime n p dreg) s

/-- This package's proposal: Dreg, with E sampled in this cycle (R238, R245); told to the other packages. -/
def State.proposeDeparture (s : State) (n dreg : Nat) (boost : Nat) : State :=
  let e := min 7 ((s.plevel.extractLsb' 0 3).toNat + boost)
  let s := s.modNode n (fun nd => { nd with
    dreg := some dreg, level := e, arrived := (s.coresOf n).length })
  let s := match s.nodes.find n with
    | some nd => s.notify nd 7 dreg e
    | none => s
  s.agreeDeparture n

/-- A core arrives (R129). The last arrival sets the departure. -/
def State.arrive (s : State) (n : Nat) : State :=
  let s := s.modNode n (fun nd => { nd with arrived := nd.arrived + 1 })
  match s.nodes.find n with
  | none => s
  | some nd =>
    if nd.arrived < (s.coresOf n).length then s
    else s.proposeDeparture n (upTo64 (s.clock + (if nd.npkg = 1 then 256 else 4096))) (s.boostOf n)

/-- Segment that follows the point of a core. -/
def Node.nextOf (nd : Node) (point : Option Nat) : Nat :=
  match point.bind (fun p => nd.points[p]?) with
  | some p => p.next
  | none => 0xFFFF

/-- DEPART (R129). -/
def execDepart (s : State) : Host.Outcome State Fault Refusal :=
  .next (s.notOnBox (s.freeOnly (
    match s.me.place.node, s.nodeOf s.cur with
    | some n, some nd =>
      let next := nd.nextOf s.me.place.point
      if next = 0xFFFF then s.faultHere causeOperand
      else
        (s.retireHold .depart (fun k => k.modPlace (fun p => { p with arrived := true, segment := next }))).arrive n
    | _, _ => s.faultHere causeOperand)))

/-! ### Local departure -/

/-- A departure setting with effect now (R339). -/
def State.applySetting (s : State) (c : Nat) (x : Setting) : State :=
  if x.kind = 0 then s.resetRing c x.num (·.configured x.value)
  else s.modCore c (fun k => { k with ss := vecMod k.ss x.num (fun _ => x.value.setWidth 32) })

/-- Settings of a departure into a segment, in directory order; those of the first departure come first. -/
def Node.settingsFor (nd : Node) (seg : Nat) (first : Bool) : List Setting :=
  (if first then nd.settings.filter (fun x => x.seg = 0xFFFF) else []) ++ nd.settings.filter (fun x => x.seg = seg)

/-- Engines armed in free mode get their start cycle (R110, R129). -/
def State.armEngines (s : State) (c d : Nat) : State :=
  [Eng.load, .matrix, .vector, .store].foldl (fun s e =>
    let g := (s.core c).engine e
    if g.status = .armed then
      (s.modCore c (·.modEng e (fun g => { g with start := d + g.start }))).timedAt c g.start rankVisible (.engineStart e)
    else s) s

/-- The slew windows of a core go on from the one in which it departs, `n` cycles before that window's last cycle;
its pair is balanced from then on (R252, R253). -/
def State.startSlew (s : State) (c n : Nat) : State :=
  let s := s.timedAt c n rankCheck .slewWindowCheck
  if coreCol c % 8 = 0 && coreRow c % 4 = 0 then
    s.due (s.clock + n) rankBalance (s.core c).place.node (16 * coreDie c + corePair c) .balancerWindow
  else s

/-- A core of a node departs: the first one makes the node RUNNING, at Dreg (Table 14.3), and the first departure of all
gives FIRST (Table 14.4). -/
def Node.departsNow (nd : Node) : Node :=
  { nd with
    departed := nd.departed + 1, state := if nd.state = .loading then .running else nd.state,
    firstDreg := if nd.firstDreg = 0 then nd.dreg.getD 0 else nd.firstDreg }

/-- A job's times in another timetable time. -/
def MatrixStore.rebase (m : MatrixStore) (f : Nat → Nat) : MatrixStore :=
  { m with
    owed := f m.owed, loadedAt := m.loadedAt.map (·.map f), windows := m.windows.map (fun (w : Window) => { w with
      opened := f w.opened, reads := w.reads.map (fun p => (p.1, f p.2)), leftTiles := w.leftTiles.map (fun p => (p.1, f p.2)) }),
    jobs := m.jobs.map (fun (p : Nat × MatrixJob) => (p.1, { p.2 with issue := f p.2.issue })) }

/-- Bank claims, banks and lanes likewise. -/
def Scratch.rebase (p : Scratch) (f : Nat → Nat) : Scratch :=
  { p with
    claims := p.claims.map (fun (q : Claim) => { q with asked := f q.asked }),
    assigned := p.assigned.map (fun (a : Assigned) => { a with until_ := f a.until_ }),
    lanes := p.lanes.map (fun (h : LaneHold) => { h with from_ := f h.from_, until_ := f h.until_ }) }

/-- A leased-engine command likewise. -/
def LeasedCmd.rebase (r : LeasedCmd) (f : Nat → Nat) : LeasedCmd :=
  { r with start := f r.start, finish := r.finish.map f, depotOut := r.depotOut.map (fun x => (f x.1, x.2)) }

/-- A core whose timetable time starts anew, its shift against the Station Clock going from `old` to `new`: everything it has on
its way keeps its Station Clock cycle (R281). The start of an armed engine is an offset from the departure. -/
def Core.rebase (k : Core) (old new : Nat) : Core :=
  let f := fun (t : Nat) => t + old - new
  if old = new then k
  else
    let k := k.modDrv (fun d => { d with
      wroteG := d.wroteG.map f, wroteX := d.wroteX.map f, mismatch := d.mismatch.map (fun p => (p.1, f p.2)) })
    let k := k.modQ (fun q => { q with token := q.token.map (·.map f), popped := q.popped.map (fun p => (f p.1, p.2)) })
    let k := ((k.modMx (·.rebase f)).modPad (·.rebase f)).modVec (fun v => { v with owed := f v.owed, loopFrom := f v.loopFrom })
    { k with
      eng := k.eng.map (fun (g : Engine) => { g with base := f g.base, busy := f g.busy, agSet := g.agSet.map f }),
      moves := k.moves.map (fun (p : Nat × MoveJob) => (p.1, { p.2 with issue := f p.2.issue, arrive := f p.2.arrive })),
      ops := k.ops.map (fun (p : Nat × DescOp) => (p.1, { p.2 with issue := f p.2.issue })),
      rows := k.rows.map (fun (p : Nat × RowCmd) => (p.1, { p.2 with start := f p.2.start })), rowBusy := f k.rowBusy,
      leased := k.leased.map (fun (p : Nat × LeasedCmd) => (p.1, p.2.rebase f)) }

/-- LOCAL_DEPARTURE of a core at D (R129, R238). An LDG, STG or AMO that is still outstanding is neither waited for nor drained:
it stays in its queue, and a MARK of timed mode enters behind it, since the rule that the queues are empty in timed mode names
nothing that empties them (R99, DESIGN CHOICE, log 143). A trap that has waited for the end of DEPART's hold is taken before the
first instruction of the segment (R97). -/
def execLocalDeparture (s : State) : Host.Outcome State Fault Refusal :=
  let c := s.cur
  .next (match s.me.place.node, s.nodeOf c with
    | some n, some nd =>
      match nd.dreg, nd.segments[nd.segment]? with
      | some dreg, some g =>
        let d := nd.departAt dreg c
        let first := s.me.place.point.isNone
        let slew := BitVec.ofNat 64 nd.slew
        let entry := vecGet g.entry 0 nd.variant
        let src := g.src.toNat / 4 ^ nd.variant % 4
        let old := s.nodeShift n
        let s := s.modMe (fun k =>
          let k := (k.rebase k.place.hshift (s.clock - d)).modCsr (fun r => { r with
            depart := BitVec.ofNat 64 d, status := mkStatus true k.priv k.ppriv k.ie k.pie, pointstat := 0, slewstep := slew, variant := BitVec.ofNat 64 src })
          let k := { k with view := { k.view with slewstep := slew } }
          let k := k.modMx (fun m => { m with ksteps := [], lastCount := 0 })
          let k := k.modPlace (fun p => { p with
            point := none, arrived := false, fired := false, hshift := s.clock - d })
          k.modDrv (fun q => { q with pc := entry.setWidth 16 }))
        let s := (nd.settingsFor nd.segment first).foldl (fun s x => s.applySetting c x) s
        let s := (s.armEngines c d).startSlew c (dreg + (d - dreg) / 64 * 64 + 63 - d)
        ((s.reclock n old).modNode n (·.departsNow)).unhold c d
      | _, _ => s
    | _, _ => s)

/-! ### EXIT and the combiner (R58, R130) -/

/-- EXIT: the driver stream ends. In timed mode completion waits for the engines; in free mode it needs tables that
had reached DONE before the point. -/
def execExit (s : State) : Host.Outcome State Fault Refusal :=
  .next (s.notOnBox (
    let timed := s.me.timed
    let c := s.cur
    let t := s.retireHold .exited id
    let ends := fun (t : State) => match t.me.place.node, t.nodeOf c with
      | some n, some nd => t.checkSpacing c n nd
      | _, _ => t
    if timed then ends (t.checkCombiner t.cur)
    else if t.me.place.doneAtPoint then t.soon 1 rankWalker .combinerFire
    else t))

/-- The lowest-numbered queue that holds an entry, or to which a push is on its way, and the engine that consumes it (Table
17.4). -/
def Queues.residue (q : Queues) : Option (Nat × Eng) :=
  let tok := (List.range 6).find? (fun f => !(vecGet q.token [] f).isEmpty)
  let vq := (List.range 4).find? (fun i => !(vecGet q.vq [] i).isEmpty)
  let oq := (List.range 4).find? (fun i => !(vecGet q.oq [] i).isEmpty)
  match tok with
  | some f => some (f, if f = 0 then .matrix else if f = 1 then .vector else if f ≤ 3 then .store else .load)
  | none =>
    if !q.waybill.isEmpty || q.waybillIn ≠ 0 then some (8, .matrix)
    else if !q.param.isEmpty || q.paramIn ≠ 0 then some (9, .matrix)
    else match vq, oq with
      | some i, _ => some (16 + i, .vector)
      | none, some i => some (20 + i, .store)
      | none, none => none

/-- COMBINER_FIRE: the core is complete, or its queues hold residue. -/
def execCombinerFire (s : State) : Host.Outcome State Fault Refusal :=
  let c := s.cur
  let k := s.me
  .next (if k.place.fired || k.drv.hold ≠ some .exited then s
    else match k.q.residue with
    | some (sub, e) => s.fatal c false causeResidue 3 (faultInfo (engUnit e) sub false 0) 5 0 0 0
    | none =>
      let s := s.modMe (·.modPlace (fun p => { p with fired := true }))
      match k.place.node with
      | some n => s.checkNode n
      | none => s)

end Sys2Proof.Machine
end

