-- ==== Sys2Proof/Machine/Vector.lean ====
section
/-! DEFINITION. Vector micro-orders (08, R154 to R172). An order reads its operands at issue and its results
become visible at issue + latency. -/

namespace Sys2Proof.Machine

/-! ### Operands -/

/-- A 16 by 64 operand as words 64 r + c, with its poisoned elements. -/
structure VOperand where
  words : Array Word
  bad : Cells 1

def VOperand.at_ (v : VOperand) (e : Nat) : Word := v.words.getD e 0
def VOperand.isBad (v : VOperand) (e : Nat) : Bool := v.bad ≠ [] && v.bad.get e ≠ 0
def VOperand.row (v : VOperand) (r : Nat) : List Word := (List.range 64).map (fun c => v.at_ (64 * r + c))
def VOperand.rowBad (v : VOperand) (r : Nat) : Bool := (List.range 64).any (fun c => v.isBad (64 * r + c))

/-- Physical register of a name (R21). -/
def physReg (rrb : BitVec 4) (n : Nat) : Nat := if n < 8 then n else 8 + (n - 8 + rrb.toNat) % 16

def VectorStore.operand (v : VectorStore) (p : Nat) : VOperand :=
  ⟨(v.v.getRange (1024 * p) 1024).toArray,
   if v.bad.isEmpty then [] else Cells.dense 0 (v.bad.getRange (1024 * p) 1024)⟩

/-- An entry of an inbound queue as an operand. -/
def entryOperand (e : Entry) : VOperand := ⟨(e.words.getRange 0 1024).toArray, e.poison⟩

/-- A source: a register, or the head entry of an inbound queue, popped unless peeked (R154). -/
def Core.source (k : Core) (r : Nat) (peek : Bool) : Except Refused (VOperand × Core) :=
  if r < 24 then .ok (k.vec.operand (physReg k.vec.rrb r), k)
  else
    match vecGet k.q.vq [] (r - 24) with
    | [] => .error (causeUnderflow, r - 24)
    | e :: rest =>
      .ok (entryOperand e, if peek then k
        else k.modQ (fun q => { q with vq := vecMod q.vq (r - 24) (fun _ => rest) }))

/-- Row r of a mask; m0 is all ones (R21). -/
def VectorStore.maskRow (v : VectorStore) (m r : Nat) : BitVec 64 :=
  if m = 0 then ~~~0#64 else v.m.get (16 * m + r)

def VectorStore.maskBit (v : VectorStore) (m e : Nat) : Bool := (v.maskRow m (e / 64)).getLsbD (e % 64)

/-- Whether the order's predicate suppresses it, and otherwise the elements it computes (R156). -/
def VectorStore.active (v : VectorStore) (pr : Nat) : Option (List Nat) :=
  if pr = 0 then some (List.range 1024)
  else match v.vloop with
  | some _ => if v.sp.getLsbD pr then some (List.range 1024) else none
  | none => some ((List.range 1024).filter (v.maskBit pr))

/-! ### Results -/

/-- Destination of a specifier: a physical register under the present RRB, or an outbound queue. -/
def Core.dest (k : Core) (d site : Nat) : VDest :=
  if d < 24 then .reg (physReg k.vec.rrb d) else .queue (d - 24) site

/-- The results of an order, visible `lat` cycles on; VNF follows as a flag of its own, so that a read of VSTAT
in that cycle does not see it (R27, R155). -/
def State.results (s : State) (lat : Nat) (d : VDest) (elems : List (Nat × Word)) (poison : List Nat)
    (vnf : Bool) : State :=
  let v := s.tt + lat
  let s := s.soon lat rankVisible (.vectorWriteVisible ⟨d, elems, poison, false⟩)
  let s := if vnf then s.soon lat rankVnf (.vectorWriteVisible ⟨.flag, [], [], true⟩) else s
  s.modMe (·.modVec (fun x => { x with owed := max x.owed v }))

/-- One result element: its word, whether it is poisoned, whether it sets VNF. -/
structure VElem where
  word : Word
  bad : Bool
  vnf : Bool

/-- The results of computed elements. A poisoned element was read, so the timetable is tainted (R155, R277). -/
def State.elementResults (s : State) (lat : Nat) (d : VDest) (l : List (Nat × VElem)) : State :=
  let poison := (l.filter (·.2.bad)).map Prod.fst
  let s := if poison.isEmpty then s else s.readPoison s.cur subQueue 0 (engUnit .vector)
  s.results lat d (l.map (fun p => (p.1, p.2.word))) poison (l.any (·.2.vnf))

/-- A vector order issues: class 1 of the energy account counts it, suppressed or not (R156, R259). -/
def State.issueVector (s : State) (k : BitVec 1) (occ : Nat) (f : State → Except Refused State) : State :=
  s.issueOrder k.toNat (some occ) (fun s => f (s.modMe (·.charged 1 1)))

/-- Bank and index of the order that issues, before it goes on. -/
def State.vsite (s : State) : Nat := (s.me.engine .vector).site

/-- An element by element order of one source (R156). -/
def unaryOrder (occ lat : Nat) (k : BitVec 1) (d a : BitVec 5) (pr : BitVec 3) (peek : Bool)
    (f : Nat → Word → Word × Bool) (s : State) : Host.Outcome State Fault Refusal :=
  let site := s.vsite
  .next (s.issueVector k occ (fun s =>
    match s.me.vec.active pr.toNat with
    | none => .ok s
    | some es =>
      match s.me.source a.toNat peek with
      | .error r => .error r
      | .ok (x, c) =>
        let s := s.modMe (fun _ => c)
        .ok (s.elementResults lat (c.dest d.toNat site) (es.map (fun e =>
          let r := f e (x.at_ e)
          (e, ⟨r.1, x.isBad e, r.2 && !x.isBad e⟩))))))

/-- An element by element order of two sources, with the old destination element if `useD` (R154, R156). A NaN or an
infinity computed from a poisoned element sets no VNF, here as in the orders of one source, VCVT, VHAD, VDQNT and the
reductions, though R158 does not say so (DESIGN CHOICE, log 121). -/
def binaryOrder (useD : Bool) (k : BitVec 1) (d a b : BitVec 5) (pr : BitVec 3) (peekA peekB : Bool)
    (f : Word → Word → Word → Word × Bool) (s : State) : Host.Outcome State Fault Refusal :=
  let site := s.vsite
  .next (s.issueVector k 4 (fun s =>
    match s.me.vec.active pr.toNat with
    | none => .ok s
    | some es =>
      match s.me.source a.toNat peekA with
      | .error r => .error r
      | .ok (x, c) =>
        match c.source b.toNat peekB with
        | .error r => .error r
        | .ok (y, c) =>
          let s := s.modMe (fun _ => c)
          let old : VOperand :=
            if useD && d.toNat < 24 then c.vec.operand (physReg c.vec.rrb d.toNat) else ⟨#[], []⟩
          .ok (s.elementResults 8 (c.dest d.toNat site) (es.map (fun e =>
            let bad := x.isBad e || y.isBad e || (useD && old.isBad e)
            let r := f (x.at_ e) (y.at_ e) (old.at_ e)
            (e, ⟨r.1, bad, r.2 && !bad⟩))))))

def peekA (m : BitVec 2) : Bool := m.getLsbD 1
def peekB (m : BitVec 2) : Bool := m.getLsbD 0

/-! ### Floating point (R158, Table 8.2) -/

/-- A result and whether it is non-finite although its inputs are finite. -/
def nonFinite (finiteIn : Bool) (w : Word) : Word × Bool := (w, finiteIn && !f32finite w)

def fpOrder (f : Word → Word → Word) (k : BitVec 1) (d a b : BitVec 5) (p : BitVec 3) (m : BitVec 2)
    (s : State) : Host.Outcome State Fault Refusal :=
  binaryOrder false k d a b p (peekA m) (peekB m)
    (fun x y _ => nonFinite (f32finite x && f32finite y) (f x y)) s

def fpOrder3 (f : Word → Word → Word → Word) (k : BitVec 1) (d a b : BitVec 5) (p : BitVec 3) (m : BitVec 2)
    (s : State) : Host.Outcome State Fault Refusal :=
  binaryOrder true k d a b p (peekA m) (peekB m)
    (fun x y z => nonFinite (f32finite x && f32finite y && f32finite z) (f x y z)) s

def specialOrder (f : Word → Word) (k : BitVec 1) (d a : BitVec 5) (p : BitVec 3) (m : BitVec 1)
    (s : State) : Host.Outcome State Fault Refusal :=
  unaryOrder 8 16 k d a p (m = 1) (fun _ x => nonFinite (f32finite x) (f x)) s

def execVadd (_y : BitVec 4) (k : BitVec 1) (d a b : BitVec 5) (p : BitVec 3) (m : BitVec 2) (s : State) :
    Host.Outcome State Fault Refusal := fpOrder fadd k d a b p m s
def execVsub (_y : BitVec 4) (k : BitVec 1) (d a b : BitVec 5) (p : BitVec 3) (m : BitVec 2) (s : State) :
    Host.Outcome State Fault Refusal := fpOrder fsub k d a b p m s
def execVmul (_y : BitVec 4) (k : BitVec 1) (d a b : BitVec 5) (p : BitVec 3) (m : BitVec 2) (s : State) :
    Host.Outcome State Fault Refusal := fpOrder fmul k d a b p m s
def execVmulz (_y : BitVec 4) (k : BitVec 1) (d a b : BitVec 5) (p : BitVec 3) (m : BitVec 2) (s : State) :
    Host.Outcome State Fault Refusal := fpOrder mulZ k d a b p m s
def execVfma (_y : BitVec 4) (k : BitVec 1) (d a b : BitVec 5) (p : BitVec 3) (m : BitVec 2) (s : State) :
    Host.Outcome State Fault Refusal := fpOrder3 ffma k d a b p m s
def execVfms (_y : BitVec 4) (k : BitVec 1) (d a b : BitVec 5) (p : BitVec 3) (m : BitVec 2) (s : State) :
    Host.Outcome State Fault Refusal := fpOrder3 ffms k d a b p m s
def execVmin (_y : BitVec 4) (k : BitVec 1) (d a b : BitVec 5) (p : BitVec 3) (m : BitVec 2) (s : State) :
    Host.Outcome State Fault Refusal := fpOrder fmin k d a b p m s
def execVmax (_y : BitVec 4) (k : BitVec 1) (d a b : BitVec 5) (p : BitVec 3) (m : BitVec 2) (s : State) :
    Host.Outcome State Fault Refusal := fpOrder fmax k d a b p m s
def execVexp2 (_y : BitVec 4) (k : BitVec 1) (d a : BitVec 5) (p : BitVec 3) (m : BitVec 1) (s : State) :
    Host.Outcome State Fault Refusal := specialOrder fexp2 k d a p m s
def execVlog2 (_y : BitVec 4) (k : BitVec 1) (d a : BitVec 5) (p : BitVec 3) (m : BitVec 1) (s : State) :
    Host.Outcome State Fault Refusal := specialOrder flog2 k d a p m s
def execVrcp (_y : BitVec 4) (k : BitVec 1) (d a : BitVec 5) (p : BitVec 3) (m : BitVec 1) (s : State) :
    Host.Outcome State Fault Refusal := specialOrder frcp k d a p m s
def execVrsq (_y : BitVec 4) (k : BitVec 1) (d a : BitVec 5) (p : BitVec 3) (m : BitVec 1) (s : State) :
    Host.Outcome State Fault Refusal := specialOrder frsq k d a p m s
def execVtanh (_y : BitVec 4) (k : BitVec 1) (d a : BitVec 5) (p : BitVec 3) (m : BitVec 1) (s : State) :
    Host.Outcome State Fault Refusal := specialOrder ftanh k d a p m s

/-- a * 2^imm rounded RNE. -/
def fscale (i : BitVec 10) (w : Word) : Word := toF32 ((f32 w).scale i.toInt)

def execVscl (_y : BitVec 4) (k : BitVec 1) (d a : BitVec 5) (i : BitVec 10) (s : State) :
    Host.Outcome State Fault Refusal :=
  unaryOrder 4 8 k d a 0 false (fun _ x => nonFinite (f32finite x) (fscale i x)) s

/-- Bit 31 cleared; a NaN gives the canonical one. -/
def fabs (w : Word) : Word := if f32isNaN w then f32nan else w &&& 0x7FFFFFFF#32

def execVabs (_y : BitVec 4) (k : BitVec 1) (d a : BitVec 5) (p : BitVec 3) (m : BitVec 1) (s : State) :
    Host.Outcome State Fault Refusal := unaryOrder 4 8 k d a p (m = 1) (fun _ x => (fabs x, false)) s

/-! ### Integer (R159, Table 8.3) -/

/-- An exact result wrapped, or clamped to INT32. -/
def narrow32 (sat : Bool) (i : Int) : Word :=
  BitVec.ofInt 32 (if sat then clampInt (-2147483648) 2147483647 i else i)

/-- VIADD, VISUB, VIMUL and VSHL: md[0] is .sat when vb names a register (R70). -/
def satOrder (f : Word → Word → Int) (k : BitVec 1) (d a b : BitVec 5) (p : BitVec 3) (m : BitVec 2)
    (s : State) : Host.Outcome State Fault Refusal :=
  let isReg := b.toNat < 24
  let sat := isReg && m.getLsbD 0
  binaryOrder false k d a b p (peekA m) (!isReg && peekB m) (fun x y _ => (narrow32 sat (f x y), false)) s

def intOrder (f : Word → Word → Word) (k : BitVec 1) (d a b : BitVec 5) (p : BitVec 3) (m : BitVec 2)
    (s : State) : Host.Outcome State Fault Refusal :=
  binaryOrder false k d a b p (peekA m) (peekB m) (fun x y _ => (f x y, false)) s

def execViadd (_y : BitVec 4) (k : BitVec 1) (d a b : BitVec 5) (p : BitVec 3) (m : BitVec 2) (s : State) :
    Host.Outcome State Fault Refusal := satOrder (fun x y => x.toInt + y.toInt) k d a b p m s
def execVisub (_y : BitVec 4) (k : BitVec 1) (d a b : BitVec 5) (p : BitVec 3) (m : BitVec 2) (s : State) :
    Host.Outcome State Fault Refusal := satOrder (fun x y => x.toInt - y.toInt) k d a b p m s
def execVimul (_y : BitVec 4) (k : BitVec 1) (d a b : BitVec 5) (p : BitVec 3) (m : BitVec 2) (s : State) :
    Host.Outcome State Fault Refusal := satOrder (fun x y => x.toInt * y.toInt) k d a b p m s
def execVshl (_y : BitVec 4) (k : BitVec 1) (d a b : BitVec 5) (p : BitVec 3) (m : BitVec 2) (s : State) :
    Host.Outcome State Fault Refusal := satOrder (fun x y => x.toInt * 2 ^ (y.toNat % 32)) k d a b p m s
def execVand (_y : BitVec 4) (k : BitVec 1) (d a b : BitVec 5) (p : BitVec 3) (m : BitVec 2) (s : State) :
    Host.Outcome State Fault Refusal := intOrder (· &&& ·) k d a b p m s
def execVor (_y : BitVec 4) (k : BitVec 1) (d a b : BitVec 5) (p : BitVec 3) (m : BitVec 2) (s : State) :
    Host.Outcome State Fault Refusal := intOrder (· ||| ·) k d a b p m s
def execVxor (_y : BitVec 4) (k : BitVec 1) (d a b : BitVec 5) (p : BitVec 3) (m : BitVec 2) (s : State) :
    Host.Outcome State Fault Refusal := intOrder (· ^^^ ·) k d a b p m s
def execVshr (_y : BitVec 4) (k : BitVec 1) (d a b : BitVec 5) (p : BitVec 3) (m : BitVec 2) (s : State) :
    Host.Outcome State Fault Refusal := intOrder (fun x y => x >>> (y.toNat % 32)) k d a b p m s
def execVsra (_y : BitVec 4) (k : BitVec 1) (d a b : BitVec 5) (p : BitVec 3) (m : BitVec 2) (s : State) :
    Host.Outcome State Fault Refusal := intOrder (fun x y => x.sshiftRight (y.toNat % 32)) k d a b p m s
def execVimin (_y : BitVec 4) (k : BitVec 1) (d a b : BitVec 5) (p : BitVec 3) (m : BitVec 2) (s : State) :
    Host.Outcome State Fault Refusal := intOrder (fun x y => if x.slt y then x else y) k d a b p m s
def execVimax (_y : BitVec 4) (k : BitVec 1) (d a b : BitVec 5) (p : BitVec 3) (m : BitVec 2) (s : State) :
    Host.Outcome State Fault Refusal := intOrder (fun x y => if x.slt y then y else x) k d a b p m s

/-! ### Compare, select, mask logic (R160) -/

/-- The eight conditions of VCMP (Table 4.9). -/
def vcond (c : BitVec 3) (a b : Word) : Bool :=
  match c.toNat with
  | 0 => (f32 a).eq (f32 b)
  | 1 => !((f32 a).eq (f32 b))
  | 2 => (f32 a).lt (f32 b)
  | 3 => (f32 b).lt (f32 a) || (f32 a).eq (f32 b)
  | 4 => a = b
  | 5 => a ≠ b
  | 6 => a.slt b
  | _ => b.sle a

/-- Sixteen mask rows written later. -/
def State.maskResult (s : State) (m : Nat) (bit : Nat → Bool) : State :=
  s.results 8 (.mask m) ((List.range 1024).filterMap (fun e => if bit e then some (e, 1#32) else none)) [] false

/-- VCMP; a poisoned element compares as 0 and taints the timetable (R155). -/
def execVcmp (_y : BitVec 4) (k : BitVec 1) (c : BitVec 3) (a b : BitVec 5) (p : BitVec 3) (m : BitVec 2)
    (s : State) : Host.Outcome State Fault Refusal :=
  .next (s.issueVector k 4 (fun s =>
    match s.me.source a.toNat (peekA m) with
    | .error r => .error r
    | .ok (x, q) =>
      match q.source b.toNat (peekB m) with
      | .error r => .error r
      | .ok (y, q) =>
        let s := s.modMe (fun _ => q)
        let bad := fun e => x.isBad e || y.isBad e
        let s := if x.bad.isEmpty && y.bad.isEmpty then s else s.readPoison s.cur subQueue 0 (engUnit .vector)
        .ok (s.maskResult p.toNat (fun e => !bad e && vcond c (x.at_ e) (y.at_ e)))))

def execVsel (_y : BitVec 4) (k : BitVec 1) (d a b : BitVec 5) (p : BitVec 3) (m : BitVec 2) (s : State) :
    Host.Outcome State Fault Refusal :=
  let site := s.vsite
  .next (s.issueVector k 4 (fun s =>
    match s.me.source a.toNat (peekA m) with
    | .error r => .error r
    | .ok (x, q) =>
      match q.source b.toNat (peekB m) with
      | .error r => .error r
      | .ok (y, q) =>
        let s := s.modMe (fun _ => q)
        .ok (s.elementResults 8 (q.dest d.toNat site) ((List.range 1024).map (fun e =>
          let z := if q.vec.maskBit p.toNat e then x else y
          (e, ⟨z.at_ e, z.isBad e, false⟩))))))

def execVmlog (_y : BitVec 4) (k : BitVec 1) (d : BitVec 3) (a b : BitVec 5) (l : BitVec 2) (s : State) :
    Host.Outcome State Fault Refusal :=
  .next (s.issueVector k 4 (fun s =>
    let v := s.me.vec
    .ok (s.maskResult d.toNat (fun e => plogOp l (v.maskBit a.toNat e) (v.maskBit b.toNat e)))))

/-! ### Conversion, quantisation, rotation (R161 to R164) -/

/-- An order of one source that is never predicated, over whole rows: `f` gives the elements of each row and
whether the row sets VNF. -/
def rowOrder (occ lat : Nat) (k : BitVec 1) (d a : BitVec 5) (peek : Bool)
    (f : State → VOperand → List (Nat × VElem)) (after : State → State) (s : State) :
    Host.Outcome State Fault Refusal :=
  let site := s.vsite
  .next (s.issueVector k occ (fun s =>
    match s.me.source a.toNat peek with
    | .error r => .error r
    | .ok (x, q) =>
      let s := s.modMe (fun _ => q)
      .ok (after (s.elementResults lat (q.dest d.toNat site) (f s x)))))

/-- One more SR-rounding operation of the vector engine (R40). -/
def countSr (mode : Nat) (e : Eng) (s : State) : State :=
  if mode = 2 then s.modMe (·.modEng e (fun g => { g with sr := g.sr + 1 })) else s

/-- u of each element for an engine's next SR rounding (R40). -/
def Core.draw (k : Core) (e : Eng) : Nat → Nat := srDraw k.view.rngseed (k.engine e).sr.toNat

/-- VCVT's conversions. -/
def convert (fmt mode : Nat) (draw : Nat → Nat) (e : Nat) (w : Word) : Word × Bool :=
  let r := rndOf mode draw e
  match fmt with
  | 0 => (BitVec.ofNat 32 (fp32.round r false (Num.ofInt w.toInt)).1, false)
  | 1 =>
    let x := bf16.round r (mode = 3) (f32 w)
    (BitVec.ofNat 32 x.1, x.2 = .ovf)
  | 2 =>
    let x := fp16.round r (mode = 3) (f32 w)
    (BitVec.ofNat 32 x.1, x.2 = .ovf)
  | 3 => (narrow32 true (numToInt r (f32 w)), false)
  | _ => (BitVec.ofInt 32 (clampInt (-128) 127 (numToInt r (f32 w))), false)

def execVcvt (_y : BitVec 4) (k : BitVec 1) (d a : BitVec 5) (f : BitVec 3) (r : BitVec 2) (s : State) :
    Host.Outcome State Fault Refusal :=
  rowOrder 4 8 k d a false (fun s x =>
    let draw := s.me.draw .vector
    (List.range 1024).map (fun e =>
      let v := convert f.toNat r.toNat draw e (x.at_ e)
      (e, ⟨v.1, x.isBad e, v.2 && !x.isBad e⟩))) (countSr r.toNat .vector) s

/-- Sign seed of a register (R23). -/
def Core.seedAt (k : Core) (n : Nat) : Word := vecGet k.ss 0 n

/-- u of the scale of a group, which the spec does not state: a free value (R40, R49, log 14). -/
def State.scaleDraw (s : State) : Nat → Nat := fun g => (Config.freeValue (s.fresh + g) >>> 32).toNat

/-- Free values used up. -/
def State.useFresh (n : Nat) (s : State) : State := { s with fresh := s.fresh + n }

/-- Elements of a row from its stored bytes, zero filled, each word poisoned that holds a byte of a poisoned
run. -/
def packedRow (r : Nat) (bytes : List Byte) (runBytes : Nat) (runBad : Nat → Bool) (vnf : Bool) :
    List (Nat × VElem) :=
  let a := bytes.toArray
  (List.range 64).map (fun c =>
    let w := leNat ((List.range 4).map (fun i => a.getD (4 * c + i) 0))
    let bad := (List.range 4).any (fun i => 4 * c + i < bytes.length && runBad ((4 * c + i) / runBytes))
    (64 * r + c, ⟨BitVec.ofNat 32 w, bad, vnf⟩))

/-- The narrowing of a VQNT: rotated blocks of 32, with the check byte of their tag (R162, R39 to R42). -/
def State.quantNarrowing (s : State) (q : BitVec 4) (f : BitVec 3) (v : BitVec 1) (r : BitVec 2) : Narrowing :=
  { code := f.toNat + 3, sat := r.toNat = 3, mode := r.toNat, draw := s.me.draw .vector, scaleDraw := s.scaleDraw, run := 32,
    rotate := some (s.me.seedAt q.toNat, v = 1), check := checkByte ⟨true, true, v = 1, q⟩ }

/-- Row `row` of an operand quantised: its two runs, each with its outcomes (R162). -/
def Narrowing.row (n : Narrowing) (row : Nat) (xs : List Word) : List (QBlock × QFlags) :=
  n.runs (64 * row) (2 * row) (xs.map f32)

/-- VQNT. A block that holds a poisoned word sets no VNF (log 121). -/
def execVqnt (_y : BitVec 4) (k : BitVec 1) (d a : BitVec 5) (q : BitVec 4) (f : BitVec 3) (v : BitVec 1)
    (r : BitVec 2) (s : State) : Host.Outcome State Fault Refusal :=
  rowOrder 8 20 k d a false (fun s x =>
    let n := s.quantNarrowing q f v r
    (List.range 16).flatMap (fun row =>
      let out := n.row row (x.row row)
      let bytes := lineBytes n.code (out.map Prod.fst)
      let runBad := fun h => (List.range 32).any (fun c => x.isBad (64 * row + 32 * h + c))
      packedRow row bytes (bytes.length / 2) runBad ((out.zipIdx).any (fun p => p.1.2.ovf && !runBad p.2))))
    (fun s => countSr r.toNat .vector (s.useFresh 32)) s

/-- The rows of an operand as bytes. -/
def VOperand.rowBytes (x : VOperand) (r : Nat) : List Byte := bytesOf (x.row r)

/-- Words of a row that hold bytes of run h of a stored line. -/
def runPoisoned (x : VOperand) (r h size : Nat) : Bool :=
  (List.range 64).any (fun c => x.isBad (64 * r + c) && 4 * c < (h + 1) * size && h * size < 4 * c + 4)

/-- 32 result elements of a block. -/
def blockElems (r h : Nat) (ws : List Word) (bad vnf : Bool) : List (Nat × VElem) :=
  (ws.zipIdx (64 * r + 32 * h)).map (fun p => (p.2, ⟨p.1, bad, vnf⟩))

/-- The runs of a row of stored bytes, 32 elements each (R163). -/
def VOperand.runs (x : VOperand) (code r : Nat) : List QBlock := parseLine code 32 64 (x.rowBytes r)

/-- Whether a check byte in the rows of an operand is not that of the tag named (R37, R163). -/
def VOperand.checkBad (x : VOperand) (code : Nat) (tag : Tag) : Bool :=
  isGroupFmt code && (List.range 16).any (fun r => (x.runs code r).any (fun b => !checkOk tag (trailerCheck b.trailer)))

/-- A run dequantised: its exact values with the rotation undone, each rounded once (R163). -/
def QBlock.dequant (b : QBlock) (code : Nat) (seed : Word) (flv : Bool) : List Word :=
  (undoBlock seed flv (b.values code)).map toF32

def execVdqnt (_y : BitVec 4) (k : BitVec 1) (d a : BitVec 5) (q : BitVec 4) (f : BitVec 3) (v : BitVec 1)
    (s : State) : Host.Outcome State Fault Refusal :=
  let code := f.toNat + 3
  let site := s.vsite
  let tag : Tag := ⟨true, true, v = 1, q⟩
  .next (s.issueVector k 8 (fun s =>
    match s.me.source a.toNat false with
    | .error r => .error r
    | .ok (x, c) =>
      let s := s.modMe (fun _ => c)
      if x.checkBad code tag then .ok (s.soon 20 rankVisible (.vectorWriteVisible ⟨.tagFault site, [], [], false⟩))
      else
        let size := 4 * codeBits code + trailerSize code
        let seed := c.seedAt q.toNat
        .ok (s.elementResults 20 (c.dest d.toNat site) ((List.range 16).flatMap (fun r =>
          (x.runs code r).zipIdx.flatMap (fun (b, h) =>
            let ws := b.dequant code seed (v = 1)
            let bad := runPoisoned x r h size
            blockElems r h ws bad (allFinite (b.values code) && ws.any (fun w => !f32finite w) && !bad)))))))

/-- VHAD on one block: rotated or undone, each wide value rounded once. -/
def hadBlock (undo : Bool) (seed : Word) (flv : Bool) (xs : List Word) : List Word × Bool :=
  let n := xs.map f32
  if allFinite n then ((if undo then undoBlock seed flv n else rotateBlock seed flv n).map toF32, false)
  else (xs.map (fun _ => f32nan), true)

def execVhad (_y : BitVec 4) (k : BitVec 1) (d a : BitVec 5) (q : BitVec 4) (f : BitVec 3) (v : BitVec 1)
    (s : State) : Host.Outcome State Fault Refusal :=
  rowOrder 8 20 k d a false (fun s x =>
    let seed := s.me.seedAt q.toNat
    (List.range 16).flatMap (fun r => (List.range 2).flatMap (fun h =>
      let bad := (List.range 32).any (fun c => x.isBad (64 * r + 32 * h + c))
      let out := hadBlock (f = 1) seed (v = 1) (((x.row r).drop (32 * h)).take 32)
      blockElems r h out.1 bad ((out.2 || out.1.any (fun w => !f32finite w)) && !bad)))) id s

/-! ### Moves and reductions (R165 to R167) -/

/-- A move: element e takes the element that `f` names. -/
def moveOrder (lat : Nat) (k : BitVec 1) (d a : BitVec 5) (f : Nat → Nat) (s : State) :
    Host.Outcome State Fault Refusal :=
  rowOrder 4 lat k d a false (fun _ x => (List.range 1024).map (fun e => (e, ⟨x.at_ (f e), x.isBad (f e), false⟩)))
    id s

def execVrotr (_y : BitVec 4) (k : BitVec 1) (d a : BitVec 5) (i : BitVec 10) (s : State) :
    Host.Outcome State Fault Refusal :=
  moveOrder 10 k d a (fun e => 64 * (e / 64) + (e % 64 + 64 - i.toNat % 64) % 64) s
def execVrotc (_y : BitVec 4) (k : BitVec 1) (d a : BitVec 5) (i : BitVec 10) (s : State) :
    Host.Outcome State Fault Refusal :=
  moveOrder 14 k d a (fun e => 64 * ((e / 64 + 16 - i.toNat % 16) % 16) + e % 64) s
def execVbcr (_y : BitVec 4) (k : BitVec 1) (d a : BitVec 5) (i : BitVec 10) (s : State) :
    Host.Outcome State Fault Refusal := moveOrder 14 k d a (fun e => 64 * i.toNat + e % 64) s
def execVbcc (_y : BitVec 4) (k : BitVec 1) (d a : BitVec 5) (i : BitVec 10) (s : State) :
    Host.Outcome State Fault Refusal := moveOrder 10 k d a (fun e => 64 * (e / 64) + i.toNat) s

/-- The combining step of a reduction: .sum, .max, .min, .isum. -/
def redOp (o : BitVec 2) : Word → Word → Word :=
  match o.toNat with
  | 0 => fadd
  | 1 => fmax
  | 2 => fmin
  | _ => (· + ·)

/-- A list reduced pairwise, with its VNF (R53, R166). -/
def reduceList (o : BitVec 2) (levels : Nat) (l : List Word) : Word × Bool :=
  let v := (reduceLevels (redOp o) levels l).headD 0
  (v, o = 0 && l.all f32finite && !f32finite v)

def execVredr (_y : BitVec 4) (k : BitVec 1) (d a : BitVec 5) (o : BitVec 2) (s : State) :
    Host.Outcome State Fault Refusal :=
  rowOrder 4 16 k d a false (fun _ x => (List.range 16).flatMap (fun r =>
    let v := reduceList o 6 (x.row r)
    let bad := x.rowBad r
    (List.range 64).map (fun c => (64 * r + c, ⟨v.1, bad, v.2 && !bad⟩)))) id s

def execVredc (_y : BitVec 4) (k : BitVec 1) (d a : BitVec 5) (o : BitVec 2) (s : State) :
    Host.Outcome State Fault Refusal :=
  rowOrder 4 12 k d a false (fun _ x =>
    let cols := ((List.range 64).map (fun c =>
      let es := (List.range 16).map (fun r => 64 * r + c)
      let bad := es.any x.isBad
      let v := reduceList o 4 (es.map x.at_)
      (⟨v.1, bad, v.2 && !bad⟩ : VElem))).toArray
    (List.range 1024).map (fun e => (e, cols.getD (e % 64) ⟨0, false, false⟩))) id s

def execVmov (_y : BitVec 4) (k : BitVec 1) (d a : BitVec 5) (p : BitVec 3) (m : BitVec 1) (s : State) :
    Host.Outcome State Fault Refusal := unaryOrder 4 8 k d a p (m = 1) (fun _ x => (x, false)) s

/-- An order without sources: element e takes `f e`. -/
def constOrder (k : BitVec 1) (d : BitVec 5) (f : Nat → Word) (s : State) : Host.Outcome State Fault Refusal :=
  let site := s.vsite
  .next (s.issueVector k 4 (fun s =>
    .ok (s.results 8 (s.me.dest d.toNat site) ((List.range 1024).map (fun e => (e, f e))) [] false)))

def execVldi (_y : BitVec 4) (k : BitVec 1) (d : BitVec 5) (i : BitVec 10) (s : State) :
    Host.Outcome State Fault Refusal := constOrder k d (fun _ => i.signExtend 32) s
def execViota (_y : BitVec 4) (k : BitVec 1) (d : BitVec 5) (i : BitVec 10) (s : State) :
    Host.Outcome State Fault Refusal := constOrder k d (fun e => i.signExtend 32 + BitVec.ofNat 32 e) s

/-! ### The loop and the flag (R168 to R172) -/

/-- Stage predicates with sp1 as given and sp2 to sp7 false; sp0 reads as true. -/
def spOnly (first : Bool) : Byte := if first then 3 else 1

/-- A loop order issues: what a driver reads of the loop stays as it is for this cycle and the next. -/
def VectorStore.loopOrder (v : VectorStore) (tt : Nat) : VectorStore :=
  { v with before := (v.rrb, v.sp, v.vloop.isSome), loopFrom := tt + 2 }

/-- VLOOPB. -/
def execVloopb (_y : BitVec 4) (k : BitVec 1) (n : BitVec 5) (a : BitVec 5) (i : BitVec 10) (s : State) :
    Host.Outcome State Fault Refusal :=
  let head := ((s.me.engine .vector).step.toNat + 1) % 1024
  let tt := s.tt
  .next (s.issueVector k 1 (fun s =>
    let g := s.me.engine .vector
    let count := if a = 0 then i.toNat else (vecGet g.lc 0 (a.toNat - 1)).toNat
    if s.me.vec.vloop.isSome then .error (causeOccupancy, 0)
    else .ok (s.modMe (·.modVec (fun v => { v.loopOrder tt with
      rrb := 0, sp := spOnly (count ≠ 0),
      vloop := some { head := head, passes := count, stages := n.toNat, pass := 1, tail := none } })))))

/-- The stage predicates shifted up, sp1 new (R169). -/
def spShift (sp : Byte) (first : Bool) : Byte := ((sp &&& 0xFE#8) <<< 1) ||| spOnly first

/-- VLOOPE: rotate, shift the predicates and branch, indivisibly. -/
def execVloope (_y : BitVec 4) (k : BitVec 1) (s : State) : Host.Outcome State Fault Refusal :=
  let i := (s.me.engine .vector).step.toNat
  let loops := (s.me.engine .vector).loops
  let tt := s.tt
  .next (s.issueVector k 1 (fun s =>
    match s.me.vec.vloop with
    | none => .error (causeOccupancy, 0)
    | some l =>
      let begin_ := (l.head + 1023) % 1024
      let crossed := match loops with
        | [] => false
        | b :: _ => !(b.first ≤ begin_ && begin_ ≤ b.last)
      if crossed then .error (causeOccupancy, 0)
      else
        let sp := spShift s.me.vec.sp (l.pass < l.passes)
        let more := (List.range' 1 l.stages).any sp.getLsbD
        .ok (s.modMe (fun c =>
          let c := c.modVec (fun v => { v.loopOrder tt with
            rrb := v.rrb - 1,
            sp := if more then sp else 1,
            vloop := if more then some { l with pass := l.pass + 1, tail := some i } else none })
          if more then c.modEng .vector (fun g => { g with loops := loops, step := BitVec.ofNat 10 l.head })
          else c))))

/-- Index of the first VLOOPE from a word on, within `fuel` words, wrapping in the bank (R170). -/
def findVloope (g : Engine) : Nat → Nat → Option Nat
  | 0, _ => none
  | fuel + 1, i =>
    match decode (.engine .vector) (g.table.get (i % 1024 + (if g.bank then 1024 else 0))) with
    | .ok (.vloope ..) => some (i % 1024)
    | _ => findVloope g fuel (i + 1)

/-- VEXIT: the next order is the word after the next VLOOPE; ELOOP bodies that do not hold it end (log 15). -/
def execVexit (_y : BitVec 4) (k : BitVec 1) (p : BitVec 3) (s : State) : Host.Outcome State Fault Refusal :=
  let g0 := s.me.engine .vector
  let tt := s.tt
  .next (s.issueVector k 1 (fun s =>
    let v := s.me.vec
    if v.vloop.isSome && (p = 0 || !v.sp.getLsbD p.toNat) then
      match findVloope g0 1024 (g0.step.toNat + 1) with
      | none => .error (causeOccupancy, 0)
      | some i => .ok (s.modMe (fun c =>
          (c.modVec (fun v => { v.loopOrder tt with vloop := none, sp := 1 })).modEng .vector (fun g =>
            ({ g with loops := g0.loops.filter (fun l => l.first ≤ i && i ≤ l.last) }).goOn tt 1 i)))
    else .ok s))

/-- VFLAG: VNF is cleared for reads and orders of the next cycle on. -/
def execVflag (_y : BitVec 4) (k : BitVec 1) (s : State) : Host.Outcome State Fault Refusal :=
  .next (s.issueVector k 1 (fun s =>
    .ok (s.soon 1 rankFlag (.vectorWriteVisible ⟨.flag, [], [], false⟩))))

/-! ### Results becoming visible (R155) -/

/-- Values laid over a list at rising numbers; the list starts at number `i`. -/
def overlay {w : Nat} : Nat → List (BitVec w) → List (Nat × BitVec w) → List (BitVec w)
  | _, [], _ => []
  | _, l, [] => l
  | i, x :: l, (k, v) :: r =>
    if k = i then v :: overlay (i + 1) l r else x :: overlay (i + 1) l ((k, v) :: r)

/-- VECTOR_WRITE_VISIBLE. -/
def execVectorWriteVisible (w : VResult) (s : State) : Host.Outcome State Fault Refusal :=
  .next (match w.dest with
    | .reg r => s.modMe (·.modVec (fun v => { v with
        v := v.v.setRange (1024 * r) (overlay 0 (v.v.getRange (1024 * r) 1024) w.elems),
        bad := if v.bad.isEmpty && w.poison.isEmpty then []
               else v.bad.setRange (1024 * r) (overlay 0 (v.bad.getRange (1024 * r) 1024)
                 (w.elems.map (fun p => (p.1, if w.poison.contains p.1 then 1#1 else 0)))) }))
    | .mask m =>
      if m = 0 then s
      else s.modMe (·.modVec (fun v => { v with
        m := (List.range 16).foldl (fun (c : Cells 64) r =>
          c.set (16 * m + r) (w.elems.foldl (fun (x : DWord) p =>
            if p.1 / 64 = r then x ||| (1#64 <<< (p.1 % 64)) else x) 0)) v.m }))
    | .queue q site =>
      if 4 ≤ (vecGet s.me.q.oq [] q).length then s.orderFault s.cur .vector (causeOverflow, q) site
      else
        let e : Entry := ⟨Cells.dense 0 (overlay 0 (List.replicate 1024 0) w.elems), Cells.setMany [] (w.poison.map (fun e => (e, 1#1)))⟩
        s.modMe (·.modQ (fun x => { x with oq := vecMod x.oq q (fun l => l ++ [e]) }))
    | .flag => s.modMe (·.modVec (fun v => { v with vnf := w.vnf }))
    | .tagFault site => s.orderFault s.cur .vector (causeRotation, 0) site)

end Sys2Proof.Machine
end

