-- ==== Sys2Proof/Machine/Matrix.lean ====
section
/-! DEFINITION. Matrix micro-orders (07, R134 to R153, R340): waybills, tags, feeds, products, conversions,
milestone windows and MITER. -/

namespace Sys2Proof.Machine

/-! ### The waybill (R138, Tables 7.2 and 7.3) -/

def wbMfmt (w : Word) : Nat := bits w 3 0
def wbSfmt (w : Word) : Nat := bits w 7 4
def wbMode (w : Word) : Nat := bits w 9 8
def wbRnd (w : Word) : Nat := bits w 11 10
def wbSat (w : Word) : Bool := w.getLsbD 12
def wbSeed (w : Word) : Nat := bits w 16 13
def wbFlv (w : Word) : Bool := w.getLsbD 17
def wbRte (w : Word) : Bool := w.getLsbD 18
def wbGrp (w : Word) : Nat := bits w 20 19
def wbZpc (w : Word) : Bool := w.getLsbD 21

/-- One waybill popped (R138). -/
def State.popWaybill (s : State) : Except Refused (Word × State) :=
  match s.me.q.waybill with
  | [] => .error (causeWaybillUnder, 0)
  | p :: r =>
    let s := s.modMe (·.modQ (fun q => { q with waybill := r }))
    let s := if p.bad then s.readPoison s.cur subQueue 0 (engUnit .matrix) else s
    if bits p.word 31 22 ≠ 0 then .error (causeWaybill, 0) else .ok (p.word, s)

/-- One parameter word popped, and whether it is poisoned (R145, R150). -/
def State.popParam (s : State) : Except Refused (Word × Bool × State) :=
  match s.me.q.param with
  | [] => .error (causeUnderflow, 0)
  | p :: r =>
    let s := s.modMe (·.modQ (fun q => { q with param := r }))
    .ok (p.word, p.bad, if p.bad then s.readPoison s.cur subQueue 0 (engUnit .matrix) else s)

/-- A waybill fault unless a condition holds. -/
def needWaybill (ok : Bool) (f : Except Refused State) : Except Refused State :=
  if ok then f else .error (causeWaybill, 0)

/-! ### Rotation tags (R47, R139, Table 1.6) -/

/-- The rotation tag in a ring tag word. -/
def tagOfWord (w : Word) : Tag := ⟨w.getLsbD 26, w.getLsbD 25, w.getLsbD 24, w.extractLsb' 20 4⟩

def fullBit : Word := 0x08000000#32

/-- Ring tag word of a format and rotation tag, without FULL and SEQ. -/
def tagWord (fmt : Nat) (t : Tag) : Word :=
  (0#5 ++ BitVec.ofBool t.rt ++ BitVec.ofBool t.axis ++ BitVec.ofBool t.flv ++ t.seed ++ BitVec.ofNat 4 fmt
    ++ 0#16).setWidth 32

/-- A tag meets the waybill's expectation on an axis (R139). -/
def tagExpected (wb : Word) (axis : Bool) (t : Tag) : Bool :=
  if wbRte wb then t.rt && t.seed.toNat = wbSeed wb && t.flv = wbFlv wb && t.axis = axis else !t.rt

/-- A moving and a stationary tag pass together (R47). -/
def tagPair (m s : Tag) : Bool :=
  (!m.rt && !s.rt) || (m.rt && s.rt && m.axis && !s.axis && m.seed = s.seed && m.flv != s.flv)

/-! ### Tiles and slots -/

/-- Words of a tile in row-major order. -/
def MatrixStore.tileWords (m : MatrixStore) (t : Nat) : List Word := m.acc.getRange (4096 * t) 4096

/-- Poisoned cells of a tile. -/
def MatrixStore.tileBad (m : MatrixStore) (t : Nat) : Cells 1 :=
  if m.bad.isEmpty then [] else Cells.dense 0 (m.bad.getRange (4096 * t) 4096)

/-- A tile written whole. -/
def MatrixStore.setTile (m : MatrixStore) (t : Nat) (words : List Word) (bad : Cells 1) : MatrixStore :=
  { m with acc := m.acc.setRange (4096 * t) words,
           bad := if m.bad.isEmpty && bad.isEmpty then []
                  else m.bad.setRange (4096 * t) (bad.getRange 0 4096) }

/-- Windows that a write of a tile or of a slot makes unreplayable (R278). -/
def MatrixStore.spoil (m : MatrixStore) (f : Window → Bool) : MatrixStore :=
  { m with windows := m.windows.map (fun w => if f w then { w with replayable := false } else w) }

/-- What an order used, written by the order of issue cycle `order`: by another order than the one that used it (R278). -/
def usedByOther (l : List (Nat × Nat)) (n order : Nat) : Bool := l.any (fun p => p.1 = n && p.2 ≠ order)

def MatrixStore.writeTile (m : MatrixStore) (t order : Nat) (words : List Word) (bad : Cells 1) : MatrixStore :=
  (m.setTile t words bad).spoil (fun w => usedByOther w.leftTiles t order)

/-- A tile holds new words only: what was made from the old ones is no longer reached from it (R279). -/
def MatrixStore.renewed (m : MatrixStore) (t : Nat) : MatrixStore :=
  { m with drawn := m.drawn.filter (fun p => p.1 ≠ t),
           madeFrom := m.madeFrom.map (fun a => if a = some t then none else a) }

/-- A tile is written from another one (R279). -/
def MatrixStore.drawnTo (m : MatrixStore) (a d : Nat) : MatrixStore :=
  if m.drawn.contains (a, d) then m else { m with drawn := (a, d) :: m.drawn }

/-- A product, of the order of issue cycle `order`, of a slot and perhaps a left tile into a tile: what the windows of
that tile use, and what it makes reachable (R278, R279). -/
def MatrixStore.noteProduct (m : MatrixStore) (order tile slot : Nat) (left : Option Nat) : MatrixStore :=
  let m := left.toList.foldl (fun (m : MatrixStore) a => m.drawnTo a tile) m
  { m with
    usedFor := vecMod m.usedFor slot (fun l => if l.contains tile then l else tile :: l),
    windows := m.windows.map (fun w => if w.tile = tile then
      { w with reads := (slot, order) :: w.reads, leftTiles := left.toList.map (·, order) ++ w.leftTiles } else w) }

def MatrixStore.writeSlot (m : MatrixStore) (n order : Nat) (v : Slot) : MatrixStore :=
  { m with slots := vecMod m.slots n (fun _ => v) }.spoil (fun w => usedByOther w.reads n order)

/-- A slot has been filled, by an MLDS that issued then, or by a promotion of a tile (R279). -/
def MatrixStore.filled (m : MatrixStore) (n : Nat) (issue from_ : Option Nat) : MatrixStore :=
  { m with loadedAt := vecMod m.loadedAt n (fun _ => issue), usedFor := vecMod m.usedFor n (fun _ => []),
           madeFrom := vecMod m.madeFrom n (fun _ => from_) }

def MatrixStore.slot (m : MatrixStore) (n : Nat) : Slot := vecGet m.slots Slot.reset n

/-- Growth byte of a tile's words (R19). -/
def growthOf (ws : List Word) : Byte :=
  if ws.any (fun w => !f32finite w) then 0x7F#8
  else
    match (ws.map f32).filter (fun x => !(x.eq Num.zero)) with
    | [] => 0x80#8
    | x :: r => BitVec.ofInt 8 (clampInt (-127) 126 (maxInt x.log2 (r.map Num.log2)))

/-- A tile's poisoned cells read by an order taint the timetable (R277). -/
def State.readTilePoison (s : State) (t : Nat) : State :=
  if (s.me.mx.tileBad t).isEmpty then s else s.readPoison s.cur subTile t (engUnit .matrix)

/-! ### Conversion of a line inside the array (R39 to R42, R140, R142, R143, R148) -/

/-- One line of 64 values converted: codes by element, scale byte or trailer by run, poisoned elements. -/
structure Line where
  codes : List Nat
  trailers : List (List Byte)
  bad : List Bool
  flags : QFlags

/-- A block of 32 converted to a plain format; a rotated block with a NaN or infinity becomes NaNs and sets OVF. -/
def plainBlock (n : Narrowing) (b : List (Num × Nat)) (bad : List Bool) : List (Nat × Flag) × List Bool × QFlags :=
  let f := fmtOf n.code
  let raw := b.map Prod.fst
  let one := fun (p : Num × Nat) => f.round (rndOf n.mode n.draw p.2) n.sat p.1
  let flags := fun (l : List (Nat × Flag)) => l.foldl (fun (g : QFlags) x => g.or (QFlags.of x.2)) QFlags.none
  match n.rotate with
  | none =>
    let out := b.map one
    (out, bad, flags out)
  | some (seed, flv) =>
    let worse := bad.map (fun _ => bad.any id)
    if allFinite raw then
      let out := ((rotateBlock seed flv raw).zip (b.map Prod.snd)).map one
      (out, worse, flags out)
    else (raw.map (fun _ => (f.nanBits, Flag.none)), worse, ⟨true, false⟩)

/-- A line converted to a plain format. -/
def plainLine (n : Narrowing) (xs : List Num) (bad : List Bool) : Line :=
  let blocks := ((chunks 32 64 (xs.zipIdx)).zip (chunks 32 64 bad)).map (fun p => plainBlock n p.1 p.2)
  { codes := blocks.flatMap (fun b => b.1.map Prod.fst), trailers := [], bad := blocks.flatMap (·.2.1),
    flags := blocks.foldl (fun g b => g.or b.2.2) QFlags.none }

/-- A line converted to any format; a run with a poisoned element is poisoned whole. -/
def convertLine (n : Narrowing) (run0 : Nat) (xs : List Num) (bad : List Bool) : Line :=
  if n.code ≤ 2 then plainLine n xs bad
  else
    let out := n.line 0 run0 xs
    { codes := out.1.flatMap QBlock.codes, trailers := out.1.map QBlock.trailer,
      bad := (chunks n.run bad.length bad).flatMap (fun q => q.map (fun _ => q.any id)), flags := out.2 }

/-- Scale bits of a trailer: the scale byte, or the FP16 scale. -/
def scaleBits (t : List Byte) : Half := BitVec.ofNat 16 (leNat (t.take 2))

/-- A slot or left operand from 64 lines along k; `place line k` is where element k of a line stands. -/
def slotOfLines (fmt : Nat) (tag : Tag) (place : Nat → Nat → Nat) (lines : List Line) : Slot :=
  let cells := lines.zipIdx.flatMap (fun (l, x) => l.codes.zipIdx.map (fun (c, k) => (place x k, c)))
  let badc := lines.zipIdx.flatMap (fun (l, x) => l.bad.zipIdx.filterMap (fun (b, k) =>
    if b then some (place x k) else none))
  let a := cells.foldl (fun (v : Array Word) p => v.setIfInBounds p.1 (BitVec.ofNat 32 p.2)) (Array.replicate 4096 0)
  let sc := lines.zipIdx.flatMap (fun (l, x) => l.trailers.zipIdx.map (fun (t, h) => (64 * h + x, scaleBits t)))
  { fmt := BitVec.ofNat 4 fmt, grp := 0, tag := tag, elems := Cells.dense 0 a.toList,
    bad := badc.foldl (fun (m : Cells 1) c => m.set c 1) [], scale := Cells.setMany [] sc, corr := none, corrBad := [] }

/-- Promote (R142): columns of a tile converted along k. -/
def promote (n : Narrowing) (tag : Tag) (ws : List Word) (bad : Cells 1) : Slot × QFlags :=
  let a := ws.toArray
  let lines := (List.range 64).map (fun j =>
    convertLine { n with draw := fun k => n.draw (64 * k + j) } 0
      ((List.range 64).map (fun k => f32 (a.getD (64 * k + j) 0)))
      ((List.range 64).map (fun k => bad.get (64 * k + j) ≠ 0)))
  (slotOfLines n.code tag (fun j k => 64 * k + j) lines, lines.foldl (fun g l => g.or l.flags) QFlags.none)

/-- The left operand of MMULA (R52, R143): rows of a tile converted along k. -/
def leftOf (n : Narrowing) (tag : Tag) (ws : List Word) (bad : Cells 1) : Slot × QFlags :=
  let a := ws.toArray
  let lines := (List.range 64).map (fun i =>
    convertLine n 0 ((List.range 64).map (fun k => f32 (a.getD (64 * i + k) 0)))
      ((List.range 64).map (fun k => bad.get (64 * i + k) ≠ 0)))
  (slotOfLines n.code tag (fun i k => 64 * i + k) lines, lines.foldl (fun g l => g.or l.flags) QFlags.none)

/-! ### Ring slots and feeds (R17, R196, R340) -/

/-- Slot address of a ring. -/
def Ring.slotBase (r : Ring) (n : Nat) : Nat := r.base.toNat + n * r.slot.toNat * 256

def Ring.full (r : Ring) (n : Nat) : Bool := r.tags.get n &&& fullBit ≠ 0

/-- Next slot of a ring. -/
def Ring.after (r : Ring) (n : BitVec 6) : BitVec 6 := if n.toNat + 1 < r.count.toNat then n + 1 else 0

/-- The head slot of a ring taken for a read (R17): its tag word and number. It belongs to every open window. -/
def State.takeSlot (s : State) (ring : Nat) : Except Refused (Word × Nat × State) :=
  let r := s.me.getRing ring
  let n := r.head.toNat
  let w := r.tags.get n
  if !r.full n || w.setWidth 16 ≠ r.seqOut then .error (causeMiss, ring)
  else
    let s := if r.bad.get n ≠ 0 then s.readPoison s.cur subQueue 0 (engUnit .matrix) else s
    .ok (w, n, s.modMe (fun k =>
      (k.modRing ring (fun r => { r with head := r.after r.head, seqOut := r.seqOut + 1 })).modMx (fun m =>
        { m with windows := m.windows.map (fun x => { x with held := (ring, n) :: x.held }) })))

/-- A slot's FULL bit cleared. -/
def Ring.released (r : Ring) (n : Nat) : Ring := { r with tags := r.tags.set n (r.tags.get n &&& ~~~fullBit) }

/-- Beats of a feed in the order in which they are read (R340). -/
def feedBeats (code grp : Nat) : List Nat :=
  let nb := (tileSize code grp + 255) / 256
  let e := tileE code / 256
  List.range' e (nb - e) ++ List.range e

/-- A claim of whole lines of the blocks that a beat touches. -/
def State.claimBeat (s : State) (c n rank addr len : Nat) (act : Act) : State :=
  let b := addr / 0x10000
  s.claim c n rank b 0xFF (if (addr + len - 1) / 0x10000 = b then 0 else 0xFF) act

/-- A job's feed begins: one claim a beat, over a span of cycles. -/
def State.startFeed (s : State) (job base code grp rank span : Nat) : State :=
  let l := feedBeats code grp
  (l.zipIdx).foldl (fun s (b, n) =>
    s.claimBeat s.cur (n * span / l.length) rank (base + 256 * b) 256 (.read (base + 256 * b) 256 (.feed job b))) s

/-- An empty job for an order. -/
def jobOf (i : Instr) (s : State) (site : Nat) (wb : Word) (tile : Nat) : MatrixJob :=
  { order := i, issue := s.tt, site := site, waybill := wb, tile := tile, ring := 16, slot := 0, base := 0, swz := 0,
    tag := 0, release := false, bytes := [], bad := [], beatsLeft := 0, came := [], seed := 0, left := Slot.reset,
    right := Slot.reset, carry := none, first := none, count := 0, rng := s.me.view.rngseed, seedBad := false,
    seen := false }

/-- Job numbers. -/
def State.putJob (s : State) (j : MatrixJob) : Nat × State :=
  let id := s.fresh
  (id, ({ s with fresh := id + 1 }).modMe (·.modMx (fun m => { m with jobs := m.jobs.put id j })))

/-- The issuing matrix order occupies the engine, and owes its last write. -/
def State.matrixBusy (s : State) (occ owed : Nat) : State :=
  let tt := s.tt
  s.modMe (fun k => (k.modEng .matrix (fun g => { g with busy := tt + occ })).modMx (fun m => { m with
    owed := max m.owed (tt + owed) }))

/-- Whether another engine holds the lane in a span (R193). -/
def Core.laneByOther (k : Core) (lane from_ until_ : Nat) : Bool :=
  k.pad.lanes.any (fun h => h.lane = lane && h.eng ≠ .matrix && from_ < h.until_ && h.from_ < until_)

/-- A feed lane held from issue to issue + occupancy. -/
def State.feedLane (s : State) (lane occ : Nat) (f : State → Except Refused State) : Except Refused State :=
  let tt := s.tt
  if s.me.laneByOther lane tt (tt + occ + 1) then .error (causeOccupancy, 0)
  else f (s.modMe (·.holdLane tt lane .matrix tt (tt + occ + 1)))

def State.msite (s : State) : Nat := (s.me.engine .matrix).site

/-- A matrix order issues. -/
def State.issueMatrix (s : State) (k : BitVec 1) (f : State → Except Refused State) : State :=
  s.issueOrder k.toNat (some 1) f

/-- The job of a ring feed: slot checks of R138 and R196, tags of R139, claims of R340. -/
def State.feedJob (s : State) (i : Instr) (site : Nat) (wb : Word) (tile ring code grp rank span : Nat)
    (tagOk : Tag → Bool) (fill : MatrixJob → MatrixJob) (f : Nat → State → Except Refused State) :
    Except Refused State :=
  match s.takeSlot ring with
  | .error r => .error r
  | .ok (w, n, s') =>
    let r := s.me.getRing ring
    if bits w 19 16 ≠ code || r.slot.toNat * 256 < tileSize code grp then .error (causeWaybill, ring)
    else if !tagOk (tagOfWord w) then .error (causeRotation, ring)
    else
      let j := fill { jobOf i s site wb tile with
        ring := ring, slot := n, base := r.slotBase n, swz := r.swz, tag := w,
        release := s.me.mx.windows.isEmpty, beatsLeft := (feedBeats code grp).length }
      let p := s'.putJob j
      f p.1 (p.2.startFeed p.1 (r.slotBase n) code grp rank span)

/-- Bytes of the tile that the swizzle puts past the last of `nb` beats: they go with that beat (R148, R197). -/
def strayBytes (z : BitVec 7) (t nb : Nat) : List Nat :=
  ((List.range t).map (swizzle z)).filter (fun p => 256 * nb ≤ p)

/-- Bytes of a feed's tile, swizzle undone, and which of them are poisoned: each as its beat has read it; those of a beat
that comes later than the visibility stand as they do in this cycle (R340, log 16). -/
def State.feedTile (s : State) (j : MatrixJob) (code grp : Nat) : Array Byte × Array Bool :=
  let t := tileSize code grp
  let nb := (t + 255) / 256
  let pad := s.me.pad
  let late := (List.range nb).filter (fun b => !j.came.contains b)
  let stray := strayBytes j.swz t nb
  let size := stray.foldl (fun n p => max n (p + 1)) (256 * nb)
  let isLate := fun (p : Nat) => late.contains (min (p / 256) (nb - 1))
  let read := (j.bytes.getRange 0 size).toArray
  let now := if late.isEmpty then #[] else (pad.bytes j.base size).toArray
  let raw := if late.isEmpty then read
             else ((List.range size).map (fun p => if isLate p then now.getD p 0 else read.getD p 0)).toArray
  let bad := if late.isEmpty then j.bad
             else (pad.poison j.base size).foldl (fun (m : Cells 1) w => if isLate (4 * w) then m.set w 1 else m) j.bad
  (((List.range t).map (fun d => raw.getD (swizzle j.swz d) 0)).toArray,
   if bad.isEmpty then #[] else ((List.range t).map (fun d => bad.get (swizzle j.swz d / 4) != 0)).toArray)

/-- Whether code number n of a tile is poisoned. -/
def codeBad (b : Nat) (bad : Array Bool) (n : Nat) : Bool :=
  if b = 4 then bad.getD (n / 2) false
  else (List.range (b / 8)).any (fun i => bad.getD (n * (b / 8) + i) false)

/-- A tile as it enters the array: elements of line x at 64 x + k as bits or codes, scale bits and zero point of
run h of line x at 64 h + x, poisoned elements. -/
structure Side where
  code : Nat
  run : Nat
  elems : Array Nat
  bad : Array Bool
  scale : Array Nat
  zero : Array Int

/-- A fed tile by lines; `west` turns it over, with its blocks along the second index (R141, R196). -/
def sideOfTile (code grp : Nat) (west : Bool) (bytes : Array Byte) (bad : Array Bool) : Side :=
  let b := codeBits code
  let run := tileRun code grp
  let e := tileE code
  let at_ := fun (x k : Nat) => if west then 64 * x + k else 64 * k + x
  let size := trailerSize code
  let trailer := fun (h x : Nat) => (List.range size).map (fun i => bytes.getD (e + size * (64 * h + x) + i) 0)
  let tbad := fun (h x : Nat) => (List.range size).any (fun i => bad.getD (e + size * (64 * h + x) + i) false)
  let hs := (List.range (64 / run)).flatMap (fun h => (List.range 64).map (fun x => (h, x)))
  { code := code, run := run,
    elems := ((List.range 4096).map (fun n => unpackCode b bytes (at_ (n / 64) (n % 64)))).toArray,
    bad := if bad.isEmpty then #[] else ((List.range 4096).map (fun n =>
      codeBad b bad (at_ (n / 64) (n % 64)) || tbad (n % 64 / run) (n / 64))).toArray,
    scale := (hs.map (fun p => (scaleBits (trailer p.1 p.2)).toNat)).toArray,
    zero := (hs.map (fun p => trailerZero (trailer p.1 p.2))).toArray }

/-- A slot as one side; `place x k` is where its element k of line x stands. -/
def sideOfSlot (v : Slot) (place : Nat → Nat → Nat) : Side :=
  let run := tileRun v.fmt.toNat v.grp.toNat
  let a := (v.elems.getRange 0 4096).toArray
  let sc := (v.scale.getRange 0 128).toArray
  { code := v.fmt.toNat, run := run,
    elems := ((List.range 4096).map (fun n => (a.getD (place (n / 64) (n % 64)) 0).toNat)).toArray,
    bad := if v.bad.isEmpty then #[] else
      ((List.range 4096).map (fun n => v.bad.get (place (n / 64) (n % 64)) != 0)).toArray,
    scale := (sc.toList.map BitVec.toNat).toArray, zero := #[] }

/-! ### Products (R135, R137, R143, R144, Table 2.7) -/

/-- Legal pairs (Table 7.1): occupancy of MMUL and MMULA, and k of a unit; 0 for a group. -/
def pairOf (m s : Nat) : Option (Nat × Nat) :=
  let fp8 := fun n => n = 3 || n = 4
  let asym := fun n => n = 6 || n = 7
  if fp8 m && fp8 s then some (64, 32)
  else if m = 5 && s = 5 then some (32, 32)
  else if (fp8 m && s = 5) || (m = 5 && fp8 s) then some (64, 32)
  else if (m = 1 && s = 1) || (m = 2 && s = 2) then some (128, 8)
  else if m = 0 && s = 0 then some (512, 1)
  else if m = 8 && s = 8 then some (64, 1)
  else if m = 7 && s = 7 then some (32, 0)
  else if (asym m || m = 8) && (asym s || s = 8) then some (64, 0)
  else none

/-- Exact sum of products of a unit. -/
def sumNums : List Num → Num
  | [] => Num.zero
  | x :: r => r.foldl Num.add x

/-- The contribution of one unit to one cell added to C: line i of the moving side, line j of the stationary one,
k from k0 on (Table 2.7, R137). Elements of grouped slots are q - z. -/
def unitStep (m st : Side) (c : Word) (i j k0 n : Nat) : Word :=
  let ks := List.range' k0 n
  let ae := fun k => m.elems.getD (64 * i + k) 0
  let se := fun k => st.elems.getD (64 * j + k) 0
  if isBlockFmt m.code then
    let h := k0 / 32
    let p := sumNums (ks.map (fun k => ((fmtOf m.code).decode (ae k)).mul ((fmtOf st.code).decode (se k))))
    let sc := (scaleNum (m.scale.getD (64 * h + i) 0)).mul (scaleNum (st.scale.getD (64 * h + j) 0))
    toF32 ((f32 c).add (p.mul sc))
  else if m.code ≤ 2 then
    toF32 ((f32 c).add (sumNums (ks.map (fun k => ((fmtOf m.code).decode (ae k)).mul ((fmtOf st.code).decode (se k))))))
  else
    c + BitVec.ofInt 32 ((ks.map (fun k => codeInt 8 (ae k) * codeInt 32 (se k))).foldl (· + ·) 0)

/-- Exact integer sums of an asymmetric unit: sum of q S and sum of S over its k. -/
def groupSums (m st : Side) (i j k0 n : Nat) : Int × Int :=
  (List.range' k0 n).foldl (fun (p : Int × Int) k =>
    let s := codeInt 32 (st.elems.getD (64 * j + k) 0)
    (p.1 + codeInt (codeBits m.code) (m.elems.getD (64 * i + k) 0) * s, p.2 + s)) (0, 0)

/-- s_a s_b (P - z_a sum S) added to C with one rounding (R137). -/
def groupStep (m st : Side) (c : Word) (i j h : Nat) (p sum : Int) : Word :=
  let sa := if isGroupFmt m.code then fp16.decode (m.scale.getD (64 * h + i) 0) else Num.ofInt 1
  let za := if isGroupFmt m.code then m.zero.getD (64 * h + i) 0 else 0
  let hs := if st.run = 64 then 0 else h
  let sb := if isGroupFmt st.code then fp16.decode (st.scale.getD (64 * hs + j) 0) else Num.ofInt 1
  toF32 ((f32 c).add ((sa.mul sb).mul (Num.ofInt (p - za * sum))))

/-- Group size of an asymmetric product: the moving operand's, else that of the slot (log 17). -/
def productGrp (wb : Word) (v : Slot) : Nat := if isGroupFmt (wbMfmt wb) then wbGrp wb else v.grp.toNat

/-- k of one unit of a product. -/
def unitSize (wb : Word) (v : Slot) (u : Nat) : Nat := if u = 0 then min 64 (groupSize (productGrp wb v)) else u

/-- A product is being set up: checks of R137, R143, R144, R47, the units, the windows. MODE 10 with a carry pending but a
product that is no 128-group, for which R144 names no fault, is a waybill fault (DESIGN CHOICE, log 149). -/
def productOk (wb : Word) (v : Slot) (carried : Bool) : Bool :=
  let m := wbMfmt wb
  let pending := wbMode wb = 2
  let half := (pairOf m (wbSfmt wb)).any (fun p => p.2 = 0) && productGrp wb v = 2
  wbSfmt wb = v.fmt.toNat && (pairOf m (wbSfmt wb)).isSome &&
    (!isGroupFmt m || (wbZpc wb && v.corr.any (fun c => c.1.toNat = wbGrp wb))) &&
    (if pending then carried && half else !carried)

/-- Units of a product placed on the agenda, its k-steps and its windows noted. -/
def State.startProduct (s : State) (job tile slot : Nat) (left : Option Nat) (wb : Word) (v : Slot) : State :=
  match pairOf (wbMfmt wb) (wbSfmt wb) with
  | none => s
  | some (occ, u) =>
    let n := unitSize wb v u
    let half := u = 0 && productGrp wb v = 2
    let tt := s.tt
    let s := if half then s.soon (occ + 12) rankVisible (.matrixUnitVisible job 0)
      else (List.range (64 / n)).foldl (fun s i =>
        s.soon (12 + (i + 1) * n * occ / 64) rankVisible (.matrixUnitVisible job i)) s
    (s.matrixBusy occ (occ + 12)).modMe (·.modMx (fun m => { m with
      carry := if half then (if wbMode wb = 2 then m.carry.drop tile else m.carry.put tile job) else m.carry,
      ksteps := (tt, tt + occ) :: m.ksteps }.noteProduct tt tile slot left))

def execMmul (y : BitVec 4) (k : BitVec 1) (d : BitVec 6) (r : BitVec 4) (t : BitVec 2) (s : State) :
    Host.Outcome State Fault Refusal :=
  let site := s.msite
  .next (s.issueMatrix k (fun s =>
    match s.popWaybill with
    | .error e => .error e
    | .ok (wb, s) =>
      let v := s.me.mx.slot t.toNat
      let first := s.me.mx.carry.find d.toNat
      needWaybill (wbGrp wb ≠ 3 && wbMode wb ≠ 3 && wbMfmt wb ≤ 8 && productOk wb v first.isSome) (
        let occ := ((pairOf (wbMfmt wb) (wbSfmt wb)).map Prod.fst).getD 64
        s.feedLane 0 occ (fun s =>
          s.feedJob (.mmul y k d r t) site wb d.toNat r.toNat (wbMfmt wb) (wbGrp wb) 1 occ
            (fun tag => tagExpected wb true tag && tagPair tag v.tag)
            (fun j => { j with right := v, first := first })
            (fun id s =>
              let s := if v.bad.isEmpty then s else s.readPoison s.cur subTile t.toNat (engUnit .matrix)
              .ok (s.startProduct id d.toNat t.toNat none wb v))))))

/-- Rotation of a conversion inside the array (R140). -/
def rotationOf (k : Core) (wb : Word) : Option (Word × Bool) :=
  if wbRte wb then some (k.seedAt (wbSeed wb), wbFlv wb) else none

def arrayTag (wb : Word) (axis : Bool) : Tag :=
  if wbRte wb then ⟨true, axis, wbFlv wb, BitVec.ofNat 4 (wbSeed wb)⟩ else Tag.none

/-- MSTAT flags that perform `n` cycles on (R20, R27). -/
def State.flagsAt (s : State) (n : Nat) (f : QFlags) : State :=
  if f.ovf || f.sat then s.soon n rankFlag (.tileWriteVisible (.flags f.ovf f.sat)) else s

/-- Cycle of a product's first unit, from its issue (R135). -/
def firstUnit (wb : Word) (v : Slot) : Nat :=
  match pairOf (wbMfmt wb) (wbSfmt wb) with
  | none => 12
  | some (occ, u) => 12 + unitSize wb v u * occ / 64

def execMmula (y : BitVec 4) (k : BitVec 1) (d a : BitVec 6) (t : BitVec 2) (s : State) :
    Host.Outcome State Fault Refusal :=
  let site := s.msite
  .next (s.issueMatrix k (fun s =>
    match s.popWaybill with
    | .error e => .error e
    | .ok (wb, s) =>
      let m := s.me.mx
      let v := m.slot t.toNat
      needWaybill (wbMode wb ≤ 1 && wbMfmt wb ≤ 5 && productOk wb v (m.carry.find d.toNat).isSome) (
        let tag := arrayTag wb true
        if !tagPair tag v.tag then .error (causeRotation, t.toNat)
        else
          let n : Narrowing := {
            code := wbMfmt wb, sat := wbSat wb, mode := 0, draw := fun _ => 0, scaleDraw := fun _ => 0, run := 32,
            rotate := rotationOf s.me wb, check := 0 }
          let l := leftOf n tag (m.tileWords a.toNat) (m.tileBad a.toNat)
          let s := s.readTilePoison a.toNat
          let s := if v.bad.isEmpty then s else s.readPoison s.cur subTile t.toNat (engUnit .matrix)
          let p := s.putJob { jobOf (.mmula y k d a t) s site wb d.toNat with left := l.1, right := v }
          .ok ((p.2.flagsAt (firstUnit wb v) l.2).startProduct p.1 d.toNat t.toNat (some a.toNat) wb v))))

/-- Both sides of a job's product. -/
def State.sidesOf (s : State) (j : MatrixJob) : Side × Side :=
  let st := sideOfSlot j.right (fun x k => 64 * k + x)
  match j.order with
  | .mmul .. =>
    let g := wbGrp j.waybill
    let f := s.feedTile j (wbMfmt j.waybill) g
    (sideOfTile (wbMfmt j.waybill) g false f.1 f.2, st)
  | _ => (sideOfSlot j.left (fun x k => 64 * x + k), st)

/-- Whether a poisoned element of one side enters a unit (R143). -/
def unitBad (m : Side) (k0 n : Nat) : Bool :=
  (List.range 64).any (fun x => (List.range' k0 n).any (fun k => m.bad.getD (64 * x + k) false))

/-- Whether a poisoned correction sum enters unit u of an asymmetric product: each group has one sum a column. -/
def sumsBad (v : Slot) (u : Nat) : Bool := (List.range 64).any (fun x => v.corrBad.get (64 * u + x) ≠ 0)

/-- A tile with each cell recomputed; a poisoned element that enters the unit poisons every cell (R143). -/
def MatrixStore.updateTile (m : MatrixStore) (t order : Nat) (anew worse : Bool) (f : Word → Nat → Nat → Word) : MatrixStore :=
  let ws := m.tileWords t
  let old := m.tileBad t
  let new := ws.zipIdx.map (fun p => f (if anew then 0 else p.1) (p.2 / 64) (p.2 % 64))
  let bad : Cells 1 :=
    if worse then Cells.dense 0 (List.replicate 4096 1#1) else if anew then [] else old
  let m := m.writeTile t order new bad
  if anew then m.renewed t else m

/-- The last visibility of a job has passed: the job goes, or stays for the beats that come late (R340). -/
def MatrixStore.finish (m : MatrixStore) (job : Nat) (j : MatrixJob) : MatrixStore :=
  { m with jobs := if j.beatsLeft = 0 then m.jobs.drop job else m.jobs.put job { j with seen := true } }

/-- MATRIX_UNIT_VISIBLE (R135): unit u of a product is added to its tile; a 128-group's first half goes to the
carry, its second completes it (R144). -/
def execMatrixUnitVisible (job u : Nat) (s : State) : Host.Outcome State Fault Refusal :=
  .next (match s.me.mx.jobs.find job with
    | none => s
    | some j =>
      let wb := j.waybill
      match pairOf (wbMfmt wb) (wbSfmt wb) with
      | none => s
      | some (_, uk) =>
        let n := unitSize wb j.right uk
        let sd := s.sidesOf j
        let m := sd.1
        let st := sd.2
        let k0 := u * n
        let worse := unitBad m k0 n || unitBad st k0 n || (uk = 0 && isGroupFmt m.code && sumsBad j.right u)
        let drop := fun (x : MatrixStore) => if k0 + n = 64 then x.finish job j else x
        if uk ≠ 0 then
          let anew := decide (wbMode wb = 0 ∧ u = 0)
          s.modMe (·.modMx (fun x => drop (x.updateTile j.tile j.issue anew worse (fun c i k => unitStep m st c i k k0 n))))
        else if productGrp wb j.right = 2 then
          if wbMode wb = 2 then
            let c := ((j.first.bind (s.me.mx.jobs.find ·)).bind (·.carry)).getD ⟨[], [], []⟩
            let sums := (c.sum.getRange 0 4096).toArray
            let corr := (c.corr.getRange 0 64).toArray
            let done := fun (x : MatrixStore) => match j.first with
              | some f => { x with jobs := x.jobs.drop f }
              | none => x
            s.modMe (·.modMx (fun x =>
              drop (done (x.updateTile j.tile j.issue false (worse || !c.bad.isEmpty) (fun w i k =>
                let p := groupSums m st i k 0 64
                groupStep m st w i k 0 (p.1 + (sums.getD (64 * i + k) 0).toInt) (p.2 + (corr.getD k 0).toInt))))))
          else
            let cells := (List.range 4096).map (fun q => BitVec.ofInt 32 (groupSums m st (q / 64) (q % 64) 0 64).1)
            let corr := (List.range 64).map (fun q => BitVec.ofInt 32 (groupSums m st 0 q 0 64).2)
            let c : Carry := {
              sum := Cells.dense 0 cells, corr := Cells.dense 0 corr,
              bad := if worse then Cells.dense 0 (List.replicate 4096 1) else [] }
            s.modMe (·.modMx (fun x =>
              let x := { x with jobs := x.jobs.put job { j with carry := some c } }
              if wbMode wb = 0 then (x.writeTile j.tile j.issue (List.replicate 4096 0) []).renewed j.tile else x))
        else
          let anew := decide (wbMode wb = 0 ∧ u = 0)
          s.modMe (·.modMx (fun x => drop (x.updateTile j.tile j.issue anew worse (fun c i k =>
            let p := groupSums m st i k k0 n
            groupStep m st c i k u p.1 p.2)))))

/-! ### Stationary loads and promotion (R141, R142) -/

def execMlds (y : BitVec 4) (k : BitVec 1) (r : BitVec 4) (t : BitVec 2) (e : BitVec 1) (s : State) :
    Host.Outcome State Fault Refusal :=
  let site := s.msite
  let west := e = 1
  .next (s.issueMatrix k (fun s =>
    match s.popWaybill with
    | .error x => .error x
    | .ok (wb, s) =>
      needWaybill (wbGrp wb ≠ 3 && wbSfmt wb ≤ 8) (
        s.feedLane (if west then 0 else 1) 64 (fun s =>
          s.feedJob (.mlds y k r t e) site wb t.toNat r.toNat (wbSfmt wb) (wbGrp wb) (if west then 1 else 2) 64
            (fun tag => tagExpected wb false (if west then { tag with axis := !tag.axis } else tag)) id
            (fun id s => .ok ((s.soon 66 rankVisible (.tileWriteVisible (.slot id t.toNat))).matrixBusy 64 66))))))

/-- The slot that an MLDS job has loaded (R34, R141). -/
def State.loadedSlot (s : State) (j : MatrixJob) : Slot :=
  let wb := j.waybill
  let code := wbSfmt wb
  let west := match j.order with
    | .mlds _ _ _ _ e => e = 1
    | _ => false
  let f := s.feedTile j code (wbGrp wb)
  let d := sideOfTile code (wbGrp wb) west f.1 f.2
  let tag := tagOfWord j.tag
  let int := fun (x k : Nat) =>
    codeInt (codeBits code) (d.elems.getD (64 * x + k) 0) -
      (if isGroupFmt code then d.zero.getD (64 * (k / d.run) + x) 0 else 0)
  let whole := isGroupFmt code || code = 8
  let elem := fun (x k : Nat) => if whole then BitVec.ofInt 32 (int x k) else BitVec.ofNat 32 (d.elems.getD (64 * x + k) 0)
  let n := min 64 (groupSize (wbGrp wb))
  let sums := (List.range (64 / n)).flatMap (fun g => (List.range 64).map (fun x =>
    if whole then BitVec.ofInt 32 (((List.range' (g * n) n).map (int x)).foldl (· + ·) 0) else 0#32))
  { fmt := BitVec.ofNat 4 code, grp := BitVec.ofNat 2 (wbGrp wb),
    tag := if west then { tag with axis := !tag.axis } else tag,
    elems := Cells.dense 0 ((List.range 4096).map (fun q => elem (q % 64) (q / 64))),
    bad := if d.bad.isEmpty then [] else Cells.dense 0 ((List.range 4096).map (fun q =>
      if d.bad.getD (64 * (q % 64) + q / 64) false then 1#1 else 0#1)),
    scale := if trailerSize code = 0 then [] else Cells.dense 0 (d.scale.toList.map (BitVec.ofNat 16)),
    corr := if wbZpc wb then some (BitVec.ofNat 2 (wbGrp wb), Cells.dense 0 sums) else none,
    corrBad := if d.bad.isEmpty || !wbZpc wb then [] else Cells.dense 0 ((List.range (64 / n * 64)).map (fun q =>
      if (List.range' (q / 64 * n) n).any (fun k => d.bad.getD (64 * (q % 64) + k) false) then 1#1 else 0#1)) }

/-- The narrowing of a promotion under a waybill, with this order's draws from RNGSEED as its order has it. -/
def promotion (k : Core) (wb : Word) (rng : DWord) : Narrowing :=
  { code := wbSfmt wb, sat := wbSat wb, mode := wbRnd wb, draw := srDraw rng (k.engine .matrix).sr.toNat, scaleDraw := fun _ => 0, run := 32,
    rotate := rotationOf k wb, check := 0 }

def execMprom (y : BitVec 4) (k : BitVec 1) (a : BitVec 6) (t : BitVec 2) (s : State) :
    Host.Outcome State Fault Refusal :=
  let site := s.msite
  .next (s.issueMatrix k (fun s =>
    match s.popWaybill with
    | .error x => .error x
    | .ok (wb, s) =>
      needWaybill (wbRnd wb ≠ 3 && wbSfmt wb ≤ 5) (
        let m := s.me.mx
        let ws := m.tileWords a.toNat
        let p := promote (promotion s.me wb s.me.view.rngseed) (arrayTag wb false) ws (m.tileBad a.toNat)
        let s := countSr (wbRnd wb) .matrix (s.readTilePoison a.toNat)
        let q := s.putJob { jobOf (.mprom y k a t) s site wb a.toNat with right := p.1 }
        let s := q.2.soon 6 rankVisible (.tileWriteVisible (.promoted q.1 t.toNat))
        .ok (((s.soon 6 rankFlag (.tileWriteVisible (.growth a.toNat (growthOf ws)))).flagsAt 6 p.2).matrixBusy 4 6))))

/-! ### MAFF, MZERO, MCOPY, MFILL (R145 to R147) -/

/-- alpha of an exponent field: -32 is zero. -/
def maffScale (e : BitVec 6) : Option Int := if e = 0x20#6 then none else some e.toInt

def execMaff (_y : BitVec 4) (k : BitVec 1) (d e : BitVec 6) (s : State) : Host.Outcome State Fault Refusal :=
  .next (s.issueMatrix k (fun s =>
    match s.popParam with
    | .error x => .error x
    | .ok (beta, bad, s) =>
      .ok ((s.soon 4 rankVisible (.tileWriteVisible (.affine d.toNat false (maffScale e) beta bad s.tt))).matrixBusy 2 4)))

def execMzero (_y : BitVec 4) (k : BitVec 1) (d : BitVec 6) (s : State) : Host.Outcome State Fault Refusal :=
  .next (s.issueMatrix k (fun s =>
    .ok ((s.soon 2 rankVisible (.tileWriteVisible (.tile d.toNat (List.replicate 4096 0) [] s.tt))).matrixBusy 1 2)))

/-- A tile write of the words of another tile. -/
def MatrixStore.copyOf (m : MatrixStore) (d a order : Nat) : TileWrite :=
  .tile d (m.tileWords a) ((m.tileBad a).map Prod.fst) order

def execMcopy (_y : BitVec 4) (k : BitVec 1) (d a : BitVec 6) (s : State) : Host.Outcome State Fault Refusal :=
  .next (s.issueMatrix k (fun s =>
    .ok ((((s.readTilePoison a.toNat).soon 4 rankVisible
      (.tileWriteVisible (s.me.mx.copyOf d.toNat a.toNat s.tt))).modMe (·.modMx (·.drawnTo a.toNat d.toNat))).matrixBusy 2 4)))

def execMfill (y : BitVec 4) (k : BitVec 1) (d : BitVec 6) (r : BitVec 4) (c : BitVec 1) (s : State) :
    Host.Outcome State Fault Refusal :=
  let site := s.msite
  .next (s.issueMatrix k (fun s =>
    match s.popWaybill with
    | .error x => .error x
    | .ok (wb, s) =>
      needWaybill (wbMfmt wb ≤ 8 && (!isGroupFmt (wbMfmt wb) || wbGrp wb ≠ 3)) (
        s.feedLane 0 64 (fun s =>
          let tagSeed := ((s.me.getRing r.toNat).tags.get (s.me.getRing r.toNat).head.toNat).extractLsb' 20 4
          s.feedJob (.mfill y k d r c) site wb d.toNat r.toNat (wbMfmt wb) (wbGrp wb) 1 64 (tagExpected wb true)
            (fun j => { j with seed := s.me.seedAt tagSeed.toNat })
            (fun id s => .ok ((s.soon 66 rankVisible (.tileWriteVisible (.fill id d.toNat (c = 1)))).matrixBusy 64 66))))))

/-- The values of an MFILL job, row-major, with its poisoned cells (R147). -/
def State.fillValues (s : State) (j : MatrixJob) : List Word × Cells 1 :=
  let wb := j.waybill
  let code := wbMfmt wb
  let f := s.feedTile j code (wbGrp wb)
  let d := sideOfTile code (wbGrp wb) false f.1 f.2
  let tag := tagOfWord j.tag
  let lines := (List.range 64).map (fun i =>
    if code = 8 && !tag.rt then (List.range 64).map (fun k => BitVec.ofInt 32 (codeInt 8 (d.elems.getD (64 * i + k) 0)))
    else
      let vals := (tileLine code (wbGrp wb) f.1 i).flatMap (QBlock.values code)
      let vals := if tag.rt then ((chunks 32 2 vals).map (undoBlock j.seed tag.flv)).flatten else vals
      vals.map toF32)
  let isBad := fun (n : Nat) =>
    if tag.rt then (List.range 32).any (fun q => d.bad.getD (32 * (n / 32) + q) false) else d.bad.getD n false
  (lines.flatten, if d.bad.isEmpty then [] else
    Cells.dense 0 ((List.range 4096).map (fun n => if isBad n then 1#1 else 0#1)))

/-! ### MDRAIN (R148) -/

/-- Elements of a drained line that share a scale. -/
def drainRun (wb : Word) : Nat := if isGroupFmt (wbSfmt wb) then groupSize (wbGrp wb) else 32

/-- The rotation tag that a drain gives its slots. -/
def drainTag (wb : Word) : Tag :=
  if wbSfmt wb ≤ 2 then Tag.none else ⟨true, true, wbFlv wb, BitVec.ofNat 4 (wbSeed wb)⟩

/-- The lines of a tile as MDRAIN stores them. -/
def drainNarrowing (k : Core) (s : State) (wb : Word) : Narrowing :=
  let code := wbSfmt wb
  let tag : Tag := ⟨true, true, wbFlv wb, BitVec.ofNat 4 (wbSeed wb)⟩
  { code := code, sat := wbSat wb, mode := wbRnd wb, draw := k.draw .matrix, scaleDraw := s.scaleDraw,
    run := drainRun wb,
    rotate := if code ≤ 2 then none else some (k.seedAt (wbSeed wb), wbFlv wb), check := checkByte tag }

/-- Rows of one or two tiles converted; a pair makes one line of 128 of each row. -/
def drainLines (n : Narrowing) (tiles : List (List Word × Cells 1)) : List Line :=
  let a := tiles.map (fun t => (t.1.toArray, t.2))
  (List.range 64).map (fun i =>
    let runs := 64 * a.length / n.run
    convertLine { n with draw := fun j => n.draw (64 * i + j % 64) } (runs * i)
      (a.flatMap (fun t => (List.range 64).map (fun j => f32 (t.1.getD (64 * i + j) 0))))
      (a.flatMap (fun t => (List.range 64).map (fun j => t.2.get (64 * i + j) ≠ 0))))

/-- Half h of a converted line as runs, with the same runs marked where poisoned. -/
def Line.part (l : Line) (code h : Nat) (run : Nat) : List QBlock × List QBlock :=
  let b := codeBits code
  let cs := (l.codes.drop (64 * h)).take 64
  let bs := (l.bad.drop (64 * h)).take 64
  let n := min 64 run
  let ones := 2 ^ b - 1
  (((chunks n 64 cs).zipIdx).map (fun (c, i) => ⟨c, l.trailers.getD (if 64 < run then 0 else i) []⟩),
   ((chunks n 64 bs).zipIdx).map (fun (c, i) =>
     ⟨c.map (fun x => if x then ones else 0),
      (l.trailers.getD (if 64 < run then 0 else i) []).map (fun _ => if c.any id then 0xFF#8 else 0#8)⟩))

/-- Words of a byte list that hold a nonzero byte. -/
def markedWords (marks : List Byte) : List Nat :=
  (chunks 4 marks.length marks).zipIdx.filterMap (fun (c, w) => if c.any (· ≠ 0) then some w else none)

/-- Row of a queue entry from a line's bytes, zero filled to 256. -/
def padRow (bytes : List Byte) : List Byte := bytes ++ List.replicate (256 - bytes.length) 0

/-- The four entries of a drained tile. -/
def drainEntries (code h run : Nat) (lines : List Line) : List Entry :=
  (chunks 16 4 lines).map (fun g =>
    let parts := g.map (fun l => l.part code h run)
    ⟨Cells.dense 0 (wordsOf (parts.flatMap (fun p => padRow (lineBytes code p.1)))),
     (markedWords (parts.flatMap (fun p => padRow (lineBytes code p.2)))).foldl (fun (m : Cells 1) w => m.set w 1) []⟩)

/-- Bytes of a slot swizzled: byte d of the tile stands at swizzle d; fills up whole beats of what is written. -/
def swizzled (z : BitVec 7) (bytes : List Byte) : List (Nat × Byte) :=
  bytes.zipIdx.map (fun p => (swizzle z p.2, p.1))

/-- The poisoned element lines of a tile drained into a ring, as a payload of whole tile bytes. -/
def drainPayload (code grp h run : Nat) (lines : List Line) : List Byte × List Nat :=
  let parts := lines.map (fun l => l.part code h run)
  (tileBytes code grp (parts.map Prod.fst), markedWords (tileBytes code grp (parts.map Prod.snd)))

/-- The beats of a slot at `base` that a drain writes, each with its address: beat b is bytes 256 b to 256 b + 255 of the
swizzled slot; bytes that the swizzle moves past the beats go with the last one. -/
def Scratch.drainBeats (p : Scratch) (base : Nat) (z : BitVec 7) (bytes : List Byte) (poison : List Nat) :
    List (Nat × Payload) :=
  let nb := (bytes.length + 255) / 256
  let img : Memory := (swizzled z bytes).foldl (fun (m : Memory) p => m.set p.1 p.2) []
  let covered := (swizzled z bytes).map Prod.fst
  let bad : Cells 1 := poison.foldl (fun (m : Cells 1) w => m.set (swizzle z (4 * w) / 4) 1) []
  (List.range nb).map (fun b =>
    let offs := covered.filter (fun d => d / 256 = b || (b + 1 = nb && nb ≤ d / 256))
    let lo := offs.foldl min (256 * b + 255)
    let hi := offs.foldl max lo
    let n := hi + 1 - lo
    let addr := base + lo
    let old := p.bytes addr n
    let data := (List.range n).map (fun i => if offs.contains (lo + i) then img.get (lo + i) else old.getD i 0)
    let pw := (List.range ((n + 3) / 4)).filter (fun w => bad.get (lo / 4 + w) ≠ 0)
    (addr, ⟨data, pw⟩))

/-- One slot of a ring written by a drain: beat b leaves S3 on ac0 `from_ + b` cycles on. -/
def State.drainSlot (s : State) (job base from_ : Nat) (z : BitVec 7) (bytes : List Byte) (poison : List Nat) : State :=
  (s.me.pad.drainBeats base z bytes poison).zipIdx.foldl (fun s (x, b) =>
    s.claimBeat s.cur (from_ + b + toBlock true 3 (x.1 / 0x10000)) 3 x.1 x.2.bytes.length (.write x.1 x.2 (.drain job))) s

/-- The tiles of a drain: a pair for a 128-group (R148). -/
def drained (wb : Word) (a : Nat) : List Nat := if isGroupFmt (wbSfmt wb) && wbGrp wb = 2 then [a, a + 1] else [a]

/-- Checks and set-up common to both forms of MDRAIN: waybill, tiles, flags, lines. -/
def State.drain (s : State) (a : BitVec 6)
    (f : Word → Nat → List Line → State → Except Refused State) : Except Refused State :=
  match s.popWaybill with
  | .error x => .error x
  | .ok (wb, s) =>
    let code := wbSfmt wb
    let pair := isGroupFmt code && wbGrp wb = 2
    needWaybill (wbRnd wb ≠ 3 && code ≤ 8 && (!isGroupFmt code || wbGrp wb ≠ 3) && !(pair && a.toNat = 63)) (
      let m := s.me.mx
      let ts := drained wb a.toNat
      let n := drainNarrowing s.me s wb
      let lines := drainLines n (ts.map (fun t => (m.tileWords t, m.tileBad t)))
      let flags := lines.foldl (fun g l => g.or l.flags) QFlags.none
      let s := ts.foldl State.readTilePoison s
      let s := countSr (wbRnd wb) .matrix (State.useFresh 128 s)
      let done := if pair then 136 else 72
      let s := ts.foldl (fun s t => s.soon done rankVisible (.mdrainComplete t)) (s.flagsAt 24 flags)
      let s := s.modMe (·.modMx (fun m => { m with
        windows := m.windows.map (fun w => if ts.contains w.tile then { w with draining := true } else w) }))
      f wb (if pair then 2 else 1) lines (s.matrixBusy (done - 8) done))

def execMdrainQueue (_y : BitVec 4) (k : BitVec 1) (d : BitVec 6) (q : BitVec 2) (s : State) :
    Host.Outcome State Fault Refusal :=
  let site := s.msite
  .next (s.issueMatrix k (fun s =>
    s.drain d (fun wb n lines s =>
      let code := wbSfmt wb
      let entries := (List.range n).flatMap (fun h => drainEntries code h (drainRun wb) lines)
      .ok (entries.zipIdx.foldl (fun s (e, i) => s.soon (24 + 16 * i) rankVisible (.mdrainEntryPush q.toNat (site, drained wb d.toNat) e)) s))))

def execMdrainRing (y : BitVec 4) (k : BitVec 1) (d : BitVec 6) (r : BitVec 4) (s : State) :
    Host.Outcome State Fault Refusal :=
  let site := s.msite
  .next (s.issueMatrix k (fun s =>
    s.drain d (fun wb n lines s =>
      let code := wbSfmt wb
      let g := s.me.getRing r.toNat
      let tt := s.tt
      let until_ := if n = 2 then 137 else 73
      let slots := if n = 2 then [g.tail.toNat, (g.after g.tail).toNat] else [g.tail.toNat]
      if g.slot.toNat * 256 < tileSize code (wbGrp wb) then .error (causeWaybill, r.toNat)
      else if slots.any g.full || g.fill ≠ 0 then .error (causeOverflow, r.toNat)
      else if s.me.laneByOther 4 (tt + 8) (tt + until_) then .error (causeOccupancy, 0)
      else
        let s := s.modMe (·.holdLane tt 4 .matrix (tt + 8) (tt + until_))
        .ok (slots.zipIdx.foldl (fun s (n, h) =>
          let p := drainPayload code (wbGrp wb) h (drainRun wb) lines
          let q := s.putJob { jobOf (.mdrainRing y k d r) s site wb d.toNat with
            ring := r.toNat, slot := n, base := g.slotBase n, tag := tagWord code (drainTag wb), count := 72 + 64 * h,
            beatsLeft := (p.1.length + 255) / 256 }
          q.2.drainSlot q.1 (g.slotBase n) (8 + 64 * h) g.swz p.1 p.2) s))))

/-- MDRAIN_ENTRY_PUSH of an order: its table word, and the tiles whose values the entry holds. -/
def execMdrainEntryPush (q : Nat) (order : Nat × List Nat) (e : Entry) (s : State) : Host.Outcome State Fault Refusal :=
  .next (if 4 ≤ (vecGet s.me.q.oq [] q).length then s.orderFault s.cur .matrix (causeOverflow, q) order.1
    else s.modMe (·.modQ (fun x => { x with oq := vecMod x.oq q (fun l => l ++ [e]) })))

/-- A push into the tail slot of a ring (R17). -/
def Ring.push (r : Ring) (tag : Word) : Ring :=
  let n := r.tail.toNat
  { r with tags := r.tags.set n (tag ||| fullBit ||| r.seqIn.setWidth 32), bad := r.bad.set n 0,
           tail := r.after r.tail, seqIn := r.seqIn + 1 }

/-- MDRAIN_SLOT_PUSH (R17, R148). -/
def execMdrainSlotPush (job : Nat) (s : State) : Host.Outcome State Fault Refusal :=
  .next (match s.me.mx.jobs.find job with
    | none => s
    | some j =>
      let r := s.me.getRing j.ring
      let s := s.modMe (·.modMx (fun m => { m with jobs := m.jobs.drop job }))
      if 16 ≤ j.ring then s
      else if r.full r.tail.toNat then s.orderFault s.cur .matrix (causeOverflow, j.ring) j.site
      else s.modMe (·.modRing j.ring (·.push j.tag)))

/-- The drain's beat that was written last lets the slot be pushed (R148). -/
def State.drainWritten (s : State) (job : Nat) : State :=
  match s.me.mx.jobs.find job with
  | none => s
  | some j =>
    let s := s.modMe (·.modMx (fun m => { m with jobs := m.jobs.put job { j with beatsLeft := j.beatsLeft - 1 } }))
    if j.beatsLeft = 1 then
      s.soon (max (j.issue + j.count) (s.tt + 1) - s.tt) rankVisible (.mdrainSlotPush job)
    else s

/-- MDRAIN_COMPLETE: the tile's window closes, whenever it was opened; slots no other window holds are released (R17, R149). -/
def execMdrainComplete (tile : Nat) (s : State) : Host.Outcome State Fault Refusal :=
  .next (match s.me.mx.windows.find? (fun w => w.tile = tile) with
    | none => s
    | some w =>
      let rest := s.me.mx.windows.filter (fun x => x.tile ≠ tile)
      let free := w.held.filter (fun p => !rest.any (fun x => x.held.contains p))
      s.modMe (fun k => free.foldl (fun k p => k.modRing p.1 (·.released p.2))
        (k.modMx (fun m => { m with windows := rest }))))

/-- RING_SLOT_RELEASE (R17). -/
def execRingSlotRelease (ring slot : Nat) (s : State) : Host.Outcome State Fault Refusal :=
  .next (s.modMe (·.modRing ring (·.released slot)))

/-- MMARK (R149, R278). -/
def execMmark (_y : BitVec 4) (k : BitVec 1) (d : BitVec 6) (s : State) : Host.Outcome State Fault Refusal :=
  let site := s.msite
  .next (s.issueMatrix k (fun s =>
    let m := s.me.mx
    if m.windows.any (fun w => w.tile = d.toNat) || 8 ≤ m.windows.length then .error (causeOccupancy, 0)
    else
      let w : Window := {
        tile := d.toNat, opened := s.tt, replayable := true, draining := false,
        shadow := Cells.dense 0 (m.tileWords d.toNat), shadowBad := m.tileBad d.toNat, held := [], reads := [],
        leftTiles := [] }
      let s := s.modMe (·.modMx (fun m => { m with windows := m.windows ++ [w] }))
      .ok (s.soon 4096 rankCheck (.windowOverrun d.toNat s.tt site))))

/-- WINDOW_OVERRUN: a window open for 4,096 cycles (R278); the order at fault is the MMARK that opened it. -/
def execWindowOverrun (tile opened site : Nat) (s : State) : Host.Outcome State Fault Refusal :=
  .next (if s.me.mx.windows.any (fun w => w.tile = tile && w.opened = opened) then
      s.orderFault s.cur .matrix (causeOverrun, 0) site
    else s)

/-! ### Feed beats -/

/-- A group trailer in beat b of a feed whose check byte is not that of its ring slot (R37); the last beat brings what
the swizzle puts past it too (`strayBytes`). -/
def beatCheckBad (j : MatrixJob) (code grp b : Nat) (bytes : Memory) : Bool :=
  let last := (tileSize code grp + 255) / 256 - 1
  isGroupFmt code && (List.range (64 * (64 / tileRun code grp))).any (fun n =>
    let p := swizzle j.swz (tileE code + 4 * n + 3)
    min (p / 256) last = b && !checkOk (tagOfWord j.tag) (bytes.get p))

/-- Format and group size of a job's feed. -/
def feedFormat (j : MatrixJob) : Nat × Nat :=
  match j.order with
  | .mlds .. => (wbSfmt j.waybill, wbGrp j.waybill)
  | _ => (wbMfmt j.waybill, wbGrp j.waybill)

/-- A beat of a feed has been read (R17, R37, R340). -/
def State.feedRead (s : State) (job b : Nat) (p : Payload) : State :=
  match s.me.mx.jobs.find job with
  | none => s
  | some j =>
    let f := feedFormat j
    let t := tileSize f.1 f.2
    let nb := (t + 255) / 256
    let stray := if b + 1 = nb then strayBytes j.swz t nb else []
    let bytes := stray.foldl (fun (m : Memory) p => m.set p (s.me.pad.mem.get (j.base + p)))
      (j.bytes.setRange (256 * b) p.bytes)
    let bad := stray.foldl (fun (m : Cells 1) p =>
      if s.me.pad.bad.get ((j.base + p) / 4) ≠ 0 then m.set (p / 4) 1 else m) j.bad
    let j' := { j with
      bytes := bytes, beatsLeft := j.beatsLeft - 1, came := b :: j.came,
      bad := p.poison.foldl (fun (m : Cells 1) w => m.set (64 * b + w) 1) bad }
    let s := s.modMe (·.modMx (fun m => { m with
      jobs := if j.seen && j'.beatsLeft = 0 then m.jobs.drop job else m.jobs.put job j' }))
    let s := if j'.beatsLeft = 0 && j.release && j.ring < 16 then
      s.soon 1 rankVisible (.ringSlotRelease j.ring j.slot) else s
    if beatCheckBad j f.1 f.2 b bytes then s.orderFault s.cur .matrix (causeRotation, min j.ring 15) j.site else s

/-! ### MITER (R150, R151) -/

/-- A sub-step of a recipe. A tile that is not named is the input tile X; a coefficient that is not named is the
next parameter word. -/
inductive SubStep where
  | prom (slot tile : Nat)
  | mula (d : Nat) (a : Option Nat) (slot : Nat)
  | aff (d : Nat) (neg : Bool) (scale : Option Int) (beta : Option (Word × Bool))
  | copy (d : Nat) (a : Option Nat)

/-- The sub-steps before the first iteration; `c` is horner's first coefficient and whether it is poisoned. -/
def miterInit (recipe w : Nat) (c : Word × Bool) : List SubStep :=
  match recipe with
  | 1 => [.aff w false none (some c)]
  | 3 => [.copy w none, .aff (w + 1) false none (some (0x3F800000#32, false))]
  | _ => []

/-- The sub-steps of one iteration. -/
def miterBody (recipe w s0 : Nat) : List SubStep :=
  let s1 := (s0 + 1) % 4
  match recipe with
  | 0 => [.prom s0 w, .mula w none s0]
  | 1 => [.prom s0 w, .mula w none s0, .aff w false (some 0) none]
  | 2 => [.prom s0 w, .mula (w + 1) none s0, .aff (w + 1) true (some 0) (some (0x40000000#32, false)), .prom s1 (w + 1),
          .mula (w + 2) (some w) s1, .copy w (some (w + 2))]
  | _ => [.prom s0 w, .mula (w + 2) (some (w + 1)) s0, .aff (w + 2) true (some (-1)) (some (0x3FC00000#32, false)),
          .prom s1 (w + 2), .mula (w + 3) (some w) s1, .prom s0 (w + 1), .mula (w + 1) (some (w + 2)) s0,
          .copy w (some (w + 3))]

/-- Duration of a sub-step (Table 7.4); `m` is the MMULA occupancy. -/
def SubStep.cycles (m : Nat) : SubStep → Nat
  | .prom .. => 6
  | .mula .. => m + 12
  | .aff .. => 4
  | .copy .. => 4

def stepsCycles (m : Nat) (l : List SubStep) : Nat := (l.map (SubStep.cycles m)).foldl (· + ·) 0

/-- Occupancy of a MITER. -/
def miterOcc (recipe m n : Nat) : Nat :=
  stepsCycles m (miterInit recipe 0 (0, false)) + n * stepsCycles m (miterBody recipe 0 0)

def execMiter (y : BitVec 4) (k : BitVec 1) (d a : BitVec 6) (t r : BitVec 2) (s : State) :
    Host.Outcome State Fault Refusal :=
  let site := s.msite
  .next (s.issueMatrix k (fun s =>
    match s.popWaybill with
    | .error x => .error x
    | .ok (wb, s) =>
      match pairOf (wbMfmt wb) (wbSfmt wb) with
      | none => .error (causeWaybill, 0)
      | some (m, _) =>
        needWaybill (wbRnd wb ≠ 3 && !wbRte wb && wbMfmt wb ≤ 5 && wbSfmt wb ≤ 5) (
          match s.popParam with
          | .error x => .error x
          | .ok (n, _, s) =>
            if bits n 31 12 ≠ 0 || bits n 11 0 = 0 then .error (causeParameter, 0)
            else
              let first : Except Refused (Word × Bool × State) := if r = 1 then s.popParam else .ok (0, false, s)
              match first with
              | .error x => .error x
              | .ok (c, cBad, s) =>
                let mx := s.me.mx
                let x : Slot := { Slot.reset with
                  elems := Cells.dense 0 (mx.tileWords a.toNat), bad := mx.tileBad a.toNat }
                let occ := miterOcc r.toNat m (bits n 11 0)
                let s := s.readTilePoison a.toNat
                let p := s.putJob { jobOf (.miter y k d a t r) s site wb d.toNat with
                  left := x, seed := c, seedBad := cBad, count := bits n 11 0 }
                .ok ((p.2.soon 0 rankVisible (.tileWriteVisible (.step p.1 0 0))).matrixBusy occ occ))))

/-- MITER's end, written at issue + occupancy; reads see it from the next cycle on (R151). -/
def State.miterEnd (s : State) (job : Nat) (j : MatrixJob) (recipe m iter substep tile : Nat) : State :=
  let at_ := j.issue + miterOcc recipe m j.count
  (s.modMe (·.modMx (fun x => { x with jobs := x.jobs.drop job }))).soon (at_ - s.tt) rankFlag
    (.tileWriteVisible (.iterEnd (BitVec.ofNat 12 iter) (BitVec.ofNat 4 substep) (BitVec.ofNat 6 tile)))

/-- A named tile, or the input tile as it stood at issue. -/
def MatrixStore.source (x : MatrixStore) (j : MatrixJob) : Option Nat → List Word × Cells 1
  | some t => (x.tileWords t, x.tileBad t)
  | none => (j.left.elems.getRange 0 4096, j.left.bad)

/-- The number of that tile. -/
def MatrixJob.leftTile (j : MatrixJob) (a : Option Nat) : Option Nat :=
  a.or (match j.order with
    | .miter _ _ _ x _ _ => some x.toNat
    | _ => none)

/-- One sub-step: its results are placed at its end, and the flag says whether the recipe stops after it. The spec leaves
three points open here. Each promotion counts for n of R40 as a rounding operation of its own (DESIGN CHOICE, log 146). An
OVF that a promotion sets for a block that is not finite (R50) stops the recipe as an overflow of values does, with SATV = 1
too (R151; DESIGN CHOICE, log 147). A product into a tile whose carry is pending raises no fault and leaves the carry
pending (R144; DESIGN CHOICE, log 148). -/
def State.subStep (s : State) (j : MatrixJob) (m : Nat) : SubStep → State × Bool
  | .prom slot tile =>
    let ws := s.me.mx.tileWords tile
    let p := promote (promotion s.me j.waybill j.rng) Tag.none ws (s.me.mx.tileBad tile)
    let s := countSr (wbRnd j.waybill) .matrix (s.readTilePoison tile)
    let q := s.putJob { jobOf (.mprom 0 0 (BitVec.ofNat 6 tile) (BitVec.ofNat 2 slot)) s j.site j.waybill tile with
      right := p.1, issue := j.issue }
    let s := q.2.soon 6 rankVisible (.tileWriteVisible (.promoted q.1 slot))
    ((s.soon 6 rankFlag (.tileWriteVisible (.growth tile (growthOf ws)))).flagsAt 6 p.2, p.2.ovf)
  | .mula d a slot =>
    let wb := j.waybill
    let v := s.me.mx.slot slot
    let src := s.me.mx.source j a
    let n : Narrowing := {
      code := wbMfmt wb, sat := wbSat wb, mode := 0, draw := fun _ => 0, scaleDraw := fun _ => 0, run := 32,
      rotate := none, check := 0 }
    let l := leftOf n Tag.none src.1 src.2
    let mv := sideOfSlot l.1 (fun x k => 64 * x + k)
    let st := sideOfSlot v (fun x k => 64 * k + x)
    let u := unitSize wb v (((pairOf (wbMfmt wb) (wbSfmt wb)).map Prod.snd).getD 1)
    let x := (List.range (64 / u)).foldl (fun (x : MatrixStore) i =>
      x.updateTile 0 0 (i = 0) (unitBad mv (i * u) u || unitBad st (i * u) u)
        (fun c r q => unitStep mv st c r q (i * u) u)) { MatrixStore.reset with acc := [] }
    let tt := s.tt
    let left := j.leftTile a
    let s := s.modMe (·.modMx (fun x => { x with ksteps := (tt, tt + m) :: x.ksteps }.noteProduct j.issue d slot left))
    let s := s.flagsAt (firstUnit wb v) l.2
    (s.soon (m + 12) rankVisible (.tileWriteVisible (.tile d (x.tileWords 0) ((x.tileBad 0).map Prod.fst) j.issue)), false)
  | .aff d neg scale beta =>
    match beta with
    | some b => (s.soon 4 rankVisible (.tileWriteVisible (.affine d neg scale b.1 b.2 j.issue)), false)
    | none =>
      match s.popParam with
      | .error f => (s.orderFault s.cur .matrix f j.site, true)
      | .ok (b, bad, s) => (s.soon 4 rankVisible (.tileWriteVisible (.affine d neg scale b bad j.issue)), false)
  | .copy d a =>
    let src := s.me.mx.source j a
    let s := s.modMe (·.modMx (fun x => (j.leftTile a).toList.foldl (fun (x : MatrixStore) t => x.drawnTo t d) x))
    (s.soon 4 rankVisible (.tileWriteVisible (.tile d src.1 (src.2.map Prod.fst) j.issue)), false)

/-- The next sub-step of a MITER, its end after the last one or after a promotion that overflows (R151). -/
def State.miterStep (s : State) (job iter sub : Nat) : State :=
  match s.me.mx.jobs.find job with
  | none => s
  | some j =>
    match j.order with
    | .miter _ _ d _ t r =>
      let w := d.toNat
      let m := ((pairOf (wbMfmt j.waybill) (wbSfmt j.waybill)).map Prod.fst).getD 64
      let steps := if iter = 0 then miterInit r.toNat w (j.seed, j.seedBad) else miterBody r.toNat w t.toNat
      match steps[sub]? with
      | none =>
        if j.count ≤ iter then s.miterEnd job j r.toNat m j.count 0 w
        else s.soon 0 rankVisible (.tileWriteVisible (.step job (iter + 1) 0))
      | some p =>
        let out := s.subStep j m p
        if out.2 then
          match p with
          | .prom _ tile => out.1.miterEnd job j r.toNat m (iter - 1) (sub + 1) tile
          | _ => out.1.modMe (·.modMx (fun x => { x with jobs := x.jobs.drop job }))
        else out.1.soon (p.cycles m) rankVisible (.tileWriteVisible (.step job iter (sub + 1)))
    | _ => s

/-! ### Writes becoming visible -/

/-- MAFF on a tile (R145). -/
def affineTile (ws : List Word) (neg : Bool) (scale : Option Int) (beta : Word) : List Word :=
  let sgn := fun (x : Num) => if neg then x.neg else x
  ws.zipIdx.map (fun (w, n) =>
    match scale with
    | none => if n / 64 = n % 64 then toF32 (f32 beta) else 0
    | some e =>
      let x := sgn ((f32 w).scale e)
      if n / 64 = n % 64 then toF32 (x.add (f32 beta)) else toF32 x)

/-- TILE_WRITE_VISIBLE (R136). -/
def execTileWriteVisible (w : TileWrite) (s : State) : Host.Outcome State Fault Refusal :=
  .next (match w with
    | .tile t words poison order =>
      s.modMe (·.modMx (fun m => (m.writeTile t order words (poison.foldl (fun (m : Cells 1) c => m.set c 1) [])).renewed t))
    | .affine t neg scale beta bad order =>
      s.modMe (·.modMx (fun m =>
        let diag : Cells 1 := if bad then (List.range 64).foldl (fun (c : Cells 1) i => c.set (65 * i) 1)
          (if scale.isNone then [] else m.tileBad t) else if scale.isNone then [] else m.tileBad t
        m.writeTile t order (affineTile (m.tileWords t) neg scale beta) diag))
    | .fill job t acc =>
      match s.me.mx.jobs.find job with
      | none => s
      | some j =>
        let v := s.fillValues j
        let exact := wbMfmt j.waybill = 8 && !(tagOfWord j.tag).rt
        s.modMe (·.modMx (fun m =>
          let old := m.tileWords t
          let new := if acc then (old.zip v.1).map (fun p => if exact then p.1 + p.2 else fadd p.1 p.2) else v.1
          let bad := if acc then (m.tileBad t).foldl (fun (c : Cells 1) p => c.set p.1 1) v.2 else v.2
          let m := m.writeTile t j.issue new bad
          (if acc then m else m.renewed t).finish job j))
    | .slot job n =>
      match s.me.mx.jobs.find job with
      | none => s
      | some j =>
        let v := s.loadedSlot j
        s.modMe (·.modMx (fun m => ((m.writeSlot n j.issue v).filled n (some j.issue) none).finish job j))
    | .promoted job n =>
      match s.me.mx.jobs.find job with
      | none => s
      | some j => s.modMe (·.modMx (fun m =>
          let m := (m.writeSlot n j.issue j.right).filled n none (some j.tile)
          { m with jobs := m.jobs.drop job }))
    | .flags ovf sat =>
      s.modMe (·.setMstat ((if ovf then mstatOvf else 0) ||| (if sat then mstatSat else 0)))
    | .growth t v => s.modMe (·.modMx (fun m => { m with growth := vecMod m.growth t (fun _ => v) }))
    | .step job iter sub => s.miterStep job iter sub
    | .iterEnd iter substep tile =>
      s.modMe (·.modCsr (fun r => { r with mstat := mstatIter r.mstat iter substep tile })))

end Sys2Proof.Machine
end

