-- ==== Sys2Proof/Machine/Power.lean ====
section
/-! DEFINITION. The Station Clock's tick and energy, grants, slew and balance, power alarms, storage errors from
outside, stops and holds, the targeted self-test (01, R25, R30; 15, R250 to R254, R259 to R261; 17, R273, R276 to
R285). -/

namespace Sys2Proof.Machine

/-! ### Energy (R259 to R261) and the tick (R25) -/

/-- Largest COUNT and ERES. -/
def countMax : Nat := 2 ^ 48 - 1

/-- COUNT with a charge added: it holds at its maximum and sets SAT. -/
def addEnergy (old : DWord) (n : Nat) : DWord :=
  let t := old.toNat % 2 ^ 48 + n
  if countMax < t then (old &&& 0x7FFF000000000000#64) ||| 0x8000FFFFFFFFFFFF#64
  else (old &&& 0xFFFF000000000000#64) ||| BitVec.ofNat 64 t

/-- Cycles of a list of intervals that lie in a range of cycles. -/
def overlap (l : List (Nat × Nat)) (lo hi : Nat) : Nat :=
  l.foldl (fun n p => n + (min p.2 hi - max p.1 lo)) 0

/-- Events of each class in this cycle: those counted, k-steps and leased engines at work; a hold has none of the
latter two. -/
def Core.eventsOf (k : Core) (clock n : Nat) : Nat :=
  let tt := clock - k.place.hshift
  let held := clock < k.place.frozenUntil
  vecGet k.charge 0 n +
    (if n = 2 && !held then overlap k.mx.ksteps tt (tt + 1) else if n = 6 && !held then k.leasedRunning tt else 0)

/-- Whether the context that a core holds is resident in a cycle (R260). -/
def Core.resident (k : Core) (clock : Nat) : Bool := k.place.resident.any (· ≤ clock)

/-- The charges of a cycle. -/
def Core.chargeOf (k : Core) (clock : Nat) : Nat :=
  (List.range 8).foldl (fun t n =>
    if k.view.ectl.getLsbD (8 + n) then t + k.eventsOf clock n * (vecGet k.view.ewt 0 n).toNat else t)
    (if k.view.ectl.getLsbD 16 && k.resident clock then k.view.estatic.toNat else 0)

/-- A core at the end of a cycle: ENERGY and ERES take the cycle's charges unless frozen. -/
def Core.tick (k : Core) (clock : Nat) : Core :=
  let frozen := k.view.ectl.getLsbD 0
  let k' := if frozen then k
    else k.modCsr (fun r => { r with
      energy := addEnergy r.energy (k.chargeOf clock),
      eres := if k.resident clock && r.eres.toNat < countMax then r.eres + 1 else r.eres })
  { k' with charge := Vector.replicate 8 0 }

/-- The control flit that a port's guard band takes: a hold or stop notice before a walker message, that before a
time message (R310). A Delay_Req is stamped as it leaves (R306). -/
def Port.guardBand (clock : Nat) (p : Port) : Port :=
  match p.notices.find? (fun x => x.1 = 5 || x.1 = 6) <|> p.notices.find? (fun x => x.1 = 7) <|> p.notices.head? with
  | some x => { p with notices := p.notices.erase x, req := if x.1 = 4 && x.2.1 = ptpDelayReqOut then clock else p.req }
  | none => p

/-- A guard band begins: every port sends one control flit at most. -/
def State.sendNotices (s : State) : State :=
  { s with fabric := { s.fabric with ports := s.fabric.ports.map (Port.guardBand s.clock) } }

/-- STATION_CLOCK_TICK: the cycle's charges are added, and the clock advances by one. -/
def execStationClockTick (s : State) : Host.Outcome State Fault Refusal :=
  let t := s.clock + 1
  let s := if s.clock % 256 = 232 then s.sendNotices else s
  let s := { s with clock := t, carried := [], wroteNow := [], cores := s.cores.map (fun (p : Nat × Core) => (p.1, p.2.tick s.clock)) }
  .next (if t % 65536 = 0 then s.due t rankGrantBoundary none 0 .grantBoundary else s)

/-! ### Grants, slew, balance (R250 to R254) -/

/-- GRANT_BOUNDARY: every core copies PGRANT into PLEVEL; a lower LEVEL throttles every context, the saved ones too, until its
next point (R254). -/
def execGrantBoundary (s : State) : Host.Outcome State Fault Refusal :=
  let v := s.pgrant &&& 0xFFFFFFFF0007
  let lower := v.extractLsb' 0 3 < s.plevel.extractLsb' 0 3
  .next { s with
    plevel := v,
    cores := s.cores.map (fun (p : Nat × Core) => (p.1, (p.2.modCsr (fun r => { r with plevel := v })).modPlace
      (fun q => { q with throttled := q.throttled || lower }))),
    nodes := if lower then s.nodes.map (fun (p : Nat × Node) => (p.1, { p.2 with saved := p.2.saved.map (fun (v : Saved) =>
        { v with context := v.context.modPlace (fun q => { q with throttled := true }) }) })) else s.nodes }

/-- SLEW_WINDOW_CHECK of a core, in the last cycle of a window of timetable time (R252). -/
def execSlewWindowCheck (s : State) : Host.Outcome State Fault Refusal :=
  let c := s.cur
  let k := s.me
  let tt := s.tt
  let n := overlap k.mx.ksteps (tt - 63) (tt + 1)
  let s' := s.modMe (·.modMx (fun m => { m with
    lastCount := n, ksteps := m.ksteps.filter (fun p => tt < p.2) }))
  let s' := if k.timed then s'.timedAt c 64 rankCheck .slewWindowCheck else s'
  .next (if k.mx.lastCount + k.view.slewstep.toNat < n then s'.engFault c .matrix causeSlew 0 else s')

/-- A pair changed. -/
def State.modPair (s : State) (p : Nat) (f : Pair → Pair) : State :=
  s.modDie (p / 16) (fun d => { d with pair := vecMod d.pair (p % 16) f })
def State.getPair (s : State) (p : Nat) : Pair := vecGet (s.getDie (p / 16)).pair Pair.reset (p % 16)

/-- The cores of a pair: 8 columns by 4 rows (R28). -/
def pairCores (p : Nat) : List Nat :=
  let d := p / 16
  let x := 32 * (d % 4) + 8 * (p % 4)
  let y := 16 * (d / 4) + 4 * (p % 16 / 4)
  (List.range 32).map (fun i => coreAt (x + i % 8) (y + i / 8))

/-- BALANCER_WINDOW of a pair: ballast runs when the lighter cluster's count is below 90% of the heavier's. A core that has
left timed mode counts 0 from the next window on (R252). -/
def execBalancerWindow (s : State) : Host.Outcome State Fault Refusal :=
  let p := s.cur
  let cs := pairCores p
  let sum := fun (l : List Nat) => l.foldl (fun n c => n + (s.core c).mx.lastCount) 0
  let a := sum (cs.filter (fun c => coreCol c % 8 < 4))
  let b := sum (cs.filter (fun c => 4 ≤ coreCol c % 8))
  let s := if 10 * min a b < 9 * max a b then s.modPair p (fun q => { q with pimb := q.pimb + 1 }) else s
  let s := s.modCores (cs.filter (fun c => !(s.core c).timed && (s.core c).mx.lastCount ≠ 0)) (·.modMx (fun m => { m with
    lastCount := 0 }))
  .next (match cs.find? (fun c => (s.core c).timed) with
    | some c => s.due (s.clock + 64) rankBalance (s.core c).place.node p .balancerWindow
    | none => s)

/-- POWER_ALARM: the interrupt goes to the signal box of every die (R254). -/
def execPowerAlarm (s : State) : Host.Outcome State Fault Refusal :=
  .next ((List.range 8).foldl (fun s d => (s.modDie d (fun q => { q with alarm := true })).wakeBox d) s)

/-! ### Holds: assertion (R279, R280) -/

/-- Start of a hold of a node for a detection at a cycle: HN on, or behind the hold that comes before. -/
def Node.holdStart (nd : Node) (t : Nat) : Nat :=
  match nd.holdAt with
  | some h => if h = t + nd.hn then h else max (t + nd.hn) (h + Config.holdCycles)
  | none => max (t + nd.hn) (nd.holdEnd.getD 0)

/-- A hold asserted for a detection in cycle `t`; the tiles will be replayed in it. -/
def State.startHold (s : State) (n t : Nat) (tiles : List (Nat × Nat)) : State :=
  match s.nodes.find n with
  | none => s
  | some nd =>
    let h := nd.holdStart t
    let s' := s.modNode n (fun nd => { nd with
      holdAt := some h, replay := nd.replay ++ tiles.map (fun p => (h, p.1, p.2)) })
    if nd.holdAt = some h then s'
    else
      let s' := s'.due h rankHold none n .holdBegin
      s'.notify nd 5 t n

/-! ### Storage errors (R276, R277, R279) -/

/-- A tile's window that can be replayed now. -/
def MatrixStore.replayableTile (m : MatrixStore) (t : Nat) : Bool :=
  m.windows.any (fun w => w.tile = t && w.replayable && !w.draining)

/-- Tiles written straight from a tile: as left operand, by MCOPY, or by products of a slot promoted from it. -/
def MatrixStore.madeOf (m : MatrixStore) (t : Nat) : List Nat :=
  (m.drawn.filter (fun p => p.1 = t)).map Prod.snd ++
    ((List.range 4).filter (fun n => vecGet m.madeFrom none n = some t)).flatMap (vecGet m.usedFor [] ·)

/-- Tiles reached from some, in at most a number of steps. -/
def MatrixStore.reach (m : MatrixStore) : Nat → List Nat → List Nat
  | 0, l => l
  | n + 1, l => m.reach n (l ++ ((l.flatMap m.madeOf).filter (fun t => !l.contains t)).eraseDups)

/-- Tiles that a failed cell of a tile can reach (R279). -/
def MatrixStore.reachOfTile (m : MatrixStore) (t : Nat) : List Nat := m.reach 64 [t]

/-- Whether a slot's error can be replayed: its MLDS lies inside a replayable window, and every tile written from it
since has one. -/
def MatrixStore.replayableSlot (m : MatrixStore) (n : Nat) : Bool :=
  match vecGet m.loadedAt none n with
  | none => false
  | some t => m.windows.any (fun w => w.opened ≤ t && w.replayable && !w.draining) &&
      (m.reach 64 (vecGet m.usedFor [] n)).all m.replayableTile

/-- Tiles that a hold asserted for a slot replays. -/
def MatrixStore.replayOfSlot (m : MatrixStore) (n : Nat) : List Nat := m.reach 64 (vecGet m.usedFor [] n)

/-- Whether some tile of a core is being replayed (R279). -/
def State.inReplay (s : State) (c : Nat) (tiles : List Nat) : Bool :=
  match s.nodeOf c with
  | none => false
  | some nd => nd.replay.any (fun r => r.2.1 = c && tiles.contains r.2.2 && nd.holdEnd = some (r.1 + Config.holdCycles))

/-- A whole tile poisoned. -/
def MatrixStore.poisonTile (m : MatrixStore) (t : Nat) : MatrixStore :=
  { m with bad := m.bad.setRange (4096 * t) (List.replicate 4096 1) }

/-- Entries and ring beats of a drain of a tile that have not been written yet, poisoned (R282). The runs of a pair drain
cross both tiles, so that both tiles' entries go (R148). -/
def State.poisonDrain (s : State) (c t : Nat) : State :=
  let jobs := ((s.core c).mx.jobs.filter (fun p => (match p.2.order with
    | .mdrainRing .. => (drained p.2.waybill p.2.tile).contains t
    | _ => false))).map Prod.fst
  let spoil := fun (p : Payload) => { p with poison := List.range ((p.bytes.length + 3) / 4) }
  let s := { s with agenda := s.agenda.map (fun (d : Due) =>
    if d.who ≠ c then d
    else match d.instr with
      | .mdrainEntryPush q order e =>
        if order.2.contains t then
          { d with instr := .mdrainEntryPush q order { e with poison := Cells.dense 0 (List.replicate 1024 1) } }
        else d
      | .beatWrite a p (.drain j) => if jobs.contains j then { d with instr := .beatWrite a (spoil p) (.drain j) } else d
      | _ => d) }
  s.modCore c (·.modPad (fun p => { p with claims := p.claims.map (fun (q : Claim) => match q.act with
    | .write a d (.drain j) => if jobs.contains j then { q with act := .write a (spoil d) (.drain j) } else q
    | _ => q) }))

/-- A detection in a core's array storage (R279, R282): replayed in a hold if it can be; inside a replay the tiles are
poisoned with cause 0x42; otherwise what failed is poisoned, and all of a tile whose MDRAIN has issued. -/
def State.detect (s : State) (c : Nat) (tiles : List Nat) (ok : Bool) (spoil : MatrixStore → MatrixStore)
    (addr : Nat) : State :=
  if s.inReplay c tiles then
    (s.modCore c (·.modMx (fun m => tiles.foldl MatrixStore.poisonTile m))).taint c 0x42 subTile false addr (engUnit .matrix) 0
  else match (s.core c).place.node, ok with
    | some n, true => s.startHold n s.clock (tiles.map (c, ·))
    | _, _ =>
      let drained := tiles.filter (fun t => (s.core c).mx.windows.any (fun w => w.tile = t && w.draining))
      let s := s.modCore c (·.modMx (fun m => drained.foldl MatrixStore.poisonTile (spoil m)))
      (drained.foldl (fun s t => s.poisonDrain c t) s).taint c 0x40 subTile false addr (engUnit .matrix) 0

/-- An error in a cell of a tile: in its storage, or a residue (R276, R279). -/
def State.tileError (s : State) (c t cell : Nat) : State :=
  let m := (s.core c).mx
  let reach := m.reachOfTile t
  s.detect c reach (reach.all m.replayableTile) (fun m => { m with bad := m.bad.set (4096 * t + cell % 4096) 1 }) t

/-- An array residue check fails in a cell of a tile. On a core in free mode it stops the timetable (Table 17.1); in timed
mode R279 decides. -/
def State.residueError (s : State) (c t cell : Nat) : State :=
  if (s.core c).timed then s.tileError c t cell
  else s.fatal c false 0x51 3 (faultInfo (engUnit .matrix) subTile false t) (engUnit .matrix) 0 0 0

def markPushed (l : List Pushed) (i : Nat) : List Pushed :=
  match l[i]? with
  | some p => listSet l i { p with bad := true }
  | none => l

def markEntry (l : List Entry) (cell : Nat) : List Entry :=
  match l[cell / 1024]? with
  | some e => listSet l (cell / 1024) { e with poison := e.poison.set (cell % 1024) 1 }
  | none => l

/-- An error that the code cannot correct, at its place (Table 17.6). -/
def State.storageError (s : State) : Place2 → State
  | .scratch c w => s.modCore c (·.modPad (fun p => { p with bad := p.bad.set w 1 }))
  | .array d =>
    let ws := if 8 * d < depotBase then List.range' (d / 8 * 8) 8 else [d]
    { s with bad := ws.foldl (fun (m : Cells 1) w => m.set w 1) s.bad }
  | .tile c t x => s.tileError c t x
  | .slot c n x =>
    let m := (s.core c).mx
    s.detect c (m.replayOfSlot n) (m.replayableSlot n) (fun m => { m with
      slots := vecMod m.slots n (fun v => { v with bad := v.bad.set (x % 4096) 1 }) }) n
  | .correction c n x =>
    let m := (s.core c).mx
    s.detect c (m.replayOfSlot n) (m.replayableSlot n) (fun m => { m with
      slots := vecMod m.slots n (fun v => { v with corrBad := v.corrBad.set (x % 128) 1 }) }) n
  | .vreg c x => s.modCore c (·.modVec (fun v => { v with bad := v.bad.set x 1 }))
  | .table c e w => s.modCore c (·.modEng e (fun g => { g with bad := g.bad.set (w % 2048) 1 }))
  | .ringTag c r n => s.modCore c (·.modRing r (fun g => { g with bad := g.bad.set n 1 }))
  | .vqueue c q x => s.modCore c (·.modQ (fun k => { k with vq := vecMod k.vq q (markEntry · x) }))
  | .oqueue c q x => s.modCore c (·.modQ (fun k => { k with oq := vecMod k.oq q (markEntry · x) }))
  | .waybill c i => s.modCore c (·.modQ (fun k => { k with waybill := markPushed k.waybill i }))
  | .param c i => s.modCore c (·.modQ (fun k => { k with param := markPushed k.param i }))
  | .lane p => { s with fabric := { s.fabric with badNext := p :: s.fabric.badNext } }

/-- The structure on which an error lies has its test due (R284, Table 17.8): WHERE is the page of memory for kinds 3 and 4,
the port for kind 5 (log 51). -/
def State.testAt (s : State) : Place2 → State
  | .array d =>
    match tierOf (8 * d) with
    | some .hbm => s.testDue (memDie (8 * d)) testHbm (8 * d / 2 ^ 16)
    | some .depot => s.testDue (memDie (8 * d)) testDepot (8 * d / 2 ^ 16)
    | _ => s
  | .lane p => s.testDue (p / 12) testLane p
  | .scratch c _ | .tile c _ _ | .slot c _ _ | .correction c _ _ | .vreg c _ | .table c _ _ | .ringTag c _ _ | .vqueue c _ _
  | .oqueue c _ _ | .waybill c _ | .param c _ => s.testCore c testSram

/-! ### Stops and holds (R273, R280 to R282) -/

/-- A stop during a hold ends the hold: what the hold has moved comes back by the cycles that are left of it, and the time
of the cores runs again (R273). -/
def State.endHold (s : State) (n : Nat) : State :=
  match (s.nodes.find n).bind (·.holdEnd) with
  | none => s
  | some e =>
    let left := e - s.clock
    let back := fun (t : Nat) => if e ≤ t then t - left else t
    let slots := fun (l : List Booked) => l.map (fun (b : Booked) => { b with cycle := back b.cycle })
    let s := s.modCores (s.coresOf n) (fun k =>
      { k.modPlace (fun p => { p with hshift := p.hshift - left, frozenUntil := s.clock }) with
        leased := k.leased.map (fun p => (p.1, { p.2 with slots := slots p.2.slots })) })
    let s := s.modNode n (fun nd => { nd with holdEnd := none, dreg := nd.dreg.map back })
    { s with
      agenda := (s.agenda.map (fun (d : Due) => if d.node = some n then { d with cycle := back d.cycle } else d)).foldl
        (fun l d => insertDue d l) [],
      copies := s.copies.map (fun (p : Nat × Copy) => if p.2.node = some n then
          (p.1, { p.2 with due := back p.2.due, slots := slots p.2.slots }) else p) }

/-- STOP_PULSE of a timetable: its cores issue nothing more, its copies and buckets do nothing more, a hold ends, and its
boosts go back (R257, R273). -/
def execStopPulse (s : State) : Host.Outcome State Fault Refusal :=
  let n := s.cur
  let s := (s.endHold n).returnBoosts n
  let mine := (s.copies.filter (fun p => p.2.node = some n)).map Prod.fst
  let s := s.modCores (s.coresOf n) (·.halt s.clock)
  let s := mine.foldl State.dropCopy s
  let s := { s with fabric := { s.fabric with buckets := s.fabric.buckets.filter (fun p => p.2.node ≠ n) } }
  .next (s.due (s.clock + 1) rankWalker none n .completionRecordWrite)

/-- A timed step moved by a hold. -/
def Due.held (d : Due) (n clock : Nat) : Due :=
  if d.node = some n && clock ≤ d.cycle then { d with cycle := d.cycle + Config.holdCycles } else d

/-- Cycles of window slots moved by a hold. -/
def heldSlots (clock : Nat) (l : List Booked) : List Booked :=
  l.map (fun b => if clock ≤ b.cycle then { b with cycle := b.cycle + Config.holdCycles } else b)

/-- A core in a hold that begins now: its streams issue nothing for 8,192 cycles, and its time stands still. -/
def Core.held (k : Core) (clock : Nat) : Core :=
  let k := k.modPlace (fun p => { p with
    hshift := p.hshift + Config.holdCycles, frozenUntil := clock + Config.holdCycles, heldSince := true })
  { k.modCsr (fun r => { r with holdcnt := r.holdcnt + 1 }) with
    leased := k.leased.map (fun p => (p.1, { p.2 with slots := heldSlots clock p.2.slots })) }

/-- A departure to come, moved by a hold that begins in a cycle (R245). -/
def moved (h d : Nat) : Nat := if h < d then d + Config.holdCycles else d

/-- HOLD_BEGIN of a timetable. The replay rebuilds what the engine holds, so it changes no value here (R282). A stop
for a detection of the same cycle or an earlier one prevails (R273). -/
def execHoldBegin (s : State) : Host.Outcome State Fault Refusal :=
  let n := s.cur
  let h := s.clock
  .next (match s.nodes.find n with
  | none => s
  | some nd =>
    if nd.stopping.any (fun t => t + nd.hn ≤ h) || nd.state = .done then s
    else
      let s := s.modCores (s.coresOf n) (·.held h)
      let s := s.modNode n (fun nd => { nd with
        holds := nd.holds + 1, verdict := max nd.verdict 1, holdEnd := some (h + Config.holdCycles),
        dreg := nd.dreg.map (moved h), proposals := nd.proposals.map (fun p => (moved h p.1, p.2)) })
      let s := { s with
        agenda := (s.agenda.map (fun (d : Due) => d.held n h)).foldl (fun l d => insertDue d l) [],
        copies := s.copies.map (fun (p : Nat × Copy) => if p.2.node = some n then (p.1, { p.2 with
            due := if h ≤ p.2.due then p.2.due + Config.holdCycles else p.2.due, slots := heldSlots h p.2.slots })
          else p) }
      (s.holdDram n).due (h + Config.holdCycles) rankGrantBoundary none n .holdEnd)

/-- HOLD_END of a timetable: issue resumes. -/
def execHoldEnd (s : State) : Host.Outcome State Fault Refusal :=
  let h := s.clock - Config.holdCycles
  .next (s.modNode s.cur (fun nd => { nd with
    holdEnd := if nd.holdEnd = some s.clock then none else nd.holdEnd,
    holdAt := if nd.holdAt = some h then none else nd.holdAt, replay := nd.replay.filter (fun r => r.1 ≠ h) }))

/-! ### Targeted self-test (R284, R285) -/

/-- Pair and core that WHERE names for the structures of a core: pair of the die in [8:5], core of the pair in
[4:0]; the spec gives no layout (log 51). -/
def wherePair (w : Word) : Nat := bits w 8 5

/-- A pair is retired, and the store keeps it (R285, R335). -/
def State.retirePair (s : State) (die p : Nat) : State :=
  let q := 16 * die + p
  if (s.getPair q).retired then s
  else
    let s := s.modPair q (fun x => { x with retired := true })
    { s with host := { s.host with retired := s.host.retired + 1, retiredStore := s.host.retiredStore ++ [(die, p)] } }

/-- Whether the structure of a test is free for it in this cycle (Table 17.8): its pair is not placed; the depot has a free
cycle; an open window of the pseudo-channel has room for a request; no timetable's slot table uses the port. -/
def State.testMay (s : State) (die : Nat) (kind : BitVec 8) (place : BitVec 32) : Bool :=
  if kind.toNat ≤ 2 then
    !s.placed die (wherePair place) || (s.getPair (16 * die + wherePair place)).retired
  else if kind.toNat = testDepot then s.depotFree die
  else if kind.toNat = testHbm then
    let pa := 2 ^ 16 * place.toNat
    let q := s.getPc (pcOf pa)
    q.absent || (q.serving.isNone && q.queue.isEmpty && (q.openAt (s.holdOf (pcOf pa)) (bankOf pa) s.clock).1)
  else if kind.toNat = testLane then
    s.nodes.all (fun p => p.2.state = .done || p.2.slots.all (fun x => x.1 ≠ bits place 4 0 || !x.2.any (·.getLsbD 31)))
  else true

/-- SELF_TEST of a structure of a die, with what physics answers: it runs in the first cycle in which the structure is free
for it; the result goes to the host and to the signal box. -/
def execSelfTest (kind : BitVec 8) (place : BitVec 32) (lasting : Bool) (s : State) :
    Host.Outcome State Fault Refusal :=
  let die := s.cur
  let core := kind.toNat ≤ 2
  let pair := wherePair place
  .next (
    if !s.testMay die kind place then
      s.laterAt 1 rankWalker die (.selfTest kind place lasting)
    else
      let old := ((s.getDie die).transient.find kind.toNat).getD 0
      let count := if lasting then old else min (old + 1) 0xFFFF
      let s := s.modDie die (fun d => { d with transient := d.transient.put kind.toNat count, selfTest := true })
      let s := if lasting && core then s.retirePair die pair
        else if lasting && kind = 5#8 then
          { s with fabric := { s.fabric with
              ports := vecMod s.fabric.ports (bits place 4 0) (fun p => { p with withdrawn := true }) } }
        else s
      let word : DWord := kind ++ (BitVec.ofBool lasting).setWidth 8 ++ BitVec.ofNat 16 count ++ place
      (s.post 4 0 0 word).wakeBox die)

end Sys2Proof.Machine
end

