-- ==== Sys2Proof/Machine/Desc.lean ====
section
/-! DEFINITION. The groups of a descriptor read, and the instruction that goes on when the last one has been read (06,
R95, R107). -/

namespace Sys2Proof.Machine

/-- What an instruction does once its descriptor has been read; nothing where the guard's copy of it differs (R275). -/
def State.finishDesc (s : State) (o : DescOp) : State :=
  if o.void then s
  else match rowOp o.instr, leasedOp o.instr with
  | some op, _ => finishRow o op s
  | none, some (op, e) => finishLeased o op e s
  | none, none =>
    match o.instr with
    | .tload _ _ c => finishTload o c s
    | .agset _ c e => finishAgset o c e s
    | .xshape _ e => finishXshape o e s
    | .xcopy .. => finishCopy o 0 s
    | .xgather .. => finishCopy o 1 s
    | .xscatter .. => finishCopy o 2 s
    | .coll .. => finishColl o s
    | _ => s

/-- The g register that an instruction with a descriptor owes (R81, R125). -/
def owedBy (i : Instr) : List Nat :=
  match leasedOp i with
  | some (_, e) => [e.toNat]
  | none => []

/-- The driver that still waits for the read goes on in the next cycle, or at the instruction's cost if that is later (R107). -/
def State.descDone (s : State) (op : Nat) : State :=
  let d := s.me.drv
  if d.hold = some (.descriptor op) then s.unhold s.cur (max d.ready (s.tt + 1)) else s

/-- Whether a leased-engine command that issued before this one still reads its descriptor: commands are checked in the order
of their issue (R125, R300). -/
def Core.leasedBefore (k : Core) (o : DescOp) : Bool :=
  (leasedOp o.instr).isSome && k.ops.any (fun p => (leasedOp p.2.instr).isSome && p.2.id < o.id)

/-- DESCRIPTOR_GROUP_READ: a group's words arrive; a poisoned one is a load's fault (R95); with the last group the
instruction is checked and goes on, a leased-engine command behind those before it. -/
def execDescriptorGroupRead (op group : Nat) (words : List Word) (poison : List Nat) (s : State) :
    Host.Outcome State Fault Refusal :=
  .next (match s.me.ops.find op with
    | none => s
    | some o =>
      match poison with
      | w :: _ =>
        let s := s.modMe (fun k => { k.modDrv (·.unowe false (owedBy o.instr)) with ops := k.ops.drop op })
        (s.loadPoison s.cur o.pc (o.addr + 32 * group + 4 * w)).descDone op
      | [] =>
        if s.me.leasedBefore o then s.soon 1 rankRead (.descriptorGroupRead op group words [])
        else
        let o := { o with words := o.words.setRange (8 * group) words, got := o.got + 1 }
        if o.got < o.need then s.modMe (fun k => { k with ops := k.ops.put op o })
        else ((s.modMe (fun k => { k with ops := k.ops.drop op })).finishDesc o).descDone op)

end Sys2Proof.Machine
end

