-- ==== Sys2Proof/Machine/Walker.lean ====
section
/-! DEFINITION. The graph walker: submission, readiness, selection, the timetable image, placement and load, victims,
save and restore, completion records (14, R231 to R249, R339; 11, R203; 17, R274; 20, R309). -/

namespace Sys2Proof.Machine

/-! ### Reading memory -/

/-- A number, and words, in memory as the walker reads them. -/
def State.numAt (s : State) (pa n : Nat) : Nat := leNat (s.frontBytes pa n)
def State.wordsAt (s : State) (pa n : Nat) : List Word := wordsOf (s.frontBytes pa (4 * n))

/-! ### Nodes (R231 to R233) -/

/-- Fields of a node (Table 14.2). -/
def Node.word (nd : Node) (i : Nat) : Word := nd.words.getD i 0
def Node.type (nd : Node) : Nat := bits (nd.word 0) 2 0
def Node.prio (nd : Node) : Nat := bits (nd.word 0) 6 4
def Node.deps (nd : Node) : List Nat := (List.range (bits (nd.word 0) 11 8)).map (fun i => bits (nd.word (9 + i)) 23 0)
def Node.addr (nd : Node) (i : Nat) : Nat := (nd.word i).toNat + 2 ^ 32 * (nd.word (i + 1)).toNat
def Node.image (nd : Node) : Nat := nd.addr 2
def Node.page (nd : Node) : Nat := nd.addr 4
def Node.record (nd : Node) : Nat := nd.addr 6
def Node.w (nd : Node) : Nat := bits (nd.word 8) 4 0
def Node.h (nd : Node) : Nat := bits (nd.word 8) 8 5
def Node.pkgix (nd : Node) : Nat := bits (nd.word 15) 3 0
def Node.asid (nd : Node) : BitVec 13 := (nd.word 1).setWidth 13

/-- The checks of a submitted node (R232); `known` says which slots have been submitted before. -/
def Node.ok (nd : Node) (self : Nat) (known : Nat → Bool) : Bool :=
  let n := bits (nd.word 0) 11 8
  let zero := fun (l : List Nat) => l.all (fun i => nd.word i = 0)
  onlyBits (nd.word 0) 0xF77 && nd.type ≤ 2 && n ≤ 6 &&
    (List.range n).all (fun i => onlyBits (nd.word (9 + i)) 0xFFFFFF) &&
    nd.deps.all (fun d => d ≠ self && known d) && nd.record % 64 = 0 && (tierOf nd.record).isSome &&
    (if nd.type = 0 then
      onlyBits (nd.word 1) 0x1FFF && nd.image % 65536 = 0 && nd.page % 1024 = 0 && onlyBits (nd.word 8) 0x3FFF &&
        1 ≤ nd.w && nd.w ≤ 16 && 1 ≤ nd.h && nd.h ≤ 8 && 1 ≤ bits (nd.word 8) 13 9 && bits (nd.word 8) 13 9 ≤ 16 &&
        onlyBits (nd.word 15) 0xF && nd.pkgix < nd.npkg
    else if nd.type = 1 then zero [1, 2, 3, 4, 5, 8]
    else zero [1, 2, 3, 4, 5, 8, 15])

/-- A walker's fault of a node that does not run (R271, Table 17.4). -/
def walkerReport (cause : BitVec 8) (verdict clock : Nat) : Report :=
  { verdict := verdict, cause := cause, info := faultInfo unitWalker 0 false 0, cyc := clock, site := 0, stream := 5,
    core := 0, aux := 0 }

/-- A node is to be DONE without running: its record is written next. -/
def State.endNode (s : State) (n : Nat) (r : Option Report) : State :=
  (s.modNode n (fun nd =>
    let nd := { nd with state := .ending }
    match r with
    | some r => nd.enter r
    | none => nd)).due (s.clock + 1) rankWalker none n .completionRecordWrite

/-- The walker looks at its READY nodes (R236). -/
def State.attempt (s : State) (n : Nat) : State := s.laterAt n rankWalker 0 .placementAttempt

/-- A node becomes READY. -/
def State.makeReady (s : State) (n : Nat) : State :=
  (s.modNode n (fun nd => { nd with state := .ready, readyAt := s.clock })).attempt 0

/-- A WAITING node looks at its dependencies (R233): one that ended badly holds it, and the host is told; when all are
satisfied it is READY. -/
def State.settle (s : State) (n : Nat) : State :=
  match s.nodes.find n with
  | none => s
  | some nd =>
    if nd.state ≠ .waiting then s
    else
      let done := fun (d : Nat) => (s.nodes.find d).any (fun q => q.state = .done)
      let clean := fun (d : Nat) => (s.nodes.find d).any (fun q => q.state = .done && q.verdict ≤ 1)
      match nd.deps.find? (fun d => done d && !clean d) with
      | some d => (s.modNode n (fun nd => { nd with state := .held })).post 2 (BitVec.ofNat 24 n) 0 (BitVec.ofNat 64 d)
      | none => if nd.deps.all clean then s.makeReady n else s

/-- One slot submitted and checked. A slot whose node is not DONE is left as it is. -/
def State.submitSlot (s : State) (n : Nat) : State :=
  if (s.nodes.find n).any (fun nd => nd.state ≠ .done) then s
  else
    let ws := s.wordsAt (s.host.gbase.toNat + 64 * n) 16
    let nd := { Node.bare with state := .waiting, words := ws, seq := s.submitted, readyAt := s.clock }
    let good := nd.ok n (fun d => (s.nodes.find d).isSome)
    let s := { s with nodes := s.nodes.put n nd, submitted := s.submitted + 1 }
    if good then ((if nd.type = 0 then s.notify nd 7 n tellSubmitted else s).settle n)
    else s.endNode n (some (walkerReport 0x60 3 s.clock))

/-- Slots of the graph area. -/
def State.graphSize (s : State) : Nat := 2 ^ s.host.gn.toNat

/-- GRAPHKICK with OP 00: the slots from the tail up to INDEX - 1. Before READY it is ignored (R331). -/
def execGraphkickSubmit (index : BitVec 24) (s : State) : Host.Outcome State Fault Refusal :=
  let m := s.graphSize
  let n := (index.toNat % m + m - s.tail % m) % m
  .next (if s.host.phase ≠ 5 then s
    else
      let t := (List.range n).foldl (fun t i => t.submitSlot ((s.tail + i) % m)) s
      { t with tail := index.toNat % m })

/-- GRAPHKICK with OP 01 on a HELD node. -/
def execGraphkickRelease (index : BitVec 24) (s : State) : Host.Outcome State Fault Refusal :=
  let n := index.toNat
  .next (if s.host.phase = 5 && (s.nodes.find n).any (fun nd => nd.state = .held) then s.makeReady n else s)

/-- GRAPHKICK with OP 10 on a HELD node: LOST, cancelled. -/
def execGraphkickCancel (index : BitVec 24) (s : State) : Host.Outcome State Fault Refusal :=
  let n := index.toNat
  .next (if s.host.phase = 5 && (s.nodes.find n).any (fun nd => nd.state = .held) then
      s.endNode n (some (walkerReport 0x65 4 s.clock))
    else s)

/-! ### The timetable image (R248, R203, R309, R339) -/

/-- A 32-bit field of the header. -/
def State.header (s : State) (nd : Node) (off : Nat) : Nat := s.numAt (nd.image + off) 4

/-- The limits of Table 14.8, and agreement with the node. -/
def State.headerOk (s : State) (nd : Node) : Bool :=
  let h := fun off => s.header nd off
  let b := fun off => s.numAt (nd.image + off) 1
  let hn := h 12
  let tv := h 24
  let save := h 28
  h 0 = 0x56524931 && s.numAt (nd.image + 4) 2 = 1 && s.numAt (nd.image + 6) 2 = nd.asid.toNat && b 8 = nd.w && b 9 = nd.h &&
    b 10 = nd.npkg && b 11 = 0 && (if nd.npkg = 1 then 256 else 4096) ≤ hn && hn ≤ 1048576 && 1 ≤ h 16 && h 16 ≤ 1048576 &&
    1 ≤ s.numAt (nd.image + 20) 2 && s.numAt (nd.image + 20) 2 ≤ 4095 && s.numAt (nd.image + 22) 2 ≤ 4095 &&
    (tv = 0xFFFFFFFF || (tv % 4 = 0 && tv < 65536)) && 1024 ≤ save && save ≤ 65535 &&
    [32, 40, 44, 48, 52, 60, 68].all (fun o => h o % 64 = 0) && h 36 % 4 = 0 && 4 ≤ h 36 && h 36 ≤ 65536 && h 72 ≤ 65535 &&
    (s.frontBytes (nd.image + 76) 180).all (· = 0)

/-- Segment directory (Table 14.9). -/
def State.segmentAt (s : State) (a : Nat) : Segment :=
  let b := fun o => s.numAt (a + o) 1
  { entry := #v[BitVec.ofNat 32 (s.numAt a 4), BitVec.ofNat 32 (s.numAt (a + 4) 4), BitVec.ofNat 32 (s.numAt (a + 8) 4)],
    level := #v[b 12, b 13, b 14], src := BitVec.ofNat 8 (b 15), slew := #v[b 16, b 17, b 18] }

/-- Point directory (Table 14.10). -/
def State.pointEntry (s : State) (a : Nat) : PointEntry :=
  let b := fun o => s.numAt (a + o) 1
  { addr := s.numAt a 2, next := s.numAt (a + 2) 2, leases := #v[b 4, b 5, b 6, b 7], boost := b 8,
    wait := s.numAt (a + 10) 6 }

/-- Departure settings (Table 14.12), and the check of one. -/
def State.settingAt (s : State) (a : Nat) : Setting :=
  { seg := s.numAt a 2, kind := s.numAt (a + 2) 1, num := s.numAt (a + 3) 1, value := BitVec.ofNat 64 (s.numAt (a + 4) 8) }
def settingOk (nseg : Nat) (x : Setting) : Bool :=
  (x.seg < nseg || x.seg = 0xFFFF) && x.num ≤ 15 &&
    (if x.kind = 0 then ringOperandOk x.value else x.kind = 1 && x.value.extractLsb' 32 32 = 0#32)

/-- Doubles of memory. -/
def State.doublesAt (s : State) (pa n : Nat) : List DWord :=
  let rec go : List Word → List DWord
    | a :: b :: r => (b ++ a) :: go r
    | _ => []
  go (s.wordsAt pa (2 * n))

/-- An entry uses its fields as its CMD says (Table 11.6). -/
def timelineEntryOk (e : DWord) : Bool :=
  let bank := e.extractLsb' 24 4 = 0#4
  let slots := e.extractLsb' 16 8 = 0#8
  let row := e.extractLsb' 0 16 = 0#16
  match entryCmd e with
  | 0 => slots
  | 1 => slots && row
  | 2 => bank && slots && row
  | 3 => bank && slots && row
  | 4 => slots && row
  | 5 => bank
  | _ => false

/-- A timeline table keeps R203: order, one row command and one WIN a cycle, entries. -/
def timelineOk : List DWord → Bool
  | [] => true
  | [a] => timelineEntryOk a
  | a :: b :: r =>
    timelineEntryOk a && entryCyc a ≤ entryCyc b &&
      (entryCyc a < entryCyc b ||
        ((entryCmd a = 5) != (entryCmd b = 5) && (match r with
          | c :: _ => decide (entryCyc b < entryCyc c)
          | [] => true))) && timelineOk (b :: r)

/-- DRAM and slot directories (Table 14.11): where, offset, count, zero. -/
def State.dirEntries (s : State) (a n : Nat) : List (Nat × Nat × Nat × Nat) :=
  (List.range n).map (fun i =>
    (s.numAt (a + 16 * i) 4, s.numAt (a + 16 * i + 4) 4, s.numAt (a + 16 * i + 8) 4, s.numAt (a + 16 * i + 12) 4))

/-- A slot table word: used, time slot. -/
def slotUsed (w : Word) : Bool := w.getLsbD 31
def slotTime (w : Word) : Bool := w.getLsbD 31 && w.getLsbD 30

/-- The slot tables of an image as R309 wants them: ports admitted, a time slot in every Junction port's table. -/
def State.slotsOk (s : State) (l : List (Nat × List Word)) : Bool :=
  l.all (fun p => p.1 = exchange ||
    (p.1 < 24 && (vecGet s.fabric.ports Port.reset p.1).admitted && p.2.any slotTime))

/-- Cycles of a timeline table: one more than the last cycle of its last entry, the slots of a WIN entry included. -/
def timelineLength (line : List DWord) : Nat :=
  line.foldl (fun m e => max m (entryCyc e + (if entryCmd e = 5 then 4 * (e.extractLsb' 16 8).toNat else 0) + 1)) 0

/-- A relaxed variant that level 0 could not run, in a segment of several variants (R251). -/
def badVariant (g : Segment) : Bool := !g.single && (0 < g.level[2] || 8 < g.slew[2])

/-- Issue cost of a driver instruction of timed code behind which the next word issues (Tables 5.1, 6.1), the least one where
a register adds to it; none where the segment ends, or goes on elsewhere. -/
def lineCost : Instr → Option Nat
  | .br .. | .dbnz .. | .call .. | .jr .. | .jalr .. | .ret | .point | .exit | .depart | .trap .. | .halt | .eret => none
  | .mul .. | .mulh .. | .mulhu .. | .xshape .. | .xcopy .. | .xgather .. | .xscatter .. => some 3
  | .agset .. | .tload .. | .coll .. | .ilmask .. | .ilsamp .. | .iladv .. | .ilload .. | .ilsave .. | .srtopk .. | .srsort ..
  | .infblk .. | .shgath .. | .shscat .. | .shpack .. | .rwmax .. | .rwexs .. | .rwscl .. | .rwnorm .. => some 2
  | .xild _ c _ => some (c.toNat / 8 + 1)
  | _ => some 1

/-- Cycles from a departure up to the first word at which the code of a segment ends or branches. -/
def codeLength (code : List Word) : Nat :=
  match code with
  | [] => 0
  | w :: r =>
    match decode .driver w with
    | .ok i => match lineCost i with
      | some n => n + codeLength r
      | none => 0
    | .error _ => 0

/-- Code of a segment from an entry on, as its image holds it. -/
def State.codeFrom (s : State) (code len : Nat) (entry : Word) : List Word :=
  s.wordsAt (code + entry.toNat) ((len - entry.toNat) / 4)

/-- The image of a kernel read and checked: the node with its directories, or the cause of its end. Of the length of a segment
an image tells its timelines and the code up to its first branch; what else it takes shows at its POINT or EXIT (R247; DEDUCED,
log 58). -/
def State.readImage (s : State) (nd : Node) : Except (BitVec 8) Node :=
  if !s.headerOk nd then .error 0x68
  else
    let h := fun off => s.header nd off
    let nseg := s.numAt (nd.image + 20) 2
    let npt := s.numAt (nd.image + 22) 2
    let segs := (List.range nseg).map (fun i => s.segmentAt (nd.image + h 44 + 32 * i))
    let pts := (List.range npt).map (fun i => s.pointEntry (nd.image + h 48 + 16 * i))
    let sets := (List.range (h 72)).map (fun i => s.settingAt (nd.image + h 68 + 16 * i))
    let setsZero := (List.range (h 72)).all (fun i => s.numAt (nd.image + h 68 + 16 * i + 12) 4 = 0)
    let dram := (s.dirEntries (nd.image + h 52) (h 56)).filter (fun e => e.1 / 2 ^ 28 = nd.pkgix)
    let slot := (s.dirEntries (nd.image + h 60) (h 64)).filter (fun e => e.1 / 2 ^ 8 % 16 = nd.pkgix)
    let pcs := dram.map (fun e => (e.1 % 1024, e.1 / 2 ^ 16 % 4096, s.doublesAt (nd.image + e.2.1) (min e.2.2.1 65536)))
    let slots := slot.map (fun e => (e.1 % 32, s.wordsAt (nd.image + e.2.1) 4096))
    let root := (s.rootOfAsid nd.asid)
    if segs.any badVariant then .error 0x62
    else if dram.any (fun e => (s.getPc (e.1 % 1024)).absent) then .error 0x61
    else if !sets.all (settingOk nseg) || !setsZero || !s.slotsOk slots || root.isNone ||
        dram.any (fun e => e.2.1 % 64 ≠ 0 || e.2.2.1 = 0 || 65536 < e.2.2.1 || e.2.2.2 ≠ 0) ||
        slot.any (fun e => e.2.1 % 64 ≠ 0 || e.2.2.1 ≠ 4096 || e.2.2.2 ≠ 0) ||
        pcs.any (fun p => !timelineOk p.2.2) then .error 0x68
    else if pcs.any (fun p => h 16 < timelineLength p.2.2) ||
        segs.any (fun g => g.entry.toList.any (fun e => h 16 < codeLength (s.codeFrom (nd.image + h 32) (h 36) e))) then .error 0x63
    else .ok { nd with
      hn := h 12, space := h 16, tvec := BitVec.ofNat 32 (h 24), saveUnits := h 28, segments := segs, points := pts,
      settings := sets, pcs := pcs, slots := slots, root := BitVec.ofNat 64 (root.getD 0) }

/-! ### Selection and placement (R235 to R237, R240, R326) -/

/-- Effective priority of a READY node. -/
def Node.effective (nd : Node) (clock : Nat) : Nat := min 7 (nd.prio + (clock - nd.readyAt) / 2 ^ 24)

/-- Selection order. -/
def selectedBefore (clock : Nat) (a b : Nat × Node) : Bool :=
  let p := a.2.effective clock
  let q := b.2.effective clock
  q < p || (p = q && (a.2.readyAt < b.2.readyAt || (a.2.readyAt = b.2.readyAt && a.1 < b.1)))
def insertNode (clock : Nat) (a : Nat × Node) : List (Nat × Node) → List (Nat × Node)
  | [] => [a]
  | b :: r => if selectedBefore clock a b then a :: b :: r else b :: insertNode clock a r

/-- READY nodes in selection order. -/
def State.selection (s : State) : List Nat :=
  ((s.nodes.filter (fun p => p.2.state = .ready)).foldl (fun l p => insertNode s.clock p l) []).map Prod.fst

/-- Package pair number of a pair column and row: its die and its number there. -/
def pairAt (x y : Nat) : Nat := 16 * (x / 4 + 4 * (y / 4)) + (x % 4 + 4 * (y % 4))

/-- Pairs of a W by H rectangle. -/
def rectPairs (x y w h : Nat) : List Nat :=
  (List.range h).flatMap (fun j => (List.range w).map (fun i => pairAt (x + i) (y + j)))

/-- Pairs of a node's rectangle. -/
def Node.pairs (nd : Node) : List Nat := rectPairs nd.ox nd.oy nd.w nd.h

/-- A node that holds its pairs, pseudo-channels and ports. -/
def Node.holds_ (nd : Node) : Bool :=
  nd.state = .loading || nd.state = .running || nd.state = .saving || nd.state = .restoring

/-- REQ of a pair as performed before this cycle (R326). -/
def Pair.reqBefore (p : Pair) (clock : Nat) : Bool := if p.reqAt = clock && 0 < clock then !p.req else p.req

/-- Whether the walker may place node `n` on a pair. -/
def State.pairFree (s : State) (n p : Nat) : Bool :=
  let q := s.getPair p
  !q.retired && !q.reqBefore s.clock &&
    s.nodes.all (fun x => x.1 = n || !((x.2.holds_ && x.2.pairs.contains p) || x.2.kept.contains p))

/-- Pseudo-channels that a node's timelines name; ports whose table has a used entry. -/
def Node.pcList (nd : Node) : List Nat := (nd.pcs.map Prod.fst).eraseDups
def Node.portList (nd : Node) : List Nat := (nd.slots.filter (fun p => p.1 < 24 && p.2.any slotUsed)).map Prod.fst

/-- Pseudo-channels and ports are free for a node. -/
def State.pcsFree (s : State) (n : Nat) (nd : Node) : Bool :=
  s.nodes.all (fun x => x.1 = n ||
    ((!x.2.holds_ || (nd.pcList.all (fun c => !x.2.pcList.contains c) && nd.portList.all (fun c => !x.2.portList.contains c))) &&
      nd.pcList.all (fun c => !x.2.keptPcs.contains c)))

/-- Engine instances of a kind under a node's rectangle that are neither leased nor reserved by another node. -/
def State.enginesFree (s : State) (n : Nat) (nd : Node) (kind : Nat) : Nat :=
  let dies := (List.range 8).filter nd.onDie
  let others := s.nodes.foldl (fun t x =>
    if x.1 ≠ n && dies.any x.2.onDie then t + vecGet x.2.reserved 0 kind else t) 0
  s.freeOn nd.dieSet kind - others

/-- Lease set of an image's first point. -/
def Node.firstLeases (nd : Node) : Vector Nat 4 := (nd.points.head?.map (·.leases)).getD (Vector.replicate 4 0)

/-- Whether a node fits at its origin. -/
def State.fitsAt (s : State) (n : Nat) (nd : Node) : Bool :=
  nd.pairs.all (s.pairFree n) && s.pcsFree n nd &&
    (List.range 4).all (fun kind => vecGet nd.firstLeases 0 kind ≤ s.enginesFree n nd kind)

/-- Origins in the order in which they are tried. -/
def origins (w h : Nat) : List (Nat × Nat) :=
  (List.range (9 - h)).flatMap (fun y => (List.range (17 - w)).map (fun x => (x, y)))

/-- First origin at which a node fits. -/
def State.originFor (s : State) (n : Nat) (nd : Node) : Option (Nat × Nat) :=
  (origins nd.w nd.h).find? (fun o => s.fitsAt n { nd with ox := o.1, oy := o.2 })

/-- Submissions of a node on other packages that have been told. -/
def State.peersOf (s : State) (n : Nat) : List (Nat × Bool × Nat) := (s.fabric.peers.filter (fun p => p.1 = n)).map Prod.snd

/-- The packages of a node, as far as they are known, form one fabric group: one timing tree, at most three admitted hops,
each PKGIX once (R232, R237, R316). -/
def State.groupOk (s : State) (n : Nat) (nd : Node) : Bool :=
  let ps := s.peersOf n
  nd.npkg = 1 || (s.fabric.joined && ps.all (fun p => p.2.1 && p.2.2 ≤ 3) &&
    decide (nd.pkgix :: ps.map (·.1)).Nodup)

/-- Every other package of a node has told its submission. -/
def State.groupTold (s : State) (n : Nat) (nd : Node) : Bool := nd.npkg ≤ (s.peersOf n).length + 1

/-- Some rectangle of the package holds no retired pair, and the packages form one fabric group (R232). -/
def State.placeable (s : State) (n : Nat) (nd : Node) : Bool :=
  (origins nd.w nd.h).any (fun o => (rectPairs o.1 o.2 nd.w nd.h).all (fun p => !(s.getPair p).retired)) && s.groupOk n nd

/-- The package with a timetable's resources free (R240). -/
def State.without (s : State) (v : Nat) : State :=
  let cs := s.coresOf v
  { s.modNode v (fun nd => { nd with state := .waiting, reserved := Vector.replicate 4 0 }) with
    dies := s.dies.map (fun (d : Die) => { d with granted := d.granted.filter (fun g => !cs.contains g.core) }) }

/-- Timetables that qualify as the victim of a node. -/
def State.victims (s : State) (n : Nat) (nd : Node) : List (Nat × Node) :=
  s.nodes.filter (fun v => v.2.state = .running && v.2.stopping.isNone && v.2.victimFor.isNone && v.2.type = 0 &&
    v.2.prio + 2 ≤ nd.effective s.clock && s.poolRoom v.1 v.2 && ((s.without v.1).originFor n nd).isSome)

/-- The victim: lowest PRIO, then latest first Dreg. -/
def bestVictim : List (Nat × Node) → Option (Nat × Node)
  | [] => none
  | a :: r => match bestVictim r with
    | none => some a
    | some b => if b.2.prio < a.2.prio || (b.2.prio = a.2.prio && a.2.firstDreg < b.2.firstDreg) then some b else some a

/-- A kernel that waits for a victim will be placed where it fits without it. -/
def State.aim (s : State) (v n : Nat) (nd : Node) : State :=
  let o := ((s.without v).originFor n nd).getD (0, 0)
  s.modNode n (fun _ => { nd with ox := o.1, oy := o.2 })

/-- A victim is marked for a kernel that does not fit, its save areas are allocated, and its other packages are told
(R240, R249). -/
def State.markVictim (s : State) (n : Nat) (nd : Node) : State :=
  if s.nodes.any (fun v => v.2.victimFor = some n) then s
  else match bestVictim (s.victims n nd) with
    | none => s
    | some v =>
      let s := (s.takeAreas v.1 v.2).aim v.1 n nd
      (s.notify v.2 7 v.1 (tellMarked + 4 * n)).markNow v.1 n

/-- A node is placed: its load or its restore begins (R237, R238, R244). Both take a latency that the spec leaves open
(log 3); a restore completes at a multiple of 64 cycles, as the exact values of R267 need (log 116). -/
def State.place (s : State) (n : Nat) (nd : Node) : State :=
  let restore := !nd.saved.isEmpty
  let s := s.modNode n (fun _ => { nd with
    state := if restore then .restoring else .loading, reserved := nd.firstLeases, kept := [], keptPcs := [],
    leaseWait := false, handed := 0 })
  let s := nd.pcList.foldl (fun s c => s.modPc c (fun q => { q with owner := some n })) s
  let f := s.freeCycles
  f.2.due (if restore then upTo64 (s.clock + 1 + f.1) else s.clock + 1 + f.1) rankWalker none n
    (if restore then .contextRestoreComplete else .loadComplete)

/-- What the walker does with one READY node; whether a node of priority 7 has to wait, and whether a kernel has not
fitted. -/
def State.tryNode (s : State) (blocked passed : Bool) (n : Nat) : State × Bool × Bool :=
  match s.nodes.find n with
  | none => (s, blocked, passed)
  | some nd =>
    if nd.type ≠ 0 then (s.endNode n none, blocked, passed)
    else if blocked || 64 ≤ s.messages.length then (s, blocked, passed)
    else if !s.placeable n nd then (s.endNode n (some (walkerReport 0x61 3 s.clock)), blocked, passed)
    else if !s.groupTold n nd then (s, blocked, passed)
    else match (if nd.saved.isEmpty then s.readImage nd else .ok nd) with
      | .error c => (s.endNode n (some (walkerReport c 3 s.clock)), blocked, passed)
      | .ok nd' =>
        match s.originFor n nd' with
        | some o => (s.place n { nd' with ox := o.1, oy := o.2 }, blocked, passed)
        | none =>
          if passed then (s, blocked, true)
          else (s.markVictim n nd', 7 ≤ nd.effective s.clock, true)

/-- PLACEMENT_ATTEMPT: READY nodes in selection order. -/
def execPlacementAttempt (s : State) : Host.Outcome State Fault Refusal :=
  .next (s.selection.foldl (fun (p : State × Bool × Bool) n => p.1.tryNode p.2.1 p.2.2 n) (s, false, false)).1

/-! ### Load (R238, R249) -/

/-- COREIX and REGION of a core of a node (Table 1.10). -/
def Node.coreix (nd : Node) (c : Nat) : DWord :=
  BitVec.ofNat 64 ((coreCol c - 8 * nd.ox) + (coreRow c - 4 * nd.oy) * 2 ^ 12 + coreDie c * 2 ^ 17 + nd.pkgix * 2 ^ 20)
def Node.region (nd : Node) : DWord :=
  BitVec.ofNat 64 (nd.ox * 2 ^ 3 + nd.oy * 2 ^ 7 + nd.w * 2 ^ 10 + nd.h * 2 ^ 15 + nd.npkg * 2 ^ 19)

/-- Standard fields of the launch page of a core (Table 4.15). -/
def Node.launchFields (nd : Node) (c : Nat) : List Byte :=
  bytesOf ([coreCol c - 8 * nd.ox, coreRow c - 4 * nd.oy, 8 * nd.w, 4 * nd.h, coreDie c, nd.pkgix, nd.segments.length].map
    (BitVec.ofNat 32)) ++ List.replicate 36 0

/-- An engine with both banks of its tables from the image. -/
def loadedEngine (words : List Word) : Engine := { Engine.reset with table := Cells.dense 0 words }

/-- A core as the load leaves it. -/
def State.loadedCore (s : State) (n : Nat) (nd : Node) (c : Nat) : Core :=
  let code := s.frontBytes (nd.image + s.header nd 32) (s.header nd 36)
  let tab := fun (i : Nat) => loadedEngine (s.wordsAt (nd.image + s.header nd 40 + 8192 * i) 2048)
  let page := nd.launchFields c ++ s.frontBytes (nd.page + 64) 960
  let k := Core.reset.modCsr (fun r => { r with
    coreix := nd.coreix c, region := nd.region, tvec := nd.tvec.setWidth 64, pgroot := nd.root,
    ctxid := nd.asid.setWidth 64, plevel := s.plevel })
  let k := k.modDrv (fun d => { d with code := Cells.dense 0 code, hold := some .depart })
  let k := { k with eng := #v[tab 0, tab 1, tab 2, tab 3] }
  let k := k.modPad (fun p => { p with mem := Cells.dense 0 page })
  k.modPlace (fun p => { p with node := some n, arrived := true, resident := some (s.clock + 1) })

/-- Cores of a node's rectangle, by row, then by column. -/
def Node.cores (nd : Node) : List Nat :=
  (List.range (4 * nd.h)).flatMap (fun j => (List.range (8 * nd.w)).map (fun i => coreAt (8 * nd.ox + i) (4 * nd.oy + j)))

/-- Between segments the sequencer refreshes what a node owns (R206). -/
def State.startSequencer (s : State) (nd : Node) : State :=
  nd.pcList.foldl (fun s c => s.laterAt 64 rankCheck c .sequencerRefresh) s

/-- LOAD_COMPLETE of a node: every core stands as at a first departure, and the walker proposes Dreg, at which the node is
RUNNING (Table 14.3). -/
def execLoadComplete (s : State) : Host.Outcome State Fault Refusal :=
  let n := s.cur
  .next (match s.nodes.find n with
    | none => s
    | some nd =>
      if nd.state ≠ .loading || nd.dreg.isSome then s
      else
        let t := nd.cores.foldl (fun t c => t.modCore c (fun _ => s.loadedCore n nd c)) s
        let t := t.modNode n (fun nd => { nd with segment := 0 })
        (t.startSequencer nd).proposeDeparture n (upTo64 (s.clock + 1024)) 0)

/-- A proposed departure as a hold in progress has moved it: one that was proposed before the hold and comes within it (R245).
-/
def Node.proposed (nd : Node) (dreg : Nat) : Nat :=
  match nd.holdEnd with
  | some e => if dreg < e && e < dreg + Config.holdCycles then dreg + Config.holdCycles else dreg
  | none => dreg

/-- WALKER_MESSAGE: another package's proposal of Dreg, E and slew step (R237, R238, R245, R251). -/
def execWalkerMessage (dreg e slew : Nat) (s : State) : Host.Outcome State Fault Refusal :=
  .next ((s.modNode s.cur (fun nd => { nd with
    proposals := nd.proposals ++ [(nd.proposed dreg, e, slew)] })).agreeDeparture s.cur)

/-! ### Save and restore (R243, R244) -/

/-- A core's number counted from a node's origin, and back. -/
def Node.relCore (nd : Node) (c : Nat) : Nat := coreAt (coreCol c - 8 * nd.ox) (coreRow c - 4 * nd.oy)
def Node.absCore (nd : Node) (c : Nat) : Nat := coreAt (coreCol c + 8 * nd.ox) (coreRow c + 4 * nd.oy)

/-- A copy with its cores renumbered. -/
def Copy.renumber (k : Copy) (f : Nat → Nat) : Copy :=
  { k with core := f k.core, dstCore := f k.dstCore, token := k.token.map f }

/-- A copy as it was when it entered its buffer. -/
def Copy.fresh (k : Copy) : Copy :=
  { k with reading := [], writing := [], readLines := [], writeLines := [], units := [], slots := [], checked := [], written := [] }

/-- The commands of a node that a save withdraws: those still buffered with a stamp at or after the cut. What they have
asked for or begun is taken back. -/
def State.withdraw (s : State) (n : Nat) (nd : Node) : State :=
  let late := s.copies.filter (fun p => p.2.node = some n && nd.cut ≤ p.2.due)
  let gone := fun (id : Nat) => late.any (fun p => p.1 = id)
  let s := s.modNode n (fun nd => { nd with
    withdrawn := nd.withdrawn ++ late.map (fun p => ⟨p.2.due - nd.cut, p.2.fresh⟩) })
  let s := s.modCores (s.coresOf n) (·.modPad (fun p => { p with
    claims := p.claims.filter (fun q => match q.act with
      | .copyRead x _ => !gone x
      | .copyWrite x _ => !gone x
      | _ => true) }))
  { s with
    copies := s.copies.filter (fun p => !(p.2.node = some n && nd.cut ≤ p.2.due)),
    agenda := s.agenda.filter (fun (d : Due) => !(gone d.who && (match d.instr with
      | .copyUnitRead _ => true
      | .copyUnitWrite _ => true
      | .hostTierCopyWrite => true
      | .missingWindowTimeout => true
      | _ => false))) }

/-- Whether a core has nothing outstanding that its save would lose. -/
def Core.settled (k : Core) : Bool := k.acc.isEmpty && k.leased.isEmpty && k.rows.isEmpty && k.ops.isEmpty

/-- CONTEXT_SAVE of a node whose cores have all handed over: copies stamped before the cut, and the collectives that are
outstanding, complete first (R243, R321); then the save takes at most 2^19 cycles. -/
def execContextSave (s : State) : Host.Outcome State Fault Refusal :=
  let n := s.cur
  .next (match s.nodes.find n with
    | none => s
    | some nd =>
      if nd.state ≠ .running || nd.stopping.isSome then s
      else if s.copies.any (fun p => p.2.node = some n && p.2.due < nd.cut) ||
          s.fabric.buckets.any (fun p => p.2.node = n) || !(s.coresOf n).all (fun c => (s.core c).settled)
      then s.due (s.clock + 1) rankWalker none n .contextSave
      else
        let s := ((s.withdraw n nd).returnBoosts n).modCores (s.coresOf n) (·.modPlace (fun p => { p with resident := none }))
        let f := (s.modNode n (fun nd => { nd with state := .saving })).freeCycles
        f.2.due (s.clock + 1 + f.1 % (2 ^ 19 - 65)) rankWalker none n .contextSaveComplete)

/-- Leases of a core, as a restore takes them again: slot, kind, boost. -/
def Core.leaseList (k : Core) : List (Nat × BitVec 3 × Nat) :=
  (k.lease.toList.zipIdx).filterMap (fun p => p.1.map (fun l => (p.2, l.kind, l.boost)))

/-- Lease slots of a saved node to take again, in slot order. -/
def Node.reletList (nd : Node) : List (Nat × Nat × Nat × BitVec 3 × Nat) :=
  (List.range 8).flatMap (fun slot => nd.saved.flatMap (fun v =>
    (v.context.leaseList.filter (fun l => l.1 = slot)).map (fun l => (v.x, v.y, l))))

/-- A core that no timetable holds any more: it issues nothing and holds nothing, and what its timetable has left in its
storage stands until the next load. -/
def Core.released (k : Core) : Core :=
  { k.modDrv (fun d => { d with hold := some .stopped, late := [], owedG := [], owedX := [] }) with
    pad := { k.pad with claims := [] }, moves := [], ops := [], acc := [], span := [], unpinned := [], rows := [], leased := [],
    seqs := [], colls := [], place := { Place.reset with stopAt := some 0 } }

/-- Leases, pins and places of a node's cores given back; the cores are free. -/
def State.freeCores (s : State) (n : Nat) : State :=
  let cs := s.coresOf n
  let s := cs.foldl (fun s c =>
    let k := s.core c
    let s := k.leaseList.foldl (fun s l => s.dropLease c l.1) s
    let s := (k.span.map Prod.snd ++ k.unpinned.map Prod.snd).foldl (fun s sp => s.unpin c sp) s
    let s := s.modDie (coreDie c) (fun d => { d with waits := d.waits.filter (fun w => w.core ≠ c) })
    { s with invs := s.invs.filter (fun q => q.1 ≠ c) }) s
  s.modCores cs Core.released

/-- Pseudo-channels of a node given back. -/
def State.freePcs (s : State) (n : Nat) : State :=
  { s with pcs := s.pcs.map (fun (p : Nat × PseudoChannel) =>
      if p.2.owner = some n then (p.1, { p.2 with owner := none, running := false, line := [], busy := [] }) else p) }

/-- Pairs whose hold ends look at their REQ again; the walker looks at its nodes. -/
def State.pairsFreed (s : State) (ps : List Nat) : State :=
  (ps.foldl (fun s p => if (s.getPair p).req then s.laterAt 0 rankWalker p .quiesceAck else s) s).attempt 0

/-- A node's pairs, pseudo-channels and cores are free, and its kernel is READY again. -/
def State.requeue (s : State) (n : Nat) (nd : Node) : State :=
  let s := (s.freeCores n).freePcs n
  let s := s.modNode n (fun nd => { nd with
    state := .ready, readyAt := s.clock, leaseWait := false, latched := false, victimFor := none, handed := 0,
    relet := nd.reletList, reserved := Vector.replicate 4 0 })
  s.pairsFreed nd.pairs

/-- The save record of every core of a node written: 2 MiB at n = x + 8 y within its pair's area (R243). -/
def State.writeRecords (s : State) (n : Nat) (nd : Node) : State :=
  match s.saveUsed.find? (fun a => a.node = n) with
  | none => s
  | some a => (s.coresOf n).foldl (fun s c =>
      let i := nd.pairs.findIdx (fun p => p = 16 * coreDie c + corePair c)
      s.writeRecord (s.host.svbase.toNat + 65536 * a.starts.getD i 0 + 2 ^ 21 * (coreCol c % 8 + 8 * (coreRow c % 4))) (2 ^ 21)) s

/-- CONTEXT_SAVE_COMPLETE: the contexts lie in the save area, the resources are free, those of a victim for the kernel
it was marked for (R240), and the node is queued again. -/
def execContextSaveComplete (s : State) : Host.Outcome State Fault Refusal :=
  let n := s.cur
  .next (match s.nodes.find n with
    | none => s
    | some nd =>
      if nd.state ≠ .saving then s
      else
        let saved := (s.coresOf n).map (fun c =>
          (⟨coreCol c - 8 * nd.ox, coreRow c - 4 * nd.oy, s.core c⟩ : Saved))
        let s := s.modNode n (fun nd => { nd with
          saved := saved, preempts := nd.preempts + 1, savedOn := (nd.savedOn ++ nd.pairs).eraseDups,
          withdrawn := nd.withdrawn.map (fun w => { w with copy := w.copy.renumber nd.relCore }) })
        let s := s.writeRecords n nd
        let s := match nd.victimFor with
          | some k => s.modNode k (fun (x : Node) =>
              if x.state = NodeState.ready then { x with kept := nd.pairs, keptPcs := nd.pcList, reserved := x.firstLeases } else x)
          | none => s
        s.requeue n nd)

/-- How a restore goes on: done, a page migrates, or one no longer translates (R119, R244). -/
inductive Relaid where
  | done | wait | broken
  deriving DecidableEq, Repr

/-- The worse of two. -/
def Relaid.also : Relaid → Relaid → Relaid
  | .broken, _ => .broken
  | _, .broken => .broken
  | .wait, _ => .wait
  | _, x => x

/-- A span pinned again on a core, as XPIN would (R119, R244). -/
def State.repin (s : State) (c : Nat) (sp : Span) : Except Relaid Span × State :=
  let r := s.pinRange c sp.vbase sp.extent sp.write
  match r.1 with
  | .ok q => (.ok q, r.2.pin c q)
  | .wait => (.error .wait, r.2)
  | _ => (.error .broken, r.2)

/-- Spans of a core pinned again. -/
def State.repinAll (s : State) (c : Nat) :
    List (Nat × Span) → List (Nat × Span × Span) → Except Relaid (List (Nat × Span × Span)) × State
  | [], acc => (.ok acc.reverse, s)
  | (i, sp) :: r, acc =>
    let p := s.repin c sp
    match p.1 with
    | .error e => (.error e, p.2)
    | .ok q => State.repinAll p.2 c r ((i, sp, q) :: acc)

/-- A saved context put onto the core of its place in the new region, and whether all its spans could be pinned. -/
def State.layContext (s : State) (n : Nat) (nd : Node) (v : Saved) : Relaid × State :=
  let c := nd.absCore (coreAt v.x v.y)
  let k := (v.context.modCsr (fun r => { r with
    coreix := nd.coreix c, region := nd.region, plevel := s.plevel })).modPlace (fun p => { p with
      node := some n, resident := none, stopAt := none })
  let k := { k with lease := Vector.replicate 8 none, seqs := [], span := [], unpinned := [] }
  let s := s.modCore c (fun _ => k)
  let a := s.repinAll c v.context.span []
  let b := a.2.repinAll c v.context.unpinned []
  match a.1, b.1 with
  | .ok l, .ok u =>
    let moved := l ++ u
    let swap := fun (o : Option Span) => o.map (fun x => ((moved.find? (fun m => m.2.1 = x)).map (fun m => m.2.2)).getD x)
    let t := b.2.modCore c (fun k => { k with
      span := l.map (fun m => (m.1, m.2.2)), unpinned := u.map (fun m => (m.1, m.2.2)) })
    (.done, t.modNode n (fun nd => { nd with withdrawn := nd.withdrawn.map (fun w =>
      if w.copy.core = c then { w with copy := { w.copy with src := swap w.copy.src, dst := swap w.copy.dst } } else w) }))
  | .error e, _ => (e, b.2)
  | _, .error e => (e, b.2)

/-- Every saved context laid out. -/
def State.layAll (s : State) (n : Nat) (nd : Node) : Relaid × State :=
  let s := s.modNode n (fun nd => { nd with withdrawn := nd.withdrawn.map (fun w =>
    let k := w.copy.renumber nd.absCore
    { w with copy := { k with engine := 8 * coreDie k.core + corePair k.core / 2 } }) })
  nd.saved.foldl (fun (p : Relaid × State) v =>
    let q := p.2.layContext n nd v
    (p.1.also q.1, q.2)) (.done, s)

/-- VARIANT of a core for a new placement: the variant whose code the slot holds that the level and the boost of this cycle
select for the segment behind its point (R244, R251, log 126). -/
def State.restoredVariant (s : State) (n : Nat) (nd : Node) (k : Core) : DWord :=
  let e := min 7 ((s.plevel.extractLsb' 0 3).toNat + s.boostOf n)
  match nd.segments[nd.nextOf k.place.point]? with
  | some g => BitVec.ofNat 64 (g.src.toNat / 4 ^ g.select e (s.sbslew n e) % 4)
  | none => k.csr.variant

/-- The restore is complete: VARIANT and PREEMPT are set, the WFI ends, and the contexts are resident from the next cycle
on. -/
def State.resume (s : State) (n : Nat) (nd : Node) : State :=
  let s := (s.coresOf n).foldl (fun s c =>
    let v := s.restoredVariant n nd (s.core c)
    (s.modCore c (fun k =>
      (k.modCsr (fun r => { r with pointstat := r.pointstat ||| 4, variant := v })).modPlace (fun p => { p with
        resident := some (s.clock + 1) }))).unhold c (s.ttOf c + 1)) s
  let s := s.modNode n (fun nd => { nd with
    state := .running, saved := [], relet := [], handed := 0, latched := false, leaseWait := false, arrived := 0 })
  (s.freeAreas n).startSequencer nd

/-- The next lease of a restore is asked for; with none left the restore is complete. -/
def State.relet (s : State) (n : Nat) (nd : Node) : State :=
  let open_ := nd.relet.filter (fun r =>
    ((s.core (nd.absCore (coreAt r.1 r.2.1))).leaseAt r.2.2.1).isNone)
  let s := s.modNode n (fun nd => { nd with relet := open_ })
  match open_ with
  | [] => s.resume n nd
  | (x, y, slot, kind, boost) :: _ =>
    let c := nd.absCore (coreAt x y)
    if (s.getDie (coreDie c)).waits.any (fun w => w.core = c) then s else s.joinQueue c slot kind boost

/-- CONTEXT_RESTORE_COMPLETE: the contexts are written and their spans pinned; leases are taken again in slot order,
each grant coming back here; an expired lease wait queues the node once more; a span with a migrating page is waited for
with nothing laid out; one that does not translate ends the node with cause 0x64, and no pin of the attempt stays. -/
def execContextRestoreComplete (s : State) : Host.Outcome State Fault Refusal :=
  let n := s.cur
  .next (match s.nodes.find n with
    | none => s
    | some nd =>
      if nd.state ≠ .restoring then s
      else if nd.leaseWait then
        (s.modNode n (fun nd => { nd with
          savedOn := (nd.savedOn ++ nd.pairs).eraseDups,
          withdrawn := nd.withdrawn.map (fun w => { w with copy := w.copy.renumber nd.relCore }) })).requeue n nd
      else if (s.coresOf n).isEmpty then
        let l := s.layAll n nd
        match l.1, l.2.nodes.find n with
        | .done, some nd => l.2.relet n nd
        | .wait, _ => s.due (s.clock + 1) rankWalker none n .contextRestoreComplete
        | _, _ => (s.modNode n (fun nd => { nd with state := .running })).fatalNode n (walkerReport 0x64 3 s.clock)
      else s.relet n nd)

/-! ### Completion (R233, R234, R274) -/

/-- Bytes of a completion record (Tables 14.4 and 17.5). -/
def Node.recordBytes (nd : Node) (clock : Nat) : List Byte :=
  let r := nd.report <|> nd.data
  let verdict := nd.verdict
  let cause : Nat := if verdict ≤ 1 then 0 else (r.map (fun r => r.cause.toNat)).getD 0
  let w := fun (f : Report → Nat) => match r with
    | some r => if verdict ≤ 1 then 0 else f r
    | none => 0
  leBytes 8 (verdict + 256 * cause) ++ leBytes 8 nd.firstDreg ++ leBytes 8 clock ++
    leBytes 8 (nd.preempts % 65536 + 65536 * (nd.holds % 65536)) ++ leBytes 8 (w (fun r => r.info.toNat)) ++
    leBytes 8 (w (fun r => r.cyc)) ++
    leBytes 8 (w (fun r => r.core.toNat + 2 ^ 29 * r.stream.toNat + 2 ^ 32 * r.site.toNat + 2 ^ 48 * nd.more)) ++
    leBytes 8 (w (fun r => r.aux.toNat))

/-- Steps of units in flight that a stop waits for: engine orders, row and leased-engine commands. -/
def isInFlight : Instr → Bool
  | .rowResultPerform .. | .leasedCommandStart _ | .leasedCommandComplete _ => true
  | i => isEngineWork i

/-- Bank claims of units in flight. -/
def isFlightClaim : Act → Bool
  | .read .. | .write .. | .rowRead .. | .rowWrite .. | .leaseRead .. | .leaseWrite .. => true
  | _ => false

/-- Whether a node still has a unit in flight, or an untimed access that has not performed. -/
def State.inFlight (s : State) (n : Nat) : Bool :=
  let cs := s.coresOf n
  s.agenda.any (fun d => d.node = some n && cs.contains d.who && isInFlight d.instr) ||
    cs.any (fun c => (s.core c).pad.claims.any (fun q => isFlightClaim q.act) ||
      (s.core c).acc.any (fun a => !a.performed && !a.replay && a.kind ≠ .mark))

/-- Steps of a node itself that end with it. -/
def isNodeStep : Instr → Bool
  | .stopPulse | .holdBegin | .holdEnd | .contextSave | .contextSaveComplete | .contextRestoreComplete | .loadComplete
  | .completionRecordWrite => true
  | _ => false

/-- The node is DONE: record, messages, dependents, and what it held (R234). -/
def State.completeNode (s : State) (n : Nat) (nd : Node) : State :=
  let index := BitVec.ofNat 24 n
  let s := { s with agenda := s.agenda.filter (fun d => d.node ≠ some n && !(d.who = n && isNodeStep d.instr)) }
  let at_ := nd.record / 64 * 64
  let s := if (tierOf at_).isSome then s.arrayWrite at_ ⟨nd.recordBytes s.clock, []⟩ else s
  let s := if nd.holds_ then (s.freeCores n).freePcs n else s
  let s := s.freeAreas n
  let s := { s with fabric := { s.fabric with
    groups := s.fabric.groups.filter (fun g => g.1 ≠ n), remote := s.fabric.remote.filter (fun r => r.node ≠ n),
    peers := s.fabric.peers.filter (fun p => p.1 ≠ n) } }
  let s := s.modNode n (fun nd => { nd with
    state := .done, reserved := Vector.replicate 4 0, kept := [], keptPcs := [], victimFor := none, stopping := none,
    holdAt := none, holdEnd := none, saved := [], withdrawn := [], savedOn := [] })
  let s := if nd.type = 1 && nd.verdict ≤ 1 then s.post 3 index 0 ((nd.word 15).setWidth 64) else s
  let s := s.post 1 index nd.verdict (BitVec.ofNat 64 nd.record)
  let s := (s.nodes.filter (fun p => p.2.state = .waiting && p.2.deps.contains n)).foldl (fun s p => s.settle p.1) s
  s.pairsFreed ((if nd.holds_ then nd.pairs else []) ++ nd.savedOn)

/-- COMPLETION_RECORD_WRITE of a node: after every unit in flight has finished. A record address that is no multiple of
64, or lies in no memory, is rounded down, or not written (log 52). -/
def execCompletionRecordWrite (s : State) : Host.Outcome State Fault Refusal :=
  let n := s.cur
  .next (match s.nodes.find n with
    | none => s
    | some nd =>
      if nd.state = .done then s
      else if s.inFlight n then s.due (s.clock + 1) rankWalker none n .completionRecordWrite
      else s.completeNode n nd)

/-! ### Inputs that are no steps of the table -/

/-- A walker message about a timetable of this package (R237, R240 to R242). -/
def State.takeNote (s : State) (n : Nat) : PeerNote → State
  | .submitted ix tree hops =>
    ({ s with fabric := { s.fabric with peers := s.fabric.peers ++ [(n, ix, tree, hops)] } }).attempt 0
  | .marked k =>
    match s.nodes.find n, s.nodes.find k with
    | some nd, some x =>
      if (nd.state = .loading || nd.state = .running) && nd.victimFor.isNone then
        let s := s.takeAreas n nd
        (match decide (x.state = NodeState.ready), s.readImage x with
          | true, .ok x' => s.aim n k x'
          | _, _ => s).markNow n k
      else s
    | _, _ => s
  | .pointed c => s.modNode n (fun nd => { nd.meetPoint s.clock with cut := max nd.cut (c + 1) })
  | .leaseOver => s.leaseWaitOver n

/-- An input that is no step of the table (R121, R275, R276, R279, R303). A corrected error counts in CECNT of the
context, or at the device. Every error makes the test of its structure due (R284). -/
def State.takeInput (s : State) : State :=
  let t := s.dropInput
  match (s.inputs.head?.map (fun (a : Arrival) => a.input) : Option Input) with
  | none => s
  | some (.event ..) => t
  | some (.poison (.lane p)) => t.storageError (.lane p)
  | some (.poison p) => (t.storageError p).testAt p
  | some (.corrected c p) =>
    (if c < boxBase + 8 then t.modCore c (·.modCsr (fun r => { r with cecnt := r.cecnt + 1 }))
    else { t with fabric := { t.fabric with corrected := t.fabric.corrected + 1 } }).testAt p
  | some (.residue c tile x) => (t.residueError c tile x).testCore c testArray
  | some (.guardFlip c) => { t with guardBad := c :: t.guardBad }
  | some (.badFlit p) => { t with fabric := { t.fabric with badNext := p :: t.fabric.badNext } }
  | some (.member r) => { t with fabric := { t.fabric with remote := t.fabric.remote ++ [r] } }
  | some (.peer n note) => t.takeNote n note
  | some (.hostPage p a) =>
    { t with hostPages := if a then p :: t.hostPages.filter (· ≠ p) else t.hostPages.filter (· ≠ p) }

end Sys2Proof.Machine
end

