-- ==== Sys2Proof/Machine/FabricTime.lean ====
section
/-! DEFINITION. Fabric time: the join and its clock step, PTP messages, the timing alarm, and the control flits that come
from other packages (20, R304 to R308, R316). -/

namespace Sys2Proof.Machine

/-! ### Join (R305, R307) -/

/-- A cycle after the clock has been stepped. -/
def stepped (n : Nat) (step : Int) : Nat := ((n : Int) + step).toNat

/-- A driver's times stepped with the clock. -/
def Driver.stepped (d : Driver) (n : Int) : Driver :=
  let f := fun t => Machine.stepped t n
  { d with ready := f d.ready, wroteG := d.wroteG.map f, wroteX := d.wroteX.map f, loadFree := f d.loadFree,
           storeFree := f d.storeFree, markFree := f d.markFree }

/-- A core's times stepped: only signal boxes run while a package joins. -/
def Core.stepped (k : Core) (n : Int) : Core :=
  let f := fun t => Machine.stepped t n
  { (k.modDrv (·.stepped n)) with acc := k.acc.map (fun (a : Access) => { a with free := f a.free }) }.modPad (fun p => { p with
    claims := p.claims.map (fun (q : Claim) => { q with asked := f q.asked }),
    assigned := p.assigned.map (fun (a : Assigned) => { a with until_ := f a.until_ }) })

/-- A pseudo-channel's times stepped. -/
def PseudoChannel.stepped (q : PseudoChannel) (n : Int) : PseudoChannel :=
  let f := fun t => Machine.stepped t n
  { q with
    refab := q.refab.map f, serving := q.serving.map (fun x => (f x.1, x.2)), base := f q.base,
    acts := q.acts.map (fun p => (f p.1, p.2)), slot := q.slot.map (fun p => (f p.1, p.2)),
    banks := q.banks.map (fun (p : Nat × DramBank) => (p.1, { p.2 with
      act := p.2.act.map f, pre := p.2.pre.map f, read := p.2.read.map f, write := p.2.write.map f,
      refpb := p.2.refpb.map f })) }

/-- A die's times stepped. -/
def Die.stepped (d : Die) (n : Int) : Die :=
  let f := fun t => Machine.stepped t n
  { d with busyTo := d.busyTo.map (fun (p : Nat × Nat) => (p.1, f p.2)), pair := d.pair.map (fun (p : Pair) => { p with
      clkOff := f p.clkOff, reqAt := f p.reqAt, ramp := f p.ramp, wakeAt := f p.wakeAt, wakeFrom := f p.wakeFrom }) }

/-- The Station Clock stepped by the port hardware: what is on its way keeps its distance, and WAITS compare against the
stepped value. -/
def State.stepClock (s : State) (n : Int) : State :=
  let f := fun t => stepped t n
  let s := { s with
    clock := f s.clock,
    agenda := (s.agenda.filter (fun (d : Due) => !decide (d.instr = Instr.waitsExpiry))).map (fun (d : Due) => { d with cycle := f d.cycle }),
    inputs := s.inputs.map (fun (a : Arrival) => { a with cycle := f a.cycle }),
    cores := s.cores.map (fun (p : Nat × Core) => (p.1, p.2.stepped n)),
    dies := s.dies.map (fun (d : Die) => d.stepped n),
    pcs := s.pcs.map (fun (p : Nat × PseudoChannel) => (p.1, p.2.stepped n)),
    front := s.front.map (fun (e : Front) => { e with prf := f e.prf }),
    arrived := s.arrived.map (fun (p : Nat × Nat) => (p.1, f p.2)),
    nodes := s.nodes.map (fun (p : Nat × Node) => (p.1, { p.2 with readyAt := f p.2.readyAt })),
    fabric := { s.fabric with ports := s.fabric.ports.map (fun (p : Port) => { p with req := f p.req }) } }
  let s := s.cores.foldl (fun (s : State) (p : Nat × Core) => match p.2.drv.hold with
    | some (.waits v) => s.due (max v.toNat s.clock) rankVisible none p.1 .waitsExpiry
    | _ => s) s
  if s.clock % 65536 = 0 then s.due s.clock rankGrantBoundary none 0 .grantBoundary else s

/-- The timing parent: of the ports whose lane works and that have heard an Announce, the one with the best master; of
equal ones the port that the algorithm chooses, if it is among them, else the lowest (R305; DESIGN CHOICE, log 127). -/
def State.bestMaster (s : State) (choice : Nat) : Option Nat :=
  ((List.range 24).filter (fun p => !(s.getPort p).withdrawn && (s.getPort p).delay.isSome)).foldl (fun (b : Option Nat) p =>
    match (s.getPort p).master, b.bind (fun q => (s.getPort q).master) with
    | some r, some q => if r < q || (r = q && p = choice) then some p else b
    | some _, none => some p
    | none, _ => b) none

/-- Largest offset and one-way delay of a link, in half cycles: 24 and 960 cycles (R307). -/
def offsetLimit : Nat := 48
def delayLimit : Int := 1920

/-- Whether a link is admitted with an offset after the step, in half cycles: measured, a one-way delay and an offset within
their limits, and a lane that has not failed (R284, R307). -/
def Port.admissible (p : Port) (offset : Int) : Bool :=
  !p.withdrawn && p.delay.any (fun d => decide (d ≤ delayLimit)) && offset.natAbs ≤ offsetLimit

/-- Half of a number, rounded to the nearest cycle. -/
def halfOf (n : Int) : Int := (n + 1) / 2

/-- Offset of a port after the step, in half cycles: as measured then, else what was measured before, stepped. -/
def offsetAfter (after : List (Nat × Int)) (i : Nat) (before : Int) : Int :=
  ((after.find? (fun p => p.1 = i)).map Prod.snd).getD before

/-- FABRIC_JOIN: only while no timetable is loaded or running. The clock is locked to the parent's and stepped once by the
offset that the parent's port has measured; the links within their limits are admitted, but for those that the package at
the other end refuses. Boot goes on to READY (R331). The operands are what the ports and the other packages tell at the join:
the choice among equal masters, offsets in half cycles measured after the step, links refused (log 127). -/
def execFabricJoin (choice : Nat) (after : List (Nat × Int)) (refused : List Nat) (s : State) :
    Host.Outcome State Fault Refusal :=
  .next (if s.host.phase.toNat < 4 || s.nodes.any (fun p => p.2.holds_) then s
    else
      let parent := s.bestMaster choice
      let step : Int := match parent with
        | some p => -(halfOf (s.getPort p).offset)
        | none => 0
      let s := s.stepClock step
      let ports := s.fabric.ports.mapIdx (fun i (p : Port) =>
        let o := offsetAfter after i (p.offset + 2 * step)
        { p with
          admitted := p.admissible o && !refused.contains i, parent := parent = some i, locked := true, offset := o })
      ({ s with
        fabric := { s.fabric with ports := ports, joined := ports.toList.any (·.admitted) },
        host := { s.host with phase := 5 } }).attempt 0)

/-! ### PTP (R305, R306) -/

/-- PTP_ANNOUNCE: the best-master-clock algorithm of the next join uses it. -/
def execPtpAnnounce (rank : Nat) (s : State) : Host.Outcome State Fault Refusal :=
  .next (s.modPort s.cur (fun p => { p with master := some rank }))

/-- PTP_SYNC with its one-step time stamp. Before the join the port answers each with a Delay_Req (log 127); after it, Delay_Req
leaves in the time slots. -/
def execPtpSync (time : Int) (s : State) : Host.Outcome State Fault Refusal :=
  let t := s.modPort s.cur (fun p => { p with sync := (s.clock : Int) - time })
  .next (if s.fabric.joined then t else t.sendTime s.cur ptpDelayReqOut 0)

/-- PTP_DELAY_REQ of a child: the package acts as its master and answers with the cycle in which it has come (R306). -/
def execPtpDelayReq (s : State) : Host.Outcome State Fault Refusal :=
  .next (s.sendTime s.cur ptpDelayRespOut s.clock)

/-- PTP_DELAY_RESP: the measurement of this port's offset and delay completes, each the half of a sum of cycles. -/
def execPtpDelayResp (time : Int) (s : State) : Host.Outcome State Fault Refusal :=
  let p := s.getPort s.cur
  let back := time - (p.req : Int)
  .next ((s.modPort s.cur (fun p => { p with delay := some (p.sync + back) })).laterAt 0 rankWalker s.cur
    (.offsetMeasurement (p.sync - back)))

/-- PTP_FOLLOW_UP is ignored (Table 20.2). -/
def execPtpFollowUp (s : State) : Host.Outcome State Fault Refusal := .next s

/-! ### Timing alarm (R308) -/

/-- The timing alarm of a port: every fabric timetable of the package stops, and the host is told. -/
def State.timingAlarm (s : State) (port : Nat) : State :=
  let hit := s.nodes.filter (fun p => p.2.holds_ && !p.2.portList.isEmpty)
  let s := hit.foldl (fun s p => s.fatalNode p.1
    { verdict := 3, cause := causeAlarm, info := faultInfo unitCollective port false 0, cyc := s.clock, site := 0,
      stream := 5, core := 0, aux := 0 }) s
  s.post 5 0 0 (BitVec.ofNat 64 port)

/-- OFFSET_MEASUREMENT of a port, in half cycles: beyond 24 cycles it raises the timing alarm, once the package has joined. -/
def execOffsetMeasurement (offset : Int) (s : State) : Host.Outcome State Fault Refusal :=
  let port := s.cur
  let s := s.modPort port (fun p => { p with offset := offset })
  .next (if s.fabric.joined && offsetLimit < offset.natAbs then s.timingAlarm port else s)

/-- LOSS_OF_LOCK of a port. -/
def execLossOfLock (s : State) : Host.Outcome State Fault Refusal :=
  let port := s.cur
  .next ((s.modPort port (fun p => { p with locked := false })).timingAlarm port)

/-! ### Other flits (R304, R316) -/

/-- IDLE_FLIT has no effect. -/
def execIdleFlit (s : State) : Host.Outcome State Fault Refusal := .next s

/-- RESERVED_FLIT_DROP: the device's corrected-error count gains one. -/
def execReservedFlitDrop (s : State) : Host.Outcome State Fault Refusal := .next s.dropFlit

/-- HOLD_NOTICE for a timetable: a hold for the detection cycle it names; it is passed on. -/
def execHoldNotice (cycle : Nat) (s : State) : Host.Outcome State Fault Refusal := .next (s.startHold s.cur cycle [])

/-- STOP_NOTICE for a timetable, likewise. -/
def execStopNotice (cycle : Nat) (s : State) : Host.Outcome State Fault Refusal := .next (s.stopFrom s.cur cycle)

end Sys2Proof.Machine
end

