-- ==== Sys2Proof/Machine/Sm.lean ====
section
/-! DEFINITION. SM3 and SM2 as the security processor uses them (23, R332, R336). The spec names both algorithms and does not
give them: the digest is that of GB/T 32905, the signature that of GB/T 32918 on the curve recommended there, with the default
signer identity (PRESUMED, log 4). Keys are numbers without a known value (`Config`). -/

namespace Sys2Proof.Machine

/-- Bytes of a number, big-endian. -/
def beBytes (n v : Nat) : List Byte := (leBytes n v).reverse

/-- Number of big-endian bytes. -/
def beNat (l : List Byte) : Nat := leNat l.reverse

/-! ### SM3 -/

/-- The eight words of the chaining value, A to H. -/
structure Sm3 where
  a : Word
  b : Word
  c : Word
  d : Word
  e : Word
  f : Word
  g : Word
  h : Word
  deriving DecidableEq, Repr

def Sm3.initial : Sm3 :=
  ⟨0x7380166F, 0x4914B2B9, 0x172442D7, 0xDA8A0600, 0xA96F30BC, 0x163138AA, 0xE38DEE4D, 0xB0FB0E4E⟩

/-- Constant T of a round, turned left by its number. -/
def sm3T (j : Nat) : Word := (if j < 16 then 0x79CC4519#32 else 0x7A879D8A#32).rotateLeft (j % 32)

/-- The boolean functions of a round. -/
def sm3Ff (j : Nat) (x y z : Word) : Word := if j < 16 then x ^^^ y ^^^ z else (x &&& y) ||| (x &&& z) ||| (y &&& z)
def sm3Gg (j : Nat) (x y z : Word) : Word := if j < 16 then x ^^^ y ^^^ z else (x &&& y) ||| (~~~x &&& z)

/-- The permutations. -/
def sm3P0 (x : Word) : Word := x ^^^ x.rotateLeft 9 ^^^ x.rotateLeft 17
def sm3P1 (x : Word) : Word := x ^^^ x.rotateLeft 15 ^^^ x.rotateLeft 23

/-- Words of the expanded message, newest first: `n` more of them. -/
def sm3Expand : Nat → List Word → List Word
  | 0, w => w
  | n + 1, w =>
    let x := fun (k : Nat) => w.getD (k - 1) 0
    sm3Expand n ((sm3P1 (x 16 ^^^ x 9 ^^^ (x 3).rotateLeft 15) ^^^ (x 13).rotateLeft 7 ^^^ x 6) :: w)

/-- One round with its two message words. -/
def Sm3.round (v : Sm3) (j : Nat) (w w4 : Word) : Sm3 :=
  let s := (v.a.rotateLeft 12 + v.e + sm3T j).rotateLeft 7
  let t1 := sm3Ff j v.a v.b v.c + v.d + (s ^^^ v.a.rotateLeft 12) + (w ^^^ w4)
  let t2 := sm3Gg j v.e v.f v.g + v.h + s + w
  ⟨t1, v.a, v.b.rotateLeft 9, v.c, sm3P0 t2, v.e, v.f.rotateLeft 19, v.g⟩

/-- The rounds from number `j` on over the expanded message that is left, of which the last four words open no round. -/
def Sm3.rounds (v : Sm3) : Nat → List Word → Sm3
  | j, w :: a :: b :: c :: w4 :: r => Sm3.rounds (v.round j w w4) (j + 1) (a :: b :: c :: w4 :: r)
  | _, _ => v

/-- Compression of one block of 64 bytes. -/
def Sm3.block (v : Sm3) (b : List Byte) : Sm3 :=
  let w := (List.range 16).map (fun i => BitVec.ofNat 32 (beNat ((b.drop (4 * i)).take 4)))
  let r := v.rounds 0 (sm3Expand 52 w.reverse).reverse
  ⟨r.a ^^^ v.a, r.b ^^^ v.b, r.c ^^^ v.c, r.d ^^^ v.d, r.e ^^^ v.e, r.f ^^^ v.f, r.g ^^^ v.g, r.h ^^^ v.h⟩

/-- A number of blocks in turn. -/
def Sm3.blocks (v : Sm3) : Nat → List Byte → Sm3
  | 0, _ => v
  | n + 1, l => Sm3.blocks (v.block (l.take 64)) n (l.drop 64)

/-- A message padded to whole blocks. -/
def sm3Pad (l : List Byte) : List Byte :=
  l ++ 0x80#8 :: (List.replicate ((119 - l.length % 64) % 64) 0#8 ++ beBytes 8 (8 * l.length))

/-- SM3 of a byte string. -/
def sm3 (l : List Byte) : BitVec 256 :=
  let p := sm3Pad l
  let v := Sm3.initial.blocks (p.length / 64) p
  v.a ++ v.b ++ v.c ++ v.d ++ v.e ++ v.f ++ v.g ++ v.h

/-! ### SM2 -/

/-- The recommended curve: field, coefficients of x and of 1, order, base point. -/
def sm2p : Nat := 0xFFFFFFFEFFFFFFFFFFFFFFFFFFFFFFFFFFFFFFFF00000000FFFFFFFFFFFFFFFF
def sm2a : Nat := 0xFFFFFFFEFFFFFFFFFFFFFFFFFFFFFFFFFFFFFFFF00000000FFFFFFFFFFFFFFFC
def sm2b : Nat := 0x28E9FA9E9D9F5E344D5A9E4BCF6509A7F39789F515AB8F92DDBCBD414D940E93
def sm2n : Nat := 0xFFFFFFFEFFFFFFFFFFFFFFFFFFFFFFFF7203DF6B21C6052B53BBF40939D54123

/-- A point of the curve; none is the point at infinity. -/
abbrev Point := Option (Nat × Nat)

def sm2g : Point :=
  some (0x32C4AE2C1F1981195F9904466A39C9948FE30BBFF2660BE1715A4589334C74C7,
    0xBC3736A2F4F6779C59BDCEE36B692153D0A9877CC62A474002DF32E52139F0A0)

/-- A power by a modulus, over a number of bits of the exponent. -/
def powMod (m b : Nat) : Nat → Nat → Nat
  | 0, _ => 1 % m
  | n + 1, e =>
    let h := powMod m b n (e / 2)
    if e % 2 = 1 then h * h % m * b % m else h * h % m

/-- Inverse by a prime modulus of 256 bits. -/
def invMod (m x : Nat) : Nat := powMod m (x % m) 256 (m - 2)

/-- Difference by the field's modulus. -/
def subMod (x y : Nat) : Nat := (x + (sm2p - y % sm2p)) % sm2p

/-- The third point of the line with a slope through two points, mirrored. -/
def chord (l : Nat) (p q : Nat × Nat) : Nat × Nat :=
  let x := subMod (subMod (l * l) p.1) q.1
  (x, subMod (l * subMod p.1 x) p.2)

/-- Sum of two points. -/
def Point.add : Point → Point → Point
  | none, q => q
  | p, none => p
  | some p, some q =>
    if p.1 ≠ q.1 then some (chord (subMod q.2 p.2 * invMod sm2p (subMod q.1 p.1) % sm2p) p q)
    else if p.2 ≠ q.2 || p.2 = 0 then none
    else some (chord ((3 * p.1 * p.1 + sm2a) * invMod sm2p (2 * p.2) % sm2p) p p)

/-- Multiple of a point, over a number of bits of the factor. -/
def Point.mul (p : Point) : Nat → Nat → Point
  | 0, _ => none
  | n + 1, k =>
    let h := Point.mul p n (k / 2)
    if k % 2 = 1 then (h.add h).add p else h.add h

/-- A key as the point it stands for: x, then y. -/
def keyPoint (key : BitVec 512) : Nat × Nat := (key.toNat / 2 ^ 256, key.toNat % 2 ^ 256)

/-- The default signer identity. -/
def sm2Id : List Byte := [0x31, 0x32, 0x33, 0x34, 0x35, 0x36, 0x37, 0x38, 0x31, 0x32, 0x33, 0x34, 0x35, 0x36, 0x37, 0x38]

/-- Digest of a message with the digest of the signer's identity, curve and key before it. -/
def sm2Digest (key : BitVec 512) (msg : List Byte) : Nat :=
  let g := sm2g.getD (0, 0)
  let q := keyPoint key
  let z := sm3 (beBytes 2 128 ++ sm2Id ++ [sm2a, sm2b, g.1, g.2, q.1, q.2].flatMap (beBytes 32))
  (sm3 (beBytes 32 z.toNat ++ msg)).toNat

/-- Whether a signature, r and then s, is that of a message under a public key. -/
def sm2Verify (key : BitVec 512) (msg : List Byte) (sig : BitVec 512) : Bool :=
  let r := sig.toNat / 2 ^ 256
  let s := sig.toNat % 2 ^ 256
  let t := (r + s) % sm2n
  if r = 0 || sm2n ≤ r || s = 0 || sm2n ≤ s || t = 0 then false
  else match (Point.mul sm2g 256 s).add (Point.mul (some (keyPoint key)) 256 t) with
    | some x => (sm2Digest key msg + x.1) % sm2n = r
    | none => false

/-- Public key of a private one. -/
def sm2Public (d : Nat) : BitVec 512 :=
  let q := (Point.mul sm2g 256 d).getD (0, 0)
  BitVec.ofNat 512 (q.1 * 2 ^ 256 + q.2)

/-- Signature of a message with a private key and a nonce. -/
def sm2Sign (d k : Nat) (msg : List Byte) : BitVec 512 :=
  let x := ((Point.mul sm2g 256 k).getD (0, 0)).1
  let r := (sm2Digest (sm2Public d) msg + x) % sm2n
  let s := invMod sm2n (1 + d) * ((k + (sm2n - r) * d) % sm2n) % sm2n
  BitVec.ofNat 512 (r * 2 ^ 256 + s)

end Sys2Proof.Machine
end

