-- ==== Sys2Proof/Machine/HostLink.lean ====
section
/-! DEFINITION. The Shoene Link: the memory aperture, the control aperture, the message ring, and attestation (20, R317
to R319; 23, R336 to R338). -/

namespace Sys2Proof.Machine

/-! ### Memory aperture (R317) -/

/-- Aligned pieces of at most 64 bytes, in ascending order. -/
def piecesFrom : Nat → Nat → Nat → List (Nat × Nat)
  | 0, _, _ => []
  | fuel + 1, pa, n =>
    if n = 0 then []
    else
      let k := min n (64 - pa % 64)
      (pa, k) :: piecesFrom fuel (pa + k) (n - k)

def hostPieces (pa n : Nat) : List (Nat × Nat) := piecesFrom (n / 64 + 2) pa n

/-- A piece joins the host's queue; one outside the aperture reaches nothing. -/
def State.hostPiece (s : State) (o : HostOp) : State :=
  if depotEnd ≤ o.pa then s
  else { s with hostOps := s.hostOps.put s.fresh o, fresh := s.fresh + 1 }

/-- HOST_MEMORY_READ; one of no bytes is the turn of the oldest piece (the model's own step). -/
def execHostMemoryRead (pa n : Nat) (s : State) : Host.Outcome State Fault Refusal :=
  .next (if n = 0 then s.hostTurn else ((hostPieces pa n).foldl (fun s p => s.hostPiece ⟨p.1, false, p.2, []⟩) s).hostPump)

/-- HOST_MEMORY_WRITE. -/
def execHostMemoryWrite (pa : Nat) (bytes : List Byte) (s : State) : Host.Outcome State Fault Refusal :=
  .next (((hostPieces pa bytes.length).foldl (fun s p =>
    s.hostPiece ⟨p.1, true, p.2, (bytes.drop (p.1 - pa)).take p.2⟩) s).hostPump)

/-! ### Message ring (R318) -/

/-- Entries of the ring, and whether it is full. -/
def HostRegs.ringSize (h : HostRegs) : Nat := 2 ^ (h.msize.toNat + 4)
def HostRegs.ringFull (h : HostRegs) : Bool := (h.mhead.toNat + 1) % h.ringSize = h.mtail.toNat % h.ringSize

/-- Bytes of a message (Table 20.6). -/
def messageBytes (m : Message) : List Byte :=
  leBytes 8 (m.type.toNat + 2 ^ 8 * m.index.toNat + 2 ^ 32 * m.verdict.toNat) ++ leBytes 8 m.payload.toNat

/-- One message written: the entry, MHEAD, the notification. -/
def State.writeMessage (s : State) (m : Message) : State :=
  let h := s.host
  let s := s.arrayWrite (hostBase + h.mbase.toNat + 16 * h.mhead.toNat) ⟨messageBytes m, []⟩
  let s := { s with host := { s.host with mhead := BitVec.ofNat 32 ((h.mhead.toNat + 1) % h.ringSize) } }
  if h.miaddr = 0 then s else s.arrayWrite (hostBase + h.miaddr.toNat / 4 * 4) ⟨leBytes 4 h.midata.toNat, []⟩

/-- The first message that waits is written if the ring has room. -/
def State.nextMessage (s : State) : State :=
  match s.messages with
  | [] => s
  | m :: r => if s.host.ringFull then s else ({ s with messages := r }).writeMessage m

/-- Messages that wait go out as far as the ring has room; a queue that has been full gives the walker room. -/
def State.drainMessages (s : State) : State :=
  let full := 64 ≤ s.messages.length
  let s := (List.range s.messages.length).foldl (fun s _ => s.nextMessage) s
  if full && s.messages.length < 64 then s.attempt 0 else s

/-- MESSAGE_POST: none is ever dropped. -/
def execMessagePost (m : Message) (s : State) : Host.Outcome State Fault Refusal :=
  .next ({ s with messages := s.messages ++ [m] }).drainMessages

/-! ### Attestation (R336 to R338) -/

/-- BOOTSTAT (Table 23.4). -/
def HostRegs.bootstat (h : HostRegs) : DWord := 0#16 ++ h.retired ++ h.hbmok ++ 0#8 ++ h.err ++ h.phase

def HostRegs.attError (h : HostRegs) : HostRegs := { h with atterr := true }
def State.modHost (s : State) (f : HostRegs → HostRegs) : State := { s with host := f s.host }

/-- ATTNONCE_WRITE. -/
def execAttnonceWrite (i : Nat) (v : DWord) (s : State) : Host.Outcome State Fault Refusal :=
  .next (s.modHost (fun h => if h.attbusy then h.attError else { h with nonce := vecMod h.nonce i (fun _ => v) }))

/-- ATTADDR_WRITE. -/
def execAttaddrWrite (v : DWord) (s : State) : Host.Outcome State Fault Refusal :=
  .next (s.modHost (fun h => if h.attbusy then h.attError else { h with attaddr := v &&& 0x7FFFFFFFFFF00 }))

/-- ATTESTATION_GO: in READY and not busy the nonce and BOOTSTAT are latched, and the report follows within 2^24
cycles. -/
def execAttestationGo (s : State) : Host.Outcome State Fault Refusal :=
  .next (if s.host.phase ≠ 5 || s.host.attbusy then s.modHost (·.attError)
    else
      let s := s.modHost (fun h => { h with attbusy := true, latched := h.nonce, latchedBoot := h.bootstat })
      let f := s.freeCycles
      f.2.laterAt (1 + f.1 % (2 ^ 24 - 1)) rankWalker 0 .attestationReportWrite)

/-- ATTCTL_ERR_CLEAR. -/
def execAttctlErrClear (s : State) : Host.Outcome State Fault Refusal :=
  .next (s.modHost (fun h => { h with atterr := false }))

/-- The retirement list as bytes: die and pair of each entry (log 53). -/
def retirementBytes (l : List (Nat × Nat)) : List Byte := l.flatMap (fun p => [BitVec.ofNat 8 p.1, BitVec.ofNat 8 p.2])

/-- The device identity key pair: the private half is derived from the fused secret and never leaves (R336, log 4). -/
def identityKey : Nat := 1 + Config.identitySecret % (sm2n - 2)
def identityPub : BitVec 512 := sm2Public identityKey

/-- Signature of a message by the device identity key. -/
def identitySign (msg : List Byte) : BitVec 512 :=
  sm2Sign identityKey (1 + Config.identityNonce (sm3 msg).toNat % (sm2n - 1)) msg

/-- Report bytes 0 to 191 (Table 23.3). -/
def HostRegs.reportBody (h : HostRegs) : List Byte :=
  leBytes 8 Config.devId.toNat ++ leBytes 8 h.repcnt.toNat ++ h.latched.toList.flatMap (fun w => leBytes 8 w.toNat) ++
    beBytes 32 (sm3 (h.headers.flatMap id)).toNat ++ beBytes 32 (sm3 (retirementBytes h.retiredStore)).toNat ++
    leBytes 8 h.latchedBoot.toNat ++ List.replicate 8 0 ++ beBytes 64 identityPub.toNat

/-- An attestation report. -/
def HostRegs.report (h : HostRegs) : List Byte :=
  h.reportBody ++ beBytes 64 (identitySign h.reportBody).toNat

/-- ATTESTATION_REPORT_WRITE: the report reaches the host before BUSY reads 0. -/
def execAttestationReportWrite (s : State) : Host.Outcome State Fault Refusal :=
  .next (if !s.host.attbusy then s
    else
      let s := s.modHost (fun h => { h with repcnt := h.repcnt + 1 })
      let s := s.arrayWrite (hostBase + s.host.attaddr.toNat) ⟨s.host.report, []⟩
      s.modHost (fun h => { h with attbusy := false }))

/-! ### Control aperture (Table 20.5) -/

/-- GBASE_WRITE: GN keeps its value when the written one lies outside 1 to 24 or a node is not DONE. -/
def execGbaseWrite (v : DWord) (s : State) : Host.Outcome State Fault Refusal :=
  let n := (v.extractLsb' 0 5).toNat
  let keep := n < 1 || 24 < n || s.nodes.any (fun p => p.2.state ≠ .done)
  .next (s.modHost (fun h => { h with gbase := v &&& 0xFFFFFFFFF0000, gn := if keep then h.gn else v.setWidth 5 }))

/-- The step of a write to an offset that has one of its own. -/
def apertureStep (off : Nat) (v : DWord) : Option (Nat × Instr) :=
  if off = 0x08 then
    match (v.extractLsb' 30 2).toNat with
    | 0 => some (0, .graphkickSubmit (v.setWidth 24))
    | 1 => some (0, .graphkickRelease (v.setWidth 24))
    | 2 => some (0, .graphkickCancel (v.setWidth 24))
    | _ => none
  else if off = 0x10 then some (0, .gbaseWrite v)
  else if 0x80 ≤ off ∧ off ≤ 0x98 ∧ off % 8 = 0 then some (0, .attnonceWrite ((off - 0x80) / 8) v)
  else if off = 0xA0 then some (0, .attaddrWrite v)
  else if 0x1000 ≤ off ∧ off < 0x1400 ∧ off % 8 = 0 ∧ v.getLsbD 0 then some ((off - 0x1000) / 8, .pwake)
  else none

/-- REGISTER_WRITE of the control aperture; other offsets ignore it. -/
def execRegisterWrite (off : BitVec 16) (v : DWord) (s : State) : Host.Outcome State Fault Refusal :=
  let o := off.toNat
  .next (match apertureStep o v with
    | some (who, i) => s.laterAt 0 rankVisible who i
    | none =>
      match o with
      | 0x18 => (s.modHost (fun h => { h with mbase := v &&& 0x7FFFFFFFFF000, msize := v.setWidth 4 })).drainMessages
      | 0x28 => (s.modHost (fun h => { h with mtail := v.setWidth 32 })).drainMessages
      | 0x30 => s.modHost (fun h => { h with miaddr := v &&& 0x7FFFFFFFFFFFF })
      | 0x38 => s.modHost (fun h => { h with midata := v.setWidth 32 })
      | 0x50 => s.modHost (fun h => { h with roottab := v &&& 0xFFFFFFFFF0000 })
      | 0x58 => s.modHost (fun h => { h with svbase := v &&& 0xFFFFFFFFF0000 })
      | 0x60 => s.modHost (fun h => { h with svsize := v.setWidth 32 })
      | 0xA8 =>
        let s := if v.getLsbD 2 then s.laterAt 0 rankVisible 0 .attctlErrClear else s
        if v.getLsbD 0 then s.laterAt 0 rankVisible 0 .attestationGo else s
      | _ => s)

/-- What the host reads at an offset of the control aperture; offsets not listed read zero (R317). -/
def State.aperture (s : State) (off : Nat) : DWord :=
  let h := s.host
  match off with
  | 0x00 => Config.devId
  | 0x10 => h.gbase ||| h.gn.setWidth 64
  | 0x18 => h.mbase ||| h.msize.setWidth 64
  | 0x20 => h.mhead.setWidth 64
  | 0x28 => h.mtail.setWidth 64
  | 0x30 => h.miaddr
  | 0x38 => h.midata.setWidth 64
  | 0x40 => h.bootstat
  | 0x50 => h.roottab
  | 0x58 => h.svbase
  | 0x60 => h.svsize.setWidth 64
  | 0x80 => vecGet h.nonce 0 0
  | 0x88 => vecGet h.nonce 0 1
  | 0x90 => vecGet h.nonce 0 2
  | 0x98 => vecGet h.nonce 0 3
  | 0xA0 => h.attaddr
  | 0xA8 => (BitVec.ofBool h.atterr ++ BitVec.ofBool h.attbusy ++ 0#1).setWidth 64
  | _ => 0

end Sys2Proof.Machine
end

