-- ==== Sys2Proof/Machine/Boot.lean ====
section
/-! DEFINITION. The pair handshake and the signal boxes' power registers (15, R250, R262, R263; 22, R324 to R327); bring-up
(23, R331 to R335). Handshake writes perform at rankFlag, and the hardware's own changes of the same cycle after them, so
that a write is checked against what has performed before its cycle (R324). -/

namespace Sys2Proof.Machine

/-! ### Pair handshake (Table 15.5) -/

/-- Place of the hardware's own changes within a cycle. -/
def rankChange : Nat := rankVnf

/-- A write of a pair's register with its precondition; one that fails changes nothing and sets SEQERR (R263, R324). -/
def State.pairWrite (s : State) (ok : Pair → Bool) (f : Pair → Pair) : State :=
  if ok (s.getPair s.cur) then s.modPair s.cur f else s.modPair s.cur (fun q => { q with seqerr := true })

/-- PQCTL.REQ written: 1 asks for the pair, 0 gives it back to placement. -/
def execPqctlReq (v : Bool) (s : State) : Host.Outcome State Fault Refusal :=
  let p := s.cur
  let q := s.getPair p
  .next (if v then
      if q.req then s
      else (s.modPair p (fun q => { q with req := true, ack := false, reqAt := s.clock })).laterAt 64 rankChange p .quiesceAck
    else if q.mayReq false then
      if q.req then
        ((s.modPair p (fun q => { q with req := false, reqAt := s.clock })).laterAt 1 rankChange p .quiesceAck).attempt 1
      else s
    else s.pairWrite (fun _ => false) id)

/-- QUIESCE_ACK of a pair: ACK is 1 from 64 cycles after REQ on if the pair is not placed, and 0 without REQ. -/
def execQuiesceAck (s : State) : Host.Outcome State Fault Refusal :=
  let p := s.cur
  let q := s.getPair p
  .next (if !q.req then s.modPair p (fun q => { q with ack := false })
    else if q.reqAt + 64 ≤ s.clock && !s.placed (p / 16) (p % 16) then s.modPair p (fun q => { q with ack := true })
    else s)

/-- PCLK written. -/
def execPclkWrite (v : Bool) (s : State) : Host.Outcome State Fault Refusal :=
  .next (if v then s.pairWrite (fun q => q.state = 2) (fun q => { q with clk := true })
    else s.pairWrite (fun q => q.ack && !q.rbusy)
      (fun q => { q with clk := false, clkOff := if q.clk then s.clock else q.clkOff }))

/-- PRAIL written: STATE reads 01 until the rail is off or good. -/
def execPrailWrite (v : Bool) (s : State) : Host.Outcome State Fault Refusal :=
  let p := s.cur
  let q := s.getPair p
  let n := if v then 8192 else 2048
  let ok := if v then !q.clk else !q.clk && q.clkOff + 32 ≤ s.clock
  .next (if !ok then s.pairWrite (fun _ => false) id
    else if q.rail = v then s
    else (s.modPair p (fun q => { q with rail := v, state := 1, ramp := s.clock + n })).laterAt n rankChange p
      (if v then .railOnComplete else .railOffComplete))

/-- RAIL_OFF_COMPLETE: STATE is 00; the balancer setting and PIMB are lost (R325). -/
def execRailOffComplete (s : State) : Host.Outcome State Fault Refusal :=
  let q := s.getPair s.cur
  .next (if !q.rail && q.ramp = s.clock then s.modPair s.cur (fun q => { q with state := 0, pimb := 0, balance := 0 }) else s)

/-- RAIL_ON_COMPLETE: STATE is good, and every core of the pair is in its reset state (R263). -/
def execRailOnComplete (s : State) : Host.Outcome State Fault Refusal :=
  let p := s.cur
  let q := s.getPair p
  .next (if q.rail && q.ramp = s.clock then
      let s := s.modPair p (fun q => { q with state := 2 })
      { s with cores := s.cores.filter (fun k => !(pairCores p).contains k.1) }
    else s)

/-- PRETB written: a multiple of 64 KiB in the pages of this die (R325). -/
def execPretbWrite (v : DWord) (s : State) : Host.Outcome State Fault Refusal :=
  let b := (v &&& 0xFFFFFFFFFF).toNat
  .next (s.pairWrite (fun _ => b % 65536 = 0 && b / 2 ^ 30 = 0 && b / 2 ^ 27 % 8 = s.cur / 16)
    (fun q => { q with pretb := BitVec.ofNat 64 b }))

/-- PWAKE: WAKE is set, and the signal box of the die has an interrupt pending (R327). -/
def execPwake (s : State) : Host.Outcome State Fault Refusal :=
  .next ((s.modPair s.cur (fun q => { q with
    wake := true, wakeAt := s.clock, wakeFrom := if q.wake then q.wakeFrom else s.clock + 1 })).wakeBox (s.cur / 16))

/-- PRSTAT.WAKE cleared; a set in the same cycle stands. -/
def execPrstatWakeClear (s : State) : Host.Outcome State Fault Refusal :=
  .next (s.modPair s.cur (fun q => { q with wake := q.wake && q.wakeAt = s.clock }))

/-- PRSTAT.SEQERR cleared. -/
def execPrstatSeqerrClear (s : State) : Host.Outcome State Fault Refusal :=
  .next (s.modPair s.cur (fun q => { q with seqerr := false }))

/-! ### Retention (R325) -/

/-- PQCTL.RSAVE: the state is caught now; the image has performed 4,095 cycles on. -/
def execPqctlRsave (s : State) : Host.Outcome State Fault Refusal :=
  let ok := (s.getPair s.cur).canRetain
  let s := s.pairWrite Pair.canRetain (fun q => { q with rbusy := true, shot := some (q.balance, q.pimb) })
  .next (if ok then s.laterAt 4095 rankChange s.cur .retentionSaveComplete else s)

/-- PQCTL.RREST: the image is applied 4,095 cycles on. -/
def execPqctlRrest (s : State) : Host.Outcome State Fault Refusal :=
  let ok := (s.getPair s.cur).canRetain
  let s := s.pairWrite Pair.canRetain (fun q => { q with rbusy := true, shot := some (0, 0), badImage := false })
  .next (if ok then s.laterAt 4095 rankChange s.cur .retentionRestoreComplete else s)

/-- Check word of a retention image (DESIGN CHOICE, log 5). -/
def retentionCheck (balance pimb : Word) : Word := ~~~(balance + pimb)

/-- A retention image: its check word, then the retained words over and over up to 32 KiB, so that no write which changes some
of its bytes leaves it an image (R325, R330; the layout is the model's, DESIGN CHOICE, log 5). -/
def retentionImage (balance pimb : Word) : List Byte :=
  leBytes 4 (retentionCheck balance pimb).toNat ++
    ((List.range 4095).flatMap (fun _ => leBytes 4 balance.toNat ++ leBytes 4 pimb.toNat) ++ leBytes 4 balance.toNat)

/-- What an image as it stands in the depot restores: nothing where its check word is wrong for the bytes behind it. -/
def readRetention (img : List Byte) : Option (Word × Word) :=
  let balance := BitVec.ofNat 32 (leNat ((img.drop 4).take 4))
  let pimb := BitVec.ofNat 32 (leNat ((img.drop 8).take 4))
  if img = retentionImage balance pimb then some (balance, pimb) else none

/-- RETENTION_SAVE_COMPLETE: the image stands in the depot, and RBUSY is 0 in the next cycle. -/
def execRetentionSaveComplete (s : State) : Host.Outcome State Fault Refusal :=
  let p := s.cur
  let q := s.getPair p
  .next (match q.shot with
    | some (b, m) =>
      let s := s.arrayWrite (depotBase + q.pretb.toNat) ⟨retentionImage b m, []⟩
      (s.modPair p (fun q => { q with shot := none })).laterAt 1 rankChange p .retentionSaveComplete
    | none => s.modPair p (fun q => { q with rbusy := false }))

/-- RETENTION_RESTORE_COMPLETE: the image is applied, or the reset setting if its check word is wrong, which SEQERR tells
when RBUSY is 0. -/
def execRetentionRestoreComplete (s : State) : Host.Outcome State Fault Refusal :=
  let p := s.cur
  let q := s.getPair p
  .next (match q.shot with
    | some _ =>
      let found := readRetention (s.frontBytes (depotBase + q.pretb.toNat) 32768)
      let kept := found.getD (0, 0)
      (s.modPair p (fun q => { q with
        shot := none, balance := kept.1, pimb := kept.2, badImage := found.isNone })).laterAt 1
        rankChange p .retentionRestoreComplete
    | none => s.modPair p (fun q => { q with rbusy := false, seqerr := q.seqerr || q.badImage, badImage := false }))

/-! ### Grants and slew limits (R250, R251) -/

/-- PGRANT written: one register for the package. -/
def execPgrantWrite (v : DWord) (s : State) : Host.Outcome State Fault Refusal :=
  .next { s with pgrant := v &&& 0xFFFFFFFF0007 }

/-- SBSLEW of an effective level written: its step is 8 to 64. -/
def execSbslewWrite (n : Nat) (v : DWord) (s : State) : Host.Outcome State Fault Refusal :=
  let f := (v.extractLsb' 0 7).toNat
  .next (s.modDie s.cur (fun d => { d with slew := vecMod d.slew n (fun _ => BitVec.ofNat 7 (max 8 (min 64 f))) }))

/-! ### Bring-up (R331 to R335) -/

/-- A boot failure: the device stops. -/
def State.bootFail (s : State) (err : BitVec 4) : State := s.modHost (fun h => { h with phase := 15, err := err })

/-- A field of an image header (Table 23.2). -/
def imageField (img : List Byte) (off n : Nat) : Nat := leNat ((img.drop off).take n)

/-- Payload of an image. -/
def imagePayload (img : List Byte) : List Byte := (img.drop 256).take (imageField img 8 4)

/-- An image of a kind checked against R332: the ERR code of its failure, or none. -/
def imageError (kind minimum : Nat) (img : List Byte) : Option (BitVec 4) :=
  let payload := imagePayload img
  let len := imageField img 8 4
  if imageField img 0 4 = kind && len % 64 = 0 && payload.length = len &&
      beBytes 32 (sm3 payload).toNat = (img.drop 12).take 32 && (img.drop 44).take 84 = List.replicate 84 0 &&
      (img.drop 192).take 64 = List.replicate 64 0 &&
      sm2Verify Config.rootKey (img.take 128) (BitVec.ofNat 512 (beNat ((img.drop 128).take 64))) then
    if minimum ≤ imageField img 4 4 then none else some 2
  else some 1

/-- One image verified in its turn: a later one than the fused minimum of the security processor raises it. -/
def State.acceptImage (s : State) (kind : Nat) (img : List Byte) : State :=
  match imageError kind (vecGet s.host.minVersion 0 (kind - 1)).toNat img with
  | some e => s.bootFail e
  | none => s.modHost (fun h => { h with
      headers := h.headers ++ [img.take 256],
      minVersion := if kind = 1 then vecMod h.minVersion 0 (fun _ => BitVec.ofNat 32 (imageField img 4 4)) else h.minVersion,
      boxImage := if kind = 3 then imagePayload img else h.boxImage })

/-- A signal box as the walker starts it (R333). -/
def State.startedBox (s : State) (die : Nat) : Core :=
  let entry := Config.boxEntry s.host.boxImage
  let k := Core.reset.modCsr (fun r => { r with
    status := mkStatus false true false false false, tvec := entry.setWidth 64,
    coreix := BitVec.ofNat 64 (die * 2 ^ 17), plevel := s.plevel })
  k.modDrv (fun d => { d with code := Cells.dense 0 s.host.boxImage, pc := entry, ready := s.clock + 1 })

/-- The signal boxes start. -/
def State.startBoxes (s : State) : State :=
  (List.range 8).foldl (fun s d => s.modCore (boxBase + d) (fun _ => s.startedBox d)) s

/-- IMAGE_VERIFICATION: the boot ROM has started the security processor, and phase 1 begins; then the three images are
verified in order, and phase 2 begins. -/
def execImageVerification (images : List (List Byte)) (s : State) : Host.Outcome State Fault Refusal :=
  .next (if s.host.phase = 0 then
      let f := ((s.modHost (fun h => { h with phase := 1 })).hostPump).freeCycles
      f.2.laterAt (1 + f.1) rankWalker 0 (.imageVerification images)
    else if s.host.phase = 1 then
      let s := [1, 2, 3].foldl (fun s kind =>
        if s.host.phase = 1 then s.acceptImage kind (images.getD (kind - 1) []) else s) s
      if s.host.phase = 1 then (s.modHost (fun h => { h with phase := 2 })).startBoxes else s
    else s)

/-- One row of every bank of a pseudo-channel, one behind the other, written and read back by the training: what stands there
afterwards the spec does not say (R334; DESIGN CHOICE, log 144). -/
def State.trainRow (s : State) (pc : Nat) : State :=
  s.writeRecord (2 ^ 36 * (pc / 64) + 2 ^ 30 * (pc % 64) + 2 ^ 14 * (Config.trainingRow % 65536)) (2 ^ 14)

/-- HBM_TRAINING: the mode registers of the stacks that pass are set, and a row of their banks is written (R209, R334); stacks
that failed are absent with their 64 pseudo-channels, and phase 3 begins. -/
def execHbmTraining (failed : List Nat) (s : State) : Host.Outcome State Fault Refusal :=
  let ok := (List.range 16).filter (fun n => !failed.contains n)
  let mask := BitVec.ofNat 16 (ok.foldl (fun m n => m + 2 ^ n) 0)
  .next (if s.host.phase ≠ 2 then s
    else
      let s := s.modHost (fun h => { h with hbmok := mask, hbmMode := h.hbmMode ||| mask })
      if ok.isEmpty then s.bootFail 3
      else
        let gone := ((List.range 16).filter failed.contains).flatMap (fun n => List.range' (64 * n) 64)
        let s := gone.foldl (fun s c => s.modPc c (fun q => { q with absent := true })) s
        let s := (ok.flatMap (fun n => List.range' (64 * n) 64)).foldl State.trainRow s
        let s := s.modHost (fun h => { h with phase := 3 })
        (s.pcs.filter (fun p => !p.2.queue.isEmpty)).foldl (fun s p => s.laterAt 0 rankWalker p.1 .openWindowRequest) s)

/-- POWER_ON_SELF_TEST: pairs that failed, by package pair number, are retired (R335), and phase 4 begins. -/
def execPowerOnSelfTest (failed : List Nat) (s : State) : Host.Outcome State Fault Refusal :=
  .next (if s.host.phase ≠ 3 then s
    else
      let s := (failed.filter (· < 128)).foldl (fun s p => s.retirePair (p / 16) (p % 16)) s
      if (List.range 128).all (fun p => (s.getPair p).retired) then s.bootFail 4
      else s.modHost (fun h => { h with phase := 4 }))

/-- DEVICE_RESET: everything as after reset but what does not lose it: fused versions, the retirement list, the host's
own memory, and what the outside is yet to do. -/
def execDeviceReset (s : State) : Host.Outcome State Fault Refusal :=
  let l := s.host.retiredStore
  let r := { State.reset with
    inputs := s.inputs.map (fun (a : Arrival) => { a with cycle := a.cycle - s.clock }),
    mem := s.mem.filter (fun p => hostBase ≤ p.1),
    bad := s.bad.filter (fun p => hostBase ≤ 8 * p.1),
    fresh := s.fresh, hostPages := s.hostPages,
    host := { HostRegs.reset with
      minVersion := s.host.minVersion, retiredStore := l, retired := BitVec.ofNat 16 l.length } }
  .next (l.foldl (fun (s : State) p => s.modPair (16 * p.1 + p.2) (fun q => { q with retired := true })) r)

end Sys2Proof.Machine
end

