-- ==== Sys2Proof/Machine/LoadStore.lean ====
section
/-! DEFINITION. Load and store micro-orders (09, R173 to R185), the beats that they and the matrix feeds and drains
move (R176), and the pushes that follow. -/

namespace Sys2Proof.Machine

/-! ### Address generators (R173, R174) -/

/-- Address of a generator. -/
def agenAddr (g : Agen) : Int :=
  let i0 : Int := (g.cursor.toNat % g.count0.toNat : Nat)
  let i1 : Int := (g.cursor.toNat / g.count0.toNat % g.count1.toNat : Nat)
  g.base.toNat + i0 * g.stride0.toInt + i1 * g.stride1.toInt

/-- The generator advanced. -/
def agenNext (g : Agen) : Agen :=
  { g with cursor := BitVec.ofNat 32 ((g.cursor.toNat + 1) % (g.count0.toNat * g.count1.toNat)) }

/-- The address of the issuing engine's generator, which advances; `len` bytes must lie in the scratchpad. -/
def State.walkAddr (s : State) (g : BitVec 3) (len : Nat) : Except Refused (Nat × State) :=
  let ag := vecGet (s.me.engine s.curEng).ag ⟨0, 0, 0, 1, 1, 0⟩ g.toNat
  let a := agenAddr ag
  if a < 0 || (padEnd : Int) < a + len then .error (causeScratchRange, 0)
  else .ok (a.toNat, s.modIssuer (fun e => { e with ag := vecMod e.ag g.toNat (fun _ => agenNext ag) }))

/-- A moving order issues: 4 cycles of the unit, one event of class 7 (R177, R259). -/
def State.issueMove (s : State) (k : BitVec 2) (f : State → Except Refused State) : State :=
  s.issueOrder k.toNat (some 4) (fun s => f (s.modMe (·.charged 7 1)))

/-- A lane held for a span, if no held span stands against it (R177, R193). -/
def State.takeLane (s : State) (lane from_ until_ : Nat) (f : State → Except Refused State) : Except Refused State :=
  if s.me.laneTaken s.curEng s.tt lane from_ until_ then .error (causeOccupancy, 0)
  else f (s.modMe (·.holdLane s.tt lane s.curEng from_ until_))

/-- The arithmetic stage held for a span, if it is free now (R177). -/
def State.takeStage (s : State) (from_ until_ : Nat) (f : State → Except Refused State) : Except Refused State :=
  let tt := s.tt
  if s.me.laneTaken s.curEng tt stageNo tt (tt + 1) then .error (causeOccupancy, 0)
  else f (s.modMe (·.holdLane tt stageNo s.curEng from_ until_))

/-- Block of a scratchpad address. -/
def blockOf (a : Nat) : Nat := a / 0x10000

/-- Bank and index of the order that issues. -/
def State.esite (s : State) : Nat := (s.me.engine s.curEng).site

/-! ### Filling a ring slot (R178, R179, R181) -/

/-- A ring slot takes `n` more beats: the template is read when the slot starts, and the first beat's address is
given. A slot that is smaller than the smallest tile of the template's format is a waybill fault, for the slots of 256 bytes of
file 16 too (DEDUCED, log 153). -/
def State.fillRing (s : State) (ring n site : Nat) (f : Nat → Nat → State → Except Refused State) : Except Refused State :=
  let r := s.me.getRing ring
  let t := r.tail.toNat
  let size := r.slot.toNat
  let base := r.base.toNat
  let template := s.me.pad.word (base - 32)
  let fmt := bits template 19 16
  let bad := !(s.me.pad.poison (base - 32) 4).isEmpty
  if r.fill = 0 && base < 32 then .error (causeScratchRange, ring)
  else if r.fill = 0 && (8 < fmt || size * 256 < smallestTile fmt) then .error (causeWaybill, ring)
  else if r.full t || size < r.fill + n then .error (causeOverflow, ring)
  else
    let s := if r.fill = 0 && bad then s.readPoison s.cur subScratch (base - 32) (engUnit s.curEng) else s
    f (r.slotBase t + 256 * r.fill) r.gen (s.modMe (·.modRing ring (fun r => { r with
      fill := r.fill + n, writes := r.writes + n, filler := s.curEng, site := site,
      template := if r.fill = 0 then template &&& 0x07FF0000#32 else r.template,
      templateBad := if r.fill = 0 then bad else r.templateBad })))

/-- LDRING (R179). -/
def execLdring (_y : BitVec 4) (k : BitVec 2) (q : BitVec 4) (g : BitVec 3) (l : BitVec 2) (r : BitVec 1)
    (b : BitVec 4) (s : State) : Host.Outcome State Fault Refusal :=
  let n := b.toNat + 1
  let tt := s.tt
  let site := s.esite
  let ac := r = 1
  .next (s.issueMove k (fun s => s.takeLane (laneNo l r) (tt + 1) (tt + n + 1) (fun s =>
      match s.walkAddr g (256 * n) with
      | .error e => .error e
      | .ok (a, s) =>
        s.fillRing q.toNat n site (fun d gen s =>
          .ok ((List.range n).foldl (fun s i =>
            let x := a + 256 * i
            let y := d + 256 * i
            s.claimBeat s.cur (1 + i) 12 x 256
              (.read x 256 (.ring q.toNat gen y (blockToBlock ac (blockOf x) (blockOf y))))) s)))))

/-- A queue that is to be filled or drained by beats. -/
def moveJob (s : State) (i : Instr) (addr queue beats lane site : Nat) (e : Entry) : MoveJob :=
  { order := i, issue := s.tt, addr := addr, queue := queue, beats := beats, lane := lane, entry := e, words := [],
    bad := [], left := beats, arrive := 0, site := site }

def State.putMove (s : State) (j : MoveJob) : Nat × State :=
  (s.fresh, ({ s with fresh := s.fresh + 1 }).modMe (fun k => { k with moves := k.moves.put s.fresh j }))

/-- LDQ (R180). -/
def execLdq (y : BitVec 4) (k : BitVec 2) (q : BitVec 4) (g : BitVec 3) (l : BitVec 2) (r : BitVec 1)
    (t b : BitVec 4) (s : State) : Host.Outcome State Fault Refusal :=
  let n := b.toNat + 1
  let tt := s.tt
  let site := s.esite
  .next (s.issueMove k (fun s => s.takeLane (laneNo l r) (tt + 1) (tt + n + 1) (fun s =>
      match s.walkAddr g (256 * n) with
      | .error e => .error e
      | .ok (a, s) =>
        let p := s.putMove (moveJob s (.ldq y k q g l r t b) a q.toNat n (laneNo l r) site ⟨[], []⟩)
        .ok ((List.range n).foldl (fun s i =>
          let x := a + 256 * i
          s.claimBeat s.cur (1 + i) t.toNat x 256
            (.read x 256 (.row p.1 i (toStation (r = 1) (blockOf x) t.toNat)))) p.2))))

/-! ### Draining a queue (R181) -/

/-- Head entry of an outbound queue, popped. -/
def State.popOut (s : State) (q : Nat) : Except Refused (Entry × State) :=
  match vecGet s.me.q.oq [] q with
  | [] => .error (causeUnderflow, q)
  | e :: r => .ok (e, s.modMe (·.modQ (fun x => { x with oq := vecMod x.oq q (fun _ => r) })))

/-- Row of an entry as a payload. -/
def entryRow (e : Entry) (r : Nat) : Payload :=
  ⟨bytesOf (e.words.getRange (64 * r) 64),
   if e.poison.isEmpty then [] else (List.range 64).filter (fun c => e.poison.get (64 * r + c) ≠ 0)⟩

/-- Beat that leaves S7 `n` cycles on and is written at an address (R176). -/
def State.writeBeat (s : State) (ac : Bool) (n addr : Nat) (p : Payload) (done : BeatDone) : State :=
  s.claimBeat s.cur (n + toBlock ac 7 (blockOf addr)) 7 addr p.bytes.length (.write addr p done)

/-- The rows of an entry stored at consecutive beats from an address. -/
def State.storeRows (s : State) (ac : Bool) (e : Entry) (n a : Nat) (done : BeatDone) : State :=
  let s := if e.poison.isEmpty then s else s.readPoison s.cur subQueue 0 (engUnit .store)
  (List.range n).foldl (fun s i => s.writeBeat ac (1 + i) (a + 256 * i) (entryRow e i) done) s

def execStq (_y : BitVec 4) (k : BitVec 2) (q : BitVec 4) (g : BitVec 3) (l : BitVec 2) (r : BitVec 1)
    (_t b : BitVec 4) (s : State) : Host.Outcome State Fault Refusal :=
  let n := b.toNat + 1
  let tt := s.tt
  .next (s.issueMove k (fun s => s.takeLane (laneNo l r) (tt + 1) (tt + n + 1) (fun s =>
    match s.walkAddr g (256 * n) with
    | .error e => .error e
    | .ok (a, s) =>
      match s.popOut q.toNat with
      | .error e => .error e
      | .ok (e, s) => .ok (s.storeRows (r = 1) e n a .lane))))

def execString (_y : BitVec 4) (k : BitVec 2) (q : BitVec 4) (g : BitVec 3) (l : BitVec 2) (r : BitVec 1)
    (x : BitVec 2) (_t b : BitVec 4) (s : State) : Host.Outcome State Fault Refusal :=
  let n := b.toNat + 1
  let tt := s.tt
  let site := s.esite
  .next (s.issueMove k (fun s => s.takeLane (laneNo l r) (tt + 1) (tt + n + 1) (fun s =>
      let s := s.modIssuer (fun e => { e with ag := vecMod e.ag g.toNat agenNext })
      match s.popOut x.toNat with
      | .error e => .error e
      | .ok (e, s) =>
        s.fillRing q.toNat n site (fun d gen s => .ok (s.storeRows (r = 1) e n d (.fill q.toNat gen))))))

/-! ### SUPD (R182 to R184) -/

/-- SUPD: the gradient entry, the constants and the generator are read at issue; the beats follow. The constants and their
poison stand in the job's words from 4096 on. -/
def execSupd (y : BitVec 4) (k : BitVec 2) (q : BitVec 4) (g : BitVec 3) (l : BitVec 2) (r : BitVec 1)
    (t b : BitVec 4) (s : State) : Host.Outcome State Fault Refusal :=
  let n := b.toNat + 1
  let tt := s.tt
  let site := s.esite
  .next (s.issueMove k (fun s => s.takeStage (tt + 1) (tt + 6 * n + 32) (fun s =>
      s.takeLane (laneNo l r) (tt + 1) (tt + 6 * n + 32) (fun s =>
        match s.walkAddr g (768 * n) with
        | .error e => .error e
        | .ok (a, s) =>
          match s.popOut q.toNat with
          | .error e => .error e
          | .ok (e, s) =>
            let pad := s.me.pad
            let s := if (pad.poison 0x400 32).isEmpty then s else s.readPoison s.cur subScratch 0x400 (engUnit .store)
            let j := moveJob s (.supd y k q g l r t b) a q.toNat (3 * n) (laneNo l r) site e
            let j := { j with
              words := Cells.dense 4096 (wordsOf (pad.bytes 0x400 32)),
              bad := Cells.setMany [] ((pad.poison 0x400 32).map (fun i => (4096 + i, 1#1))) }
            let p := s.putMove j
            let s := (List.range (3 * n)).foldl (fun s i =>
              let x := a + 256 * i
              s.claimBeat s.cur (1 + i) 7 x 256 (.read x 256 (.update p.1 i (toStation (r = 1) (blockOf x) 7)))) p.2
            .ok (s.soon (3 * n + 16) rankCheck (.beatRead 0 0 (.update p.1 0 0)))))))

/-- One element of the update, and whether a result is non-finite although its inputs are finite (R183). -/
def updateElem (c : Nat → Word) (g w m v : Word) : Word × Word × Word × Bool :=
  let gs := fmul g (c 0)
  let mn := toF32 (((f32 (c 1)).mul (f32 m)).add ((f32 (c 2)).mul (f32 gs)))
  let vn := toF32 (((f32 (c 3)).mul (f32 v)).add (((f32 (c 4)).mul (f32 gs)).mul (f32 gs)))
  let sum := fadd vn (c 5)
  let u := fmul mn (frsq sum)
  let wn := toF32 ((f32 w).sub ((f32 (c 6)).mul ((f32 u).add ((f32 (c 7)).mul (f32 w)))))
  let nf := fun (ins : List Word) (out : Word) => ins.all f32finite && !f32finite out
  (wn, mn, vn, nf [g, c 0] gs || nf [c 1, m, c 2, gs] mn || nf [c 3, v, c 4, gs] vn || nf [vn, c 5] sum ||
    nf [sum] (frsq sum) || nf [mn, vn, c 5] u || nf [w, c 6, u, c 7] wn)

/-- One group of 32 elements of a row: the new w, m and v words and VNF, or the address to record. -/
def updateGroup (j : MoveJob) (row h : Nat) : Except Nat (List Word × List Word × List Word × Bool) :=
  let c := fun i => j.words.get (4096 + i)
  let at_ := fun (i e : Nat) => 64 * (3 * row + i) + 32 * h + e
  let bads := (List.range 3).flatMap (fun i => (List.range 32).filterMap (fun e =>
    if j.bad.get (at_ i e) ≠ 0 then some (j.addr + 4 * at_ i e) else none))
  let gbad := (List.range 32).any (fun e => j.entry.poison.get (64 * row + 32 * h + e) ≠ 0)
  match bads with
  | x :: _ => .error x
  | [] =>
    if gbad then .error (j.addr + 4 * at_ 0 0)
    else
      let out := (List.range 32).map (fun e =>
        updateElem c (j.entry.words.get (64 * row + 32 * h + e)) (j.words.get (at_ 0 e)) (j.words.get (at_ 1 e))
          (j.words.get (at_ 2 e)))
      .ok (out.map (·.1), out.map (·.2.1), out.map (·.2.2.1), out.any (·.2.2.2))

/-- Whether an output of an SUPD, 0 w, 1 m or 2 v, is computed from a poisoned constant (R183, R276). -/
def MoveJob.constBad (j : MoveJob) (i : Nat) : Bool :=
  (if i = 0 then [0, 1, 2, 3, 4, 5, 6, 7] else if i = 1 then [0, 1, 2] else [0, 3, 4]).any (fun n => j.bad.get (4096 + n) ≠ 0)

/-- All beats of an SUPD have been read: its results leave S7 from W0 on (R184). A group with a poisoned word is left
unwritten, and the test of the block that held the word falls due (R283, R284); results of a poisoned constant are
poisoned (R276). The record of such a group bears the cycle of the SUPD's last read beat: R183 gives none (DESIGN CHOICE,
log 150). -/
def State.finishUpdate (s : State) (j : MoveJob) : State :=
  let n := j.beats / 3
  let w0 := j.issue + 3 * n + 32 - s.tt
  let ac := 4 ≤ j.lane
  let step := fun (p : State × Bool) (row : Nat) =>
    let gs := (List.range 2).map (updateGroup j row)
    let s := gs.foldl (fun (s : State) x => match x with
      | .error a => (s.taint s.cur 0x41 subScratch false a (engUnit .store) (BitVec.ofNat 64 a)).testCore s.cur testSram
      | .ok _ => s) p.1
    let part := fun (i : Nat) (x : Except Nat (List Word × List Word × List Word × Bool)) => match x with
      | .error _ => none
      | .ok (w, m, v, _) => some (if i = 0 then w else if i = 1 then m else v)
    let s := (List.range 3).foldl (fun (s : State) i =>
      let at_ := j.addr + 256 * (3 * row + i)
      let off := w0 + 3 * row + i
      let out := fun (l : List Word) => (⟨bytesOf l, if j.constBad i then List.range l.length else []⟩ : Payload)
      match gs.map (part i) with
      | [some a, some b] => s.writeBeat ac off at_ (out (a ++ b)) .lane
      | [some a, none] => s.writeBeat ac off at_ (out a) .lane
      | [none, some b] => s.claimBeat s.cur (off + toBlock ac 7 (blockOf at_)) 7 (at_ + 128) 128
          (.write (at_ + 128) (out b) .lane)
      | _ => s) s
    (s, p.2 || gs.any (fun x => match x with
      | .ok (_, _, _, f) => f && !j.constBad 0
      | .error _ => false))
  let out := (List.range n).foldl step (s, false)
  if out.2 then out.1.soon w0 rankVnf (.vectorWriteVisible ⟨.flag, [], [], true⟩) else out.1

/-! ### SQNT (R185) -/

/-- The narrowing of an SQNT, in runs of `run` elements of one entry (R185). -/
def State.storeNarrowing (s : State) (f : BitVec 3) (r : BitVec 2) (v : BitVec 1) (n : BitVec 4) (run : Nat) : Narrowing :=
  { code := f.toNat + 3, sat := r.toNat = 3, mode := r.toNat, draw := s.me.draw .store, scaleDraw := s.scaleDraw, run := run,
    rotate := some (s.me.seedAt n.toNat, v = 1), check := checkByte ⟨true, true, v = 1, n⟩ }

/-- The runs of an entry as an SQNT stores them, each with its outcomes (R185). -/
def Narrowing.entry (n : Narrowing) (e : Entry) : List (QBlock × QFlags) := n.runs 0 0 ((e.words.getRange 0 1024).map f32)

/-- SQNT. A run that holds a poisoned word sets no VNF (log 121). -/
def execSqnt (_y : BitVec 4) (k : BitVec 2) (q : BitVec 4) (g : BitVec 3) (f : BitVec 3) (r : BitVec 2)
    (v : BitVec 1) (p : BitVec 2) (n : BitVec 4) (s : State) : Host.Outcome State Fault Refusal :=
  let code := f.toNat + 3
  let run := if isGroupFmt code then groupSize p.toNat else 32
  let size := run * codeBits code / 8 + trailerSize code
  let z := 1024 / run * size
  let nb := (z + 255) / 256
  let tt := s.tt
  .next (s.issueMove k (fun s => s.takeStage (tt + 21) (tt + 21 + nb) (fun s =>
      s.takeLane 7 (tt + 21) (tt + 21 + nb) (fun s =>
        match s.walkAddr g z with
        | .error e => .error e
        | .ok (a, s) =>
          match s.popOut q.toNat with
          | .error e => .error e
          | .ok (e, s) =>
            let out := (s.storeNarrowing f r v n run).entry e
            let bytes := lineBytes code (out.map Prod.fst)
            let bad := fun (w : Nat) => (List.range run).any (fun i => e.poison.get (run * w + i) ≠ 0)
            let words := if e.poison.isEmpty then [] else
              (List.range ((z + 3) / 4)).filter (fun w => bad (4 * w / size) || (4 * w + 3 < z && bad ((4 * w + 3) / size)))
            let s := if e.poison.isEmpty then s else s.readPoison s.cur subQueue 0 (engUnit .store)
            let s := countSr r.toNat .store (State.useFresh (1024 / run) s)
            let s := if (out.zipIdx).any (fun p => p.1.2.ovf && !bad p.2) then s.soon 21 rankVnf (.vectorWriteVisible ⟨.flag, [], [], true⟩) else s
            .ok ((List.range nb).foldl (fun s b =>
              let d := (bytes.drop (256 * b)).take 256
              s.writeBeat true (21 + b) (a + 256 * b)
                ⟨d, (words.filter (fun w => w / 64 = b)).map (· - 64 * b)⟩ .lane) s)))))

/-! ### Beats (R176) -/

/-- A move job changed, if there is one. -/
def State.modMove (s : State) (id : Nat) (f : MoveJob → MoveJob) : State :=
  s.modMe (fun k => match k.moves.find id with
    | none => k
    | some j => { k with moves := k.moves.put id (f j) })

def State.dropMove (s : State) (id : Nat) : State := s.modMe (fun k => { k with moves := k.moves.drop id })

/-- The words and poison of a read beat put into a job from word `w` on. -/
def MoveJob.take (j : MoveJob) (w : Nat) (p : Payload) : MoveJob :=
  { j with words := j.words.setRange w (wordsOf p.bytes), left := j.left - 1,
           bad := p.poison.foldl (fun (m : Cells 1) i => m.set (w + i) 1) j.bad }

/-- BEAT_READ: the bytes of the last writes up to the cycle before, on their way (R176). -/
def execBeatRead (addr n : Nat) (dest : BeatDest) (s : State) : Host.Outcome State Fault Refusal :=
  let p := s.me.pad.payload addr n
  let tt := s.tt
  let seen := fun (s : State) (e : Eng) =>
    let s := s.modMe (·.charged 3 1)
    if p.poison.isEmpty then s else s.readPoison s.cur subScratch (addr + 4 * p.poison.headD 0) (engUnit e)
  .next (match dest with
    | .feed job b => (seen s .matrix).feedRead job b p
    | .ring r gen at_ h =>
      let s := if p.poison.isEmpty then s
        else s.readPoison s.cur subScratch (addr + 4 * p.poison.headD 0) (engUnit .load)
      s.claimBeat s.cur h 12 at_ n (.write at_ p (.fill r gen))
    | .row job row h =>
      let s := (seen s .load).modMove job (fun j => { (j.take (64 * row) p) with arrive := max j.arrive (tt + h) })
      match s.me.moves.find job with
      | none => s
      | some j => if j.left = 0 then s.soon (j.arrive + 1 - tt) rankVisible (.ldqEntryPush job) else s
    | .update job r h =>
      match s.me.moves.find job with
      | none => s
      | some j =>
        let due := j.issue + j.beats + 16
        if n = 0 then
          -- the check: all beats must have reached S7
          if j.left = 0 && j.arrive ≤ due then s.dropMove job
          else (s.dropMove job).orderFault s.cur .store (causeOccupancy, 0) j.site
        else
          let j' := { (j.take (64 * r) p) with arrive := max j.arrive (tt + h) }
          let s := (s.modMe (·.charged 3 1)).modMove job (fun _ => j')
          if j'.left = 0 && j'.arrive ≤ due then s.finishUpdate j' else s)

/-- BEAT_WRITE: a beat performs; the last one of a slot lets it be pushed in the next cycle (R176, R179). -/
def execBeatWrite (addr : Nat) (data : Payload) (done : BeatDone) (s : State) : Host.Outcome State Fault Refusal :=
  let s := s.modMe (·.modPad (·.write addr data))
  let s := if done = .nothing then s else s.modMe (·.charged 3 1)
  .next (match done with
    | .nothing => s
    | .lane => s
    | .drain job => s.drainWritten job
    | .fill r gen =>
      let g := s.me.getRing r
      if g.gen ≠ gen then s
      else
        let s := s.modMe (·.modRing r (fun g => { g with writes := g.writes - 1 }))
        if g.writes = 1 && g.fill = g.slot.toNat then s.soon 1 rankVisible (.ldringSlotPush r) else s)

/-- LDRING_SLOT_PUSH: the slot that a ring has filled gets its tag; a slot that a drain has filled meanwhile is an overflow
of the order that filled the ring last (R17, R179). -/
def execLdringSlotPush (ring : Nat) (s : State) : Host.Outcome State Fault Refusal :=
  let r := s.me.getRing ring
  .next (if r.fill = r.slot.toNat && r.writes = 0 then
      if r.full r.tail.toNat then s.orderFault s.cur r.filler (causeOverflow, ring) r.site
      else s.modMe (·.modRing ring (fun r => { r.push r.template with
        fill := 0, bad := r.bad.set r.tail.toNat (if r.templateBad then 1 else 0) }))
    else s)

/-- LDQ_ENTRY_PUSH (R180). -/
def execLdqEntryPush (job : Nat) (s : State) : Host.Outcome State Fault Refusal :=
  .next (match s.me.moves.find job with
    | none => s
    | some j =>
      let s := s.dropMove job
      if 4 ≤ (vecGet s.me.q.vq [] j.queue).length then s.orderFault s.cur .load (causeOverflow, j.queue) j.site
      else s.modMe (·.modQ (fun x => { x with vq := vecMod x.vq j.queue (fun l => l ++ [⟨j.words, j.bad⟩]) })))

end Sys2Proof.Machine
end

