-- ==== Sys2Proof/Machine/Dispatch.lean ====
section
/-! DEFINITION. One arm for each constructor of Instr: the meaning of each instruction, micro-order and
event. -/

namespace Sys2Proof.Machine

def exec (i : Instr) (s : State) : Host.Outcome State Fault Refusal :=
  match i with
  | .add x0 x1 x2 => Sys2Proof.Machine.execAdd x0 x1 x2 s
  | .sub x0 x1 x2 => Sys2Proof.Machine.execSub x0 x1 x2 s
  | .and x0 x1 x2 => Sys2Proof.Machine.execAnd x0 x1 x2 s
  | .or x0 x1 x2 => Sys2Proof.Machine.execOr x0 x1 x2 s
  | .xor x0 x1 x2 => Sys2Proof.Machine.execXor x0 x1 x2 s
  | .andn x0 x1 x2 => Sys2Proof.Machine.execAndn x0 x1 x2 s
  | .shl x0 x1 x2 => Sys2Proof.Machine.execShl x0 x1 x2 s
  | .shr x0 x1 x2 => Sys2Proof.Machine.execShr x0 x1 x2 s
  | .sra x0 x1 x2 => Sys2Proof.Machine.execSra x0 x1 x2 s
  | .mul x0 x1 x2 => Sys2Proof.Machine.execMul x0 x1 x2 s
  | .mulh x0 x1 x2 => Sys2Proof.Machine.execMulh x0 x1 x2 s
  | .mulhu x0 x1 x2 => Sys2Proof.Machine.execMulhu x0 x1 x2 s
  | .min x0 x1 x2 => Sys2Proof.Machine.execMin x0 x1 x2 s
  | .max x0 x1 x2 => Sys2Proof.Machine.execMax x0 x1 x2 s
  | .minu x0 x1 x2 => Sys2Proof.Machine.execMinu x0 x1 x2 s
  | .maxu x0 x1 x2 => Sys2Proof.Machine.execMaxu x0 x1 x2 s
  | .clz x0 x1 => Sys2Proof.Machine.execClz x0 x1 s
  | .popc x0 x1 => Sys2Proof.Machine.execPopc x0 x1 s
  | .sext x0 x1 x2 => Sys2Proof.Machine.execSext x0 x1 x2 s
  | .zext x0 x1 x2 => Sys2Proof.Machine.execZext x0 x1 x2 s
  | .addi x0 x1 x2 => Sys2Proof.Machine.execAddi x0 x1 x2 s
  | .andi x0 x1 x2 => Sys2Proof.Machine.execAndi x0 x1 x2 s
  | .ori x0 x1 x2 => Sys2Proof.Machine.execOri x0 x1 x2 s
  | .xori x0 x1 x2 => Sys2Proof.Machine.execXori x0 x1 x2 s
  | .shli x0 x1 x2 => Sys2Proof.Machine.execShli x0 x1 x2 s
  | .shri x0 x1 x2 => Sys2Proof.Machine.execShri x0 x1 x2 s
  | .srai x0 x1 x2 => Sys2Proof.Machine.execSrai x0 x1 x2 s
  | .lih x0 x1 => Sys2Proof.Machine.execLih x0 x1 s
  | .movk x0 x1 x2 => Sys2Proof.Machine.execMovk x0 x1 x2 s
  | .cmp x0 x1 x2 x3 => Sys2Proof.Machine.execCmp x0 x1 x2 x3 s
  | .cmpi x0 x1 x2 x3 => Sys2Proof.Machine.execCmpi x0 x1 x2 x3 s
  | .plog x0 x1 x2 x3 x4 => Sys2Proof.Machine.execPlog x0 x1 x2 x3 x4 s
  | .sel x0 x1 x2 x3 => Sys2Proof.Machine.execSel x0 x1 x2 x3 s
  | .br x0 x1 x2 => Sys2Proof.Machine.execBr x0 x1 x2 s
  | .call x0 => Sys2Proof.Machine.execCall x0 s
  | .jr x0 => Sys2Proof.Machine.execJr x0 s
  | .jalr x0 => Sys2Proof.Machine.execJalr x0 s
  | .dbnz x0 x1 => Sys2Proof.Machine.execDbnz x0 x1 s
  | .lds x0 x1 x2 x3 => Sys2Proof.Machine.execLds x0 x1 x2 x3 s
  | .sts x0 x1 x2 x3 => Sys2Proof.Machine.execSts x0 x1 x2 x3 s
  | .ldg x0 x1 x2 x3 => Sys2Proof.Machine.execLdg x0 x1 x2 x3 s
  | .stg x0 x1 x2 x3 => Sys2Proof.Machine.execStg x0 x1 x2 x3 s
  | .amo x0 x1 x2 x3 x4 x5 => Sys2Proof.Machine.execAmo x0 x1 x2 x3 x4 x5 s
  | .fence x0 => Sys2Proof.Machine.execFence x0 s
  | .xfence x0 => Sys2Proof.Machine.execXfence x0 s
  | .ximov x0 x1 => Sys2Proof.Machine.execXimov x0 x1 s
  | .xild x0 x1 x2 => Sys2Proof.Machine.execXild x0 x1 x2 s
  | .xird x0 x1 => Sys2Proof.Machine.execXird x0 x1 s
  | .stcr x0 => Sys2Proof.Machine.execStcr x0 s
  | .waits x0 => Sys2Proof.Machine.execWaits x0 s
  | .depr x0 x1 => Sys2Proof.Machine.execDepr x0 x1 s
  | .tstart x0 x1 => Sys2Proof.Machine.execTstart x0 x1 s
  | .tstop x0 => Sys2Proof.Machine.execTstop x0 s
  | .tbase x0 x1 => Sys2Proof.Machine.execTbase x0 x1 s
  | .tload x0 x1 x2 => Sys2Proof.Machine.execTload x0 x1 x2 s
  | .lpset x0 x1 x2 => Sys2Proof.Machine.execLpset x0 x1 x2 s
  | .agset x0 x1 x2 => Sys2Proof.Machine.execAgset x0 x1 x2 s
  | .wbpush x0 => Sys2Proof.Machine.execWbpush x0 s
  | .pqpush x0 => Sys2Proof.Machine.execPqpush x0 s
  | .rcfg x0 x1 => Sys2Proof.Machine.execRcfg x0 x1 s
  | .rreset x0 => Sys2Proof.Machine.execRreset x0 s
  | .ssset x0 x1 => Sys2Proof.Machine.execSsset x0 x1 s
  | .xshape x0 x1 => Sys2Proof.Machine.execXshape x0 x1 s
  | .xcopy x0 x1 x2 => Sys2Proof.Machine.execXcopy x0 x1 x2 s
  | .xgather x0 x1 x2 x3 => Sys2Proof.Machine.execXgather x0 x1 x2 x3 s
  | .xscatter x0 x1 x2 x3 => Sys2Proof.Machine.execXscatter x0 x1 x2 x3 s
  | .xpin x0 x1 x2 x3 x4 => Sys2Proof.Machine.execXpin x0 x1 x2 x3 x4 s
  | .xunpin x0 x1 => Sys2Proof.Machine.execXunpin x0 x1 s
  | .coll x0 x1 => Sys2Proof.Machine.execColl x0 x1 s
  | .lease x0 => Sys2Proof.Machine.execLease x0 s
  | .release x0 => Sys2Proof.Machine.execRelease x0 s
  | .lquery x0 x1 => Sys2Proof.Machine.execLquery x0 x1 s
  | .ilmask x0 x1 x2 => Sys2Proof.Machine.execIlmask x0 x1 x2 s
  | .ilsamp x0 x1 x2 => Sys2Proof.Machine.execIlsamp x0 x1 x2 s
  | .iladv x0 x1 x2 => Sys2Proof.Machine.execIladv x0 x1 x2 s
  | .ilload x0 x1 x2 => Sys2Proof.Machine.execIlload x0 x1 x2 s
  | .ilsave x0 x1 x2 => Sys2Proof.Machine.execIlsave x0 x1 x2 s
  | .srtopk x0 x1 x2 => Sys2Proof.Machine.execSrtopk x0 x1 x2 s
  | .srsort x0 x1 x2 => Sys2Proof.Machine.execSrsort x0 x1 x2 s
  | .infblk x0 x1 x2 => Sys2Proof.Machine.execInfblk x0 x1 x2 s
  | .shgath x0 x1 x2 => Sys2Proof.Machine.execShgath x0 x1 x2 s
  | .shscat x0 x1 x2 => Sys2Proof.Machine.execShscat x0 x1 x2 s
  | .shpack x0 x1 x2 => Sys2Proof.Machine.execShpack x0 x1 x2 s
  | .rwmax x0 x1 => Sys2Proof.Machine.execRwmax x0 x1 s
  | .rwexs x0 x1 => Sys2Proof.Machine.execRwexs x0 x1 s
  | .rwscl x0 x1 => Sys2Proof.Machine.execRwscl x0 x1 s
  | .rwnorm x0 x1 => Sys2Proof.Machine.execRwnorm x0 x1 s
  | .trap x0 => Sys2Proof.Machine.execTrap x0 s
  | .csrrd x0 x1 => Sys2Proof.Machine.execCsrrd x0 x1 s
  | .csrwr x0 x1 => Sys2Proof.Machine.execCsrwr x0 x1 s
  | .csrset x0 x1 => Sys2Proof.Machine.execCsrset x0 x1 s
  | .csrclr x0 x1 => Sys2Proof.Machine.execCsrclr x0 x1 s
  | .tlbinv x0 x1 => Sys2Proof.Machine.execTlbinv x0 x1 s
  | .idle x0 x1 => Sys2Proof.Machine.execIdle x0 x1 s
  | .eloop x0 x1 x2 => Sys2Proof.Machine.execEloop x0 x1 x2 s
  | .tkpush x0 x1 x2 => Sys2Proof.Machine.execTkpush x0 x1 x2 s
  | .notify x0 x1 => Sys2Proof.Machine.execNotify x0 x1 s
  | .mlds x0 x1 x2 x3 x4 => Sys2Proof.Machine.execMlds x0 x1 x2 x3 x4 s
  | .mprom x0 x1 x2 x3 => Sys2Proof.Machine.execMprom x0 x1 x2 x3 s
  | .mmul x0 x1 x2 x3 x4 => Sys2Proof.Machine.execMmul x0 x1 x2 x3 x4 s
  | .mmula x0 x1 x2 x3 x4 => Sys2Proof.Machine.execMmula x0 x1 x2 x3 x4 s
  | .maff x0 x1 x2 x3 => Sys2Proof.Machine.execMaff x0 x1 x2 x3 s
  | .mzero x0 x1 x2 => Sys2Proof.Machine.execMzero x0 x1 x2 s
  | .mcopy x0 x1 x2 x3 => Sys2Proof.Machine.execMcopy x0 x1 x2 x3 s
  | .miter x0 x1 x2 x3 x4 x5 => Sys2Proof.Machine.execMiter x0 x1 x2 x3 x4 x5 s
  | .mdrainQueue x0 x1 x2 x3 => Sys2Proof.Machine.execMdrainQueue x0 x1 x2 x3 s
  | .mdrainRing x0 x1 x2 x3 => Sys2Proof.Machine.execMdrainRing x0 x1 x2 x3 s
  | .mfill x0 x1 x2 x3 x4 => Sys2Proof.Machine.execMfill x0 x1 x2 x3 x4 s
  | .mmark x0 x1 x2 => Sys2Proof.Machine.execMmark x0 x1 x2 s
  | .vadd x0 x1 x2 x3 x4 x5 x6 => Sys2Proof.Machine.execVadd x0 x1 x2 x3 x4 x5 x6 s
  | .vsub x0 x1 x2 x3 x4 x5 x6 => Sys2Proof.Machine.execVsub x0 x1 x2 x3 x4 x5 x6 s
  | .vmul x0 x1 x2 x3 x4 x5 x6 => Sys2Proof.Machine.execVmul x0 x1 x2 x3 x4 x5 x6 s
  | .vmulz x0 x1 x2 x3 x4 x5 x6 => Sys2Proof.Machine.execVmulz x0 x1 x2 x3 x4 x5 x6 s
  | .vfma x0 x1 x2 x3 x4 x5 x6 => Sys2Proof.Machine.execVfma x0 x1 x2 x3 x4 x5 x6 s
  | .vfms x0 x1 x2 x3 x4 x5 x6 => Sys2Proof.Machine.execVfms x0 x1 x2 x3 x4 x5 x6 s
  | .vmin x0 x1 x2 x3 x4 x5 x6 => Sys2Proof.Machine.execVmin x0 x1 x2 x3 x4 x5 x6 s
  | .vmax x0 x1 x2 x3 x4 x5 x6 => Sys2Proof.Machine.execVmax x0 x1 x2 x3 x4 x5 x6 s
  | .vexp2 x0 x1 x2 x3 x4 x5 => Sys2Proof.Machine.execVexp2 x0 x1 x2 x3 x4 x5 s
  | .vlog2 x0 x1 x2 x3 x4 x5 => Sys2Proof.Machine.execVlog2 x0 x1 x2 x3 x4 x5 s
  | .vrcp x0 x1 x2 x3 x4 x5 => Sys2Proof.Machine.execVrcp x0 x1 x2 x3 x4 x5 s
  | .vrsq x0 x1 x2 x3 x4 x5 => Sys2Proof.Machine.execVrsq x0 x1 x2 x3 x4 x5 s
  | .vtanh x0 x1 x2 x3 x4 x5 => Sys2Proof.Machine.execVtanh x0 x1 x2 x3 x4 x5 s
  | .vscl x0 x1 x2 x3 x4 => Sys2Proof.Machine.execVscl x0 x1 x2 x3 x4 s
  | .vabs x0 x1 x2 x3 x4 x5 => Sys2Proof.Machine.execVabs x0 x1 x2 x3 x4 x5 s
  | .viadd x0 x1 x2 x3 x4 x5 x6 => Sys2Proof.Machine.execViadd x0 x1 x2 x3 x4 x5 x6 s
  | .visub x0 x1 x2 x3 x4 x5 x6 => Sys2Proof.Machine.execVisub x0 x1 x2 x3 x4 x5 x6 s
  | .vimul x0 x1 x2 x3 x4 x5 x6 => Sys2Proof.Machine.execVimul x0 x1 x2 x3 x4 x5 x6 s
  | .vand x0 x1 x2 x3 x4 x5 x6 => Sys2Proof.Machine.execVand x0 x1 x2 x3 x4 x5 x6 s
  | .vor x0 x1 x2 x3 x4 x5 x6 => Sys2Proof.Machine.execVor x0 x1 x2 x3 x4 x5 x6 s
  | .vxor x0 x1 x2 x3 x4 x5 x6 => Sys2Proof.Machine.execVxor x0 x1 x2 x3 x4 x5 x6 s
  | .vshl x0 x1 x2 x3 x4 x5 x6 => Sys2Proof.Machine.execVshl x0 x1 x2 x3 x4 x5 x6 s
  | .vshr x0 x1 x2 x3 x4 x5 x6 => Sys2Proof.Machine.execVshr x0 x1 x2 x3 x4 x5 x6 s
  | .vsra x0 x1 x2 x3 x4 x5 x6 => Sys2Proof.Machine.execVsra x0 x1 x2 x3 x4 x5 x6 s
  | .vimin x0 x1 x2 x3 x4 x5 x6 => Sys2Proof.Machine.execVimin x0 x1 x2 x3 x4 x5 x6 s
  | .vimax x0 x1 x2 x3 x4 x5 x6 => Sys2Proof.Machine.execVimax x0 x1 x2 x3 x4 x5 x6 s
  | .vcmp x0 x1 x2 x3 x4 x5 x6 => Sys2Proof.Machine.execVcmp x0 x1 x2 x3 x4 x5 x6 s
  | .vsel x0 x1 x2 x3 x4 x5 x6 => Sys2Proof.Machine.execVsel x0 x1 x2 x3 x4 x5 x6 s
  | .vmlog x0 x1 x2 x3 x4 x5 => Sys2Proof.Machine.execVmlog x0 x1 x2 x3 x4 x5 s
  | .vcvt x0 x1 x2 x3 x4 x5 => Sys2Proof.Machine.execVcvt x0 x1 x2 x3 x4 x5 s
  | .vqnt x0 x1 x2 x3 x4 x5 x6 x7 => Sys2Proof.Machine.execVqnt x0 x1 x2 x3 x4 x5 x6 x7 s
  | .vdqnt x0 x1 x2 x3 x4 x5 x6 => Sys2Proof.Machine.execVdqnt x0 x1 x2 x3 x4 x5 x6 s
  | .vhad x0 x1 x2 x3 x4 x5 x6 => Sys2Proof.Machine.execVhad x0 x1 x2 x3 x4 x5 x6 s
  | .vrotr x0 x1 x2 x3 x4 => Sys2Proof.Machine.execVrotr x0 x1 x2 x3 x4 s
  | .vrotc x0 x1 x2 x3 x4 => Sys2Proof.Machine.execVrotc x0 x1 x2 x3 x4 s
  | .vbcr x0 x1 x2 x3 x4 => Sys2Proof.Machine.execVbcr x0 x1 x2 x3 x4 s
  | .vbcc x0 x1 x2 x3 x4 => Sys2Proof.Machine.execVbcc x0 x1 x2 x3 x4 s
  | .vredr x0 x1 x2 x3 x4 => Sys2Proof.Machine.execVredr x0 x1 x2 x3 x4 s
  | .vredc x0 x1 x2 x3 x4 => Sys2Proof.Machine.execVredc x0 x1 x2 x3 x4 s
  | .vmov x0 x1 x2 x3 x4 x5 => Sys2Proof.Machine.execVmov x0 x1 x2 x3 x4 x5 s
  | .vldi x0 x1 x2 x3 => Sys2Proof.Machine.execVldi x0 x1 x2 x3 s
  | .viota x0 x1 x2 x3 => Sys2Proof.Machine.execViota x0 x1 x2 x3 s
  | .vloopb x0 x1 x2 x3 x4 => Sys2Proof.Machine.execVloopb x0 x1 x2 x3 x4 s
  | .vloope x0 x1 => Sys2Proof.Machine.execVloope x0 x1 s
  | .vexit x0 x1 x2 => Sys2Proof.Machine.execVexit x0 x1 x2 s
  | .vflag x0 x1 => Sys2Proof.Machine.execVflag x0 x1 s
  | .ldring x0 x1 x2 x3 x4 x5 x6 => Sys2Proof.Machine.execLdring x0 x1 x2 x3 x4 x5 x6 s
  | .ldq x0 x1 x2 x3 x4 x5 x6 x7 => Sys2Proof.Machine.execLdq x0 x1 x2 x3 x4 x5 x6 x7 s
  | .stq x0 x1 x2 x3 x4 x5 x6 x7 => Sys2Proof.Machine.execStq x0 x1 x2 x3 x4 x5 x6 x7 s
  | .string x0 x1 x2 x3 x4 x5 x6 x7 x8 => Sys2Proof.Machine.execString x0 x1 x2 x3 x4 x5 x6 x7 x8 s
  | .supd x0 x1 x2 x3 x4 x5 x6 x7 => Sys2Proof.Machine.execSupd x0 x1 x2 x3 x4 x5 x6 x7 s
  | .sqnt x0 x1 x2 x3 x4 x5 x6 x7 x8 => Sys2Proof.Machine.execSqnt x0 x1 x2 x3 x4 x5 x6 x7 x8 s
  | .driverWriteEffect x0 => Sys2Proof.Machine.execDriverWriteEffect x0 s
  | .guardCompare x0 x1 => Sys2Proof.Machine.execGuardCompare x0 x1 s
  | .engineStart x0 => Sys2Proof.Machine.execEngineStart x0 s
  | .ringSlotRelease x0 x1 => Sys2Proof.Machine.execRingSlotRelease x0 x1 s
  | .matrixUnitVisible x0 x1 => Sys2Proof.Machine.execMatrixUnitVisible x0 x1 s
  | .tileWriteVisible x0 => Sys2Proof.Machine.execTileWriteVisible x0 s
  | .vectorWriteVisible x0 => Sys2Proof.Machine.execVectorWriteVisible x0 s
  | .mdrainEntryPush x0 x1 x2 => Sys2Proof.Machine.execMdrainEntryPush x0 x1 x2 s
  | .mdrainSlotPush x0 => Sys2Proof.Machine.execMdrainSlotPush x0 s
  | .mdrainComplete x0 => Sys2Proof.Machine.execMdrainComplete x0 s
  | .beatRead x0 x1 x2 => Sys2Proof.Machine.execBeatRead x0 x1 x2 s
  | .beatWrite x0 x1 x2 => Sys2Proof.Machine.execBeatWrite x0 x1 x2 s
  | .ldringSlotPush x0 => Sys2Proof.Machine.execLdringSlotPush x0 s
  | .ldqEntryPush x0 => Sys2Proof.Machine.execLdqEntryPush x0 s
  | .ldsResultWrite x0 x1 x2 => Sys2Proof.Machine.execLdsResultWrite x0 x1 x2 s
  | .stsPerform x0 x1 x2 => Sys2Proof.Machine.execStsPerform x0 x1 x2 s
  | .descriptorGroupRead x0 x1 x2 x3 => Sys2Proof.Machine.execDescriptorGroupRead x0 x1 x2 x3 s
  | .ldgPerform x0 => Sys2Proof.Machine.execLdgPerform x0 s
  | .amoPerform x0 => Sys2Proof.Machine.execAmoPerform x0 s
  | .loadResultWrite x0 x1 => Sys2Proof.Machine.execLoadResultWrite x0 x1 s
  | .interruptTaken x0 => Sys2Proof.Machine.execInterruptTaken x0 s
  | .copyUnitRead x0 => Sys2Proof.Machine.execCopyUnitRead x0 s
  | .copyUnitWrite x0 => Sys2Proof.Machine.execCopyUnitWrite x0 s
  | .warmupEnd x0 => Sys2Proof.Machine.execWarmupEnd x0 s
  | .boostExpiry x0 => Sys2Proof.Machine.execBoostExpiry x0 s
  | .leasedCommandStart x0 => Sys2Proof.Machine.execLeasedCommandStart x0 s
  | .leasedCommandComplete x0 => Sys2Proof.Machine.execLeasedCommandComplete x0 s
  | .rowResultPerform x0 x1 => Sys2Proof.Machine.execRowResultPerform x0 x1 s
  | .windowOverrun x0 x1 x2 => Sys2Proof.Machine.execWindowOverrun x0 x1 x2 s
  | .selfTest x0 x1 x2 => Sys2Proof.Machine.execSelfTest x0 x1 x2 s
  | .graphkickSubmit x0 => Sys2Proof.Machine.execGraphkickSubmit x0 s
  | .graphkickRelease x0 => Sys2Proof.Machine.execGraphkickRelease x0 s
  | .graphkickCancel x0 => Sys2Proof.Machine.execGraphkickCancel x0 s
  | .messagePost x0 => Sys2Proof.Machine.execMessagePost x0 s
  | .dramAct x0 x1 => Sys2Proof.Machine.execDramAct x0 x1 s
  | .dramPre x0 => Sys2Proof.Machine.execDramPre x0 s
  | .dramRefpb x0 => Sys2Proof.Machine.execDramRefpb x0 s
  | .dramWin x0 x1 => Sys2Proof.Machine.execDramWin x0 x1 s
  | .windowSlot x0 x1 => Sys2Proof.Machine.execWindowSlot x0 x1 s
  | .fabricJoin x0 x1 x2 => Sys2Proof.Machine.execFabricJoin x0 x1 x2 s
  | .ptpAnnounce x0 => Sys2Proof.Machine.execPtpAnnounce x0 s
  | .ptpSync x0 => Sys2Proof.Machine.execPtpSync x0 s
  | .ptpDelayResp x0 => Sys2Proof.Machine.execPtpDelayResp x0 s
  | .offsetMeasurement x0 => Sys2Proof.Machine.execOffsetMeasurement x0 s
  | .fabricSlot x0 x1 => Sys2Proof.Machine.execFabricSlot x0 x1 s
  | .contributionFlit x0 x1 x2 => Sys2Proof.Machine.execContributionFlit x0 x1 x2 s
  | .reducedResultFlit x0 x1 x2 => Sys2Proof.Machine.execReducedResultFlit x0 x1 x2 s
  | .gatheredDataFlit x0 x1 x2 => Sys2Proof.Machine.execGatheredDataFlit x0 x1 x2 s
  | .flagWordFlit x0 x1 x2 => Sys2Proof.Machine.execFlagWordFlit x0 x1 x2 s
  | .holdNotice x0 => Sys2Proof.Machine.execHoldNotice x0 s
  | .stopNotice x0 => Sys2Proof.Machine.execStopNotice x0 s
  | .walkerMessage x0 x1 x2 => Sys2Proof.Machine.execWalkerMessage x0 x1 x2 s
  | .collectiveReduction x0 => Sys2Proof.Machine.execCollectiveReduction x0 s
  | .hostMemoryRead x0 x1 => Sys2Proof.Machine.execHostMemoryRead x0 x1 s
  | .hostMemoryWrite x0 x1 => Sys2Proof.Machine.execHostMemoryWrite x0 x1 s
  | .gbaseWrite x0 => Sys2Proof.Machine.execGbaseWrite x0 s
  | .registerWrite x0 x1 => Sys2Proof.Machine.execRegisterWrite x0 x1 s
  | .attnonceWrite x0 x1 => Sys2Proof.Machine.execAttnonceWrite x0 x1 s
  | .attaddrWrite x0 => Sys2Proof.Machine.execAttaddrWrite x0 s
  | .pqctlReq x0 => Sys2Proof.Machine.execPqctlReq x0 s
  | .pclkWrite x0 => Sys2Proof.Machine.execPclkWrite x0 s
  | .prailWrite x0 => Sys2Proof.Machine.execPrailWrite x0 s
  | .pretbWrite x0 => Sys2Proof.Machine.execPretbWrite x0 s
  | .pgrantWrite x0 => Sys2Proof.Machine.execPgrantWrite x0 s
  | .sbslewWrite x0 x1 => Sys2Proof.Machine.execSbslewWrite x0 x1 s
  | .sbcapWrite x0 => Sys2Proof.Machine.execSbcapWrite x0 s
  | .imageVerification x0 => Sys2Proof.Machine.execImageVerification x0 s
  | .hbmTraining x0 => Sys2Proof.Machine.execHbmTraining x0 s
  | .powerOnSelfTest x0 => Sys2Proof.Machine.execPowerOnSelfTest x0 s
  | .illegalInstruction x0 => Sys2Proof.Machine.execIllegalInstruction x0 s
  | .illegalMicroOrder x0 => Sys2Proof.Machine.execIllegalMicroOrder x0 s
  | .ret => Sys2Proof.Machine.execRet s
  | .mark => Sys2Proof.Machine.execMark s
  | .point => Sys2Proof.Machine.execPoint s
  | .depart => Sys2Proof.Machine.execDepart s
  | .exit => Sys2Proof.Machine.execExit s
  | .nop => Sys2Proof.Machine.execNop s
  | .eret => Sys2Proof.Machine.execEret s
  | .halt => Sys2Proof.Machine.execHalt s
  | .wfi => Sys2Proof.Machine.execWfi s
  | .stationClockTick => Sys2Proof.Machine.execStationClockTick s
  | .combinerFire => Sys2Proof.Machine.execCombinerFire s
  | .bankClaimGrant => Sys2Proof.Machine.execBankClaimGrant s
  | .storeArrival => Sys2Proof.Machine.execStoreArrival s
  | .fenceComplete => Sys2Proof.Machine.execFenceComplete s
  | .xfenceComplete => Sys2Proof.Machine.execXfenceComplete s
  | .waitsExpiry => Sys2Proof.Machine.execWaitsExpiry s
  | .wfiWake => Sys2Proof.Machine.execWfiWake s
  | .hostTierCopyWrite => Sys2Proof.Machine.execHostTierCopyWrite s
  | .xpinComplete => Sys2Proof.Machine.execXpinComplete s
  | .tlbinvComplete => Sys2Proof.Machine.execTlbinvComplete s
  | .leaseGrant => Sys2Proof.Machine.execLeaseGrant s
  | .leaseWaitExpiry => Sys2Proof.Machine.execLeaseWaitExpiry s
  | .thermalTrip => Sys2Proof.Machine.execThermalTrip s
  | .powerAlarm => Sys2Proof.Machine.execPowerAlarm s
  | .grantBoundary => Sys2Proof.Machine.execGrantBoundary s
  | .slewWindowCheck => Sys2Proof.Machine.execSlewWindowCheck s
  | .balancerWindow => Sys2Proof.Machine.execBalancerWindow s
  | .stopPulse => Sys2Proof.Machine.execStopPulse s
  | .completionRecordWrite => Sys2Proof.Machine.execCompletionRecordWrite s
  | .holdBegin => Sys2Proof.Machine.execHoldBegin s
  | .holdEnd => Sys2Proof.Machine.execHoldEnd s
  | .placementAttempt => Sys2Proof.Machine.execPlacementAttempt s
  | .loadComplete => Sys2Proof.Machine.execLoadComplete s
  | .localDeparture => Sys2Proof.Machine.execLocalDeparture s
  | .contextSave => Sys2Proof.Machine.execContextSave s
  | .contextSaveComplete => Sys2Proof.Machine.execContextSaveComplete s
  | .contextRestoreComplete => Sys2Proof.Machine.execContextRestoreComplete s
  | .dramPrea => Sys2Proof.Machine.execDramPrea s
  | .dramRefab => Sys2Proof.Machine.execDramRefab s
  | .missingWindowTimeout => Sys2Proof.Machine.execMissingWindowTimeout s
  | .refreshDebtTick => Sys2Proof.Machine.execRefreshDebtTick s
  | .sequencerRefresh => Sys2Proof.Machine.execSequencerRefresh s
  | .openIntervalCheck => Sys2Proof.Machine.execOpenIntervalCheck s
  | .openWindowRequest => Sys2Proof.Machine.execOpenWindowRequest s
  | .ptpDelayReq => Sys2Proof.Machine.execPtpDelayReq s
  | .ptpFollowUp => Sys2Proof.Machine.execPtpFollowUp s
  | .idleFlit => Sys2Proof.Machine.execIdleFlit s
  | .reservedFlitDrop => Sys2Proof.Machine.execReservedFlitDrop s
  | .collectiveFinalWrite => Sys2Proof.Machine.execCollectiveFinalWrite s
  | .bucketSendTimeout => Sys2Proof.Machine.execBucketSendTimeout s
  | .attestationGo => Sys2Proof.Machine.execAttestationGo s
  | .attctlErrClear => Sys2Proof.Machine.execAttctlErrClear s
  | .attestationReportWrite => Sys2Proof.Machine.execAttestationReportWrite s
  | .pqctlRsave => Sys2Proof.Machine.execPqctlRsave s
  | .pqctlRrest => Sys2Proof.Machine.execPqctlRrest s
  | .prstatWakeClear => Sys2Proof.Machine.execPrstatWakeClear s
  | .prstatSeqerrClear => Sys2Proof.Machine.execPrstatSeqerrClear s
  | .pwake => Sys2Proof.Machine.execPwake s
  | .quiesceAck => Sys2Proof.Machine.execQuiesceAck s
  | .railOffComplete => Sys2Proof.Machine.execRailOffComplete s
  | .railOnComplete => Sys2Proof.Machine.execRailOnComplete s
  | .retentionSaveComplete => Sys2Proof.Machine.execRetentionSaveComplete s
  | .retentionRestoreComplete => Sys2Proof.Machine.execRetentionRestoreComplete s
  | .deviceReset => Sys2Proof.Machine.execDeviceReset s
  | .lossOfLock => Sys2Proof.Machine.execLossOfLock s

end Sys2Proof.Machine
end

