-- ==== Sys2Proof/Machine/Step.lean ====
section
/-! DEFINITION. One step: an input that has come, a step that is due, the issue of one instruction, or the
tick of the Station Clock. -/

namespace Sys2Proof.Machine

/-- The input that has come, if one has. -/
def State.arrival (s : State) : Option Input :=
  match s.inputs with
  | a :: _ => if a.cycle ≤ s.clock then some a.input else none
  | [] => none

/-- The step due first in this cycle, if there is one. -/
def State.dueNow (s : State) : Option Due :=
  match s.agenda with
  | d :: _ => if d.cycle ≤ s.clock then some d else none
  | [] => none

/-- The state without the first step of the agenda, its subject selected. -/
def State.dropDue (s : State) (who : Nat) : State := { s with agenda := s.agenda.drop 1, cur := who }

/-- The device reset that the outside gives next, with what it does after it. -/
def nextReset : List Arrival → Option (Arrival × List Arrival)
  | [] => none
  | a :: r =>
    match a.input with
    | .event _ .deviceReset => some (a, r)
    | _ => nextReset r

/-- A device that has stopped waits for a device reset, and takes nothing that comes before it (R331). -/
def State.stopped (s : State) : Host.Outcome State Fault Refusal :=
  match nextReset s.inputs with
  | some (a, r) => exec .deviceReset { s with inputs := r, clock := max s.clock a.cycle }
  | none => .fault .bootFailed

/-- One step. A device in boot phase 15 has stopped, and only a device reset brings it back (R331). -/
def step (s : State) : Host.Outcome State Fault Refusal :=
  if s.host.phase = 15 then s.stopped
  else match s.arrival with
  | some (.event who i) => exec i { s.dropInput with cur := who }
  | some _ => .next s.takeInput
  | none =>
    match s.dueNow, s.nextStream with
    | some d, st =>
      if d.rank < rankIssue then exec d.instr (s.dropDue d.who)
      else match st with
        | some (c, st) => exec (s.fetched c st) (s.select c st)
        | none => exec d.instr (s.dropDue d.who)
    | none, some (c, st) => exec (s.fetched c st) (s.select c st)
    | none, none => exec .stationClockTick s

/-- The state with an instruction laid where the next step fetches it: core 0 runs a bare timetable in timed
mode and the word stands at its driver's PC, or at the step counter of the first engine that has the word as
an order, which runs and is due (log 9). -/
def State.withFetchWord (s : State) (_nbits w : Nat) : State :=
  let word := BitVec.ofNat 32 w
  let st := streamOf word
  let k := s.core 0
  let k := { k with place := { k.place with node := some 0, frozenUntil := 0, stopAt := none } }
  let k := match st with
    | .driver => k.modDrv (fun d => { d with
        code := d.code.writeLE d.pc.toNat 4 word.toNat, ready := 0, hold := none, owedG := [], owedX := [] })
    | .engine e =>
      let k := k.modDrv (fun d => { d with hold := some .exited })
      let stop := fun (g : Engine) => { g with status := .stopped }
      let k := (((k.modEng .load stop).modEng .matrix stop).modEng .vector stop).modEng .store stop
      k.modEng e (fun g => { g with
        status := .running, first := true, base := 0, busy := 0, bad := [],
        table := g.table.set (g.step.toNat + (if g.bank then 1024 else 0)) word })
  { s with host := { s.host with phase := 5 }, agenda := [], inputs := [], cores := [(0, k)],
           nodes := s.nodes.put 0 Node.bare }

end Sys2Proof.Machine
end

