-- ==== Sys2Proof/Safety.lean ====
section
/-! DEFINITION. What counts as a safe run, and the terms in which claims about a step are stated: what an instruction
leaves alone, and where it leaves the driver or an engine. -/

namespace Sys2Proof

/-- A step answers a next state. -/
def stepOk (s : Machine.State) : Prop := ∃ t, Machine.step s = .next t

/-- `n` steps from a state all answer next states. -/
def safeFor : Nat → Machine.State → Prop
  | 0, _ => True
  | n + 1, s => ∃ t, Machine.step s = .next t ∧ safeFor n t

namespace Machine

/-- Nothing outside core `c` differs: every other core, memory, the dies, the graph, the host, the fabric, the agenda. -/
def OnlyCore (s t : State) (c : Nat) : Prop :=
  t = { s with cores := t.cores } ∧ ∀ e, e ≠ c → t.core e = s.core e

/-- Nothing outside core `c` differs but the steps that are due. -/
def OnlyCoreAndAgenda (s t : State) (c : Nat) : Prop :=
  t = { s with cores := t.cores, agenda := t.agenda } ∧ ∀ e, e ≠ c → t.core e = s.core e

/-- Of the meaning's core only the driver and this cycle's event counts differ. -/
def OnlyDriver (s t : State) : Prop :=
  OnlyCore s t s.cur ∧ t.me = { s.me with drv := t.me.drv, charge := t.me.charge }

/-- The driver has issued an instruction: it goes on at `pc` after `cost` cycles, its other bookkeeping as before, its
registers not spoken of. -/
def Issued (d e : Driver) (pc : Half) (ready : Nat) : Prop :=
  e = { d with g := e.g, p := e.p, x := e.x, wroteG := e.wroteG, wroteX := e.wroteX, pc := pc, ready := ready,
               entered := false }

/-- The registers of a driver after a g result: g0 still reads zero, every other g, p and x register as before. -/
def GResult (d e : Driver) (r : BitVec 5) (v : DWord) : Prop :=
  e.readG r = (if r = 0 then 0 else v) ∧ (∀ q, q ≠ r → e.readG q = d.readG q) ∧ e.p = d.p ∧ e.x = d.x

/-- A driver instruction answers a next state that differs in a g register, the PC and the issue bookkeeping alone. -/
def AnswersG (i : Instr) (s : State) (cost : Nat) (r : BitVec 5) (v : DWord) : Prop :=
  ∃ t, exec i s = .next t ∧ OnlyDriver s t ∧ Issued s.me.drv t.me.drv (s.me.drv.pc + 4) (s.tt + cost) ∧
    GResult s.me.drv t.me.drv r v

/-- The same for a predicate result: p0 stays true, every other register as before. -/
def PResult (d e : Driver) (r : BitVec 3) (v : Bool) : Prop :=
  e.readP r = (r = 0 || v) ∧ (∀ q, q ≠ r → e.readP q = d.readP q) ∧ e.g = d.g ∧ e.x = d.x ∧ e.wroteG = d.wroteG

def AnswersP (i : Instr) (s : State) (r : BitVec 3) (v : Bool) : Prop :=
  ∃ t, exec i s = .next t ∧ OnlyDriver s t ∧ Issued s.me.drv t.me.drv (s.me.drv.pc + 4) (s.tt + 1) ∧
    PResult s.me.drv t.me.drv r v

/-- A driver instruction answers a next state in which the driver goes on at `pc` after `cost` cycles, with no register
changed but, where one is named, a g register. -/
def AnswersGoto (i : Instr) (s : State) (cost : Nat) (pc : Half) (r : BitVec 5) (v : DWord) : Prop :=
  ∃ t, exec i s = .next t ∧ OnlyDriver s t ∧ Issued s.me.drv t.me.drv pc (s.tt + cost) ∧ GResult s.me.drv t.me.drv r v

/-! ### What the integer instructions give (Tables 5.2 and 4.2, R84 to R89) -/

/-- The two-operand instructions: constructor, issue cost, value. -/
def aluTable : List ((BitVec 5 → BitVec 5 → BitVec 5 → Instr) × Nat × (DWord → DWord → DWord)) :=
  [(.add, 1, fun x y => x + y), (.sub, 1, fun x y => x - y), (.and, 1, fun x y => x &&& y),
   (.or, 1, fun x y => x ||| y), (.xor, 1, fun x y => x ^^^ y), (.andn, 1, fun x y => x &&& ~~~y),
   (.shl, 1, fun x y => x <<< (y &&& 63)), (.shr, 1, fun x y => x >>> (y &&& 63)),
   (.sra, 1, fun x y => x.sshiftRight' (y &&& 63)),
   (.mul, 3, fun x y => (x.setWidth 128 * y.setWidth 128).extractLsb' 0 64),
   (.mulh, 3, fun x y => (x.signExtend 128 * y.signExtend 128).extractLsb' 64 64),
   (.mulhu, 3, fun x y => (x.setWidth 128 * y.setWidth 128).extractLsb' 64 64),
   (.min, 1, fun x y => if x.toInt ≤ y.toInt then x else y), (.max, 1, fun x y => if x.toInt ≤ y.toInt then y else x),
   (.minu, 1, fun x y => if x.toNat ≤ y.toNat then x else y),
   (.maxu, 1, fun x y => if x.toNat ≤ y.toNat then y else x)]

/-- Number of leading zero bits: the first one, from the top, that is set. -/
def leadingZeros (x : DWord) : Nat := ((List.range 64).find? (fun n => x.getLsbD (63 - n))).getD 64

/-- Number of one bits. -/
def oneBits (x : DWord) : Nat := ((List.range 64).filter (fun n => x.getLsbD n)).length

/-- The instructions with a 16-bit immediate. -/
def immediateTable : List ((BitVec 5 → BitVec 5 → BitVec 16 → Instr) × (DWord → BitVec 16 → DWord)) :=
  [(.addi, fun x i => x + i.signExtend 64), (.andi, fun x i => x &&& i.setWidth 64),
   (.ori, fun x i => x ||| i.setWidth 64), (.xori, fun x i => x ^^^ i.setWidth 64)]

/-- The shifts by an immediate. -/
def shiftTable : List ((BitVec 5 → BitVec 5 → BitVec 6 → Instr) × (DWord → BitVec 6 → DWord)) :=
  [(.shli, fun x n => x <<< n), (.shri, fun x n => x >>> n), (.srai, fun x n => x.sshiftRight' n)]

/-- The conditions: eq, ne, lt and ge of signed values, ltu and geu of the same patterns as unsigned ones. -/
def condTable : List (BitVec 3 × (DWord → DWord → Bool)) :=
  [(0, fun x y => x.toInt = y.toInt), (1, fun x y => x.toInt ≠ y.toInt), (2, fun x y => x.toInt < y.toInt),
   (3, fun x y => y.toInt ≤ x.toInt), (4, fun x y => x.toNat < y.toNat), (5, fun x y => y.toNat ≤ x.toNat)]

/-- The operators of PLOG: and, or, xor, and not. -/
def plogTable : List (BitVec 2 × (Bool → Bool → Bool)) :=
  [(0, fun a b => a && b), (1, fun a b => a || b), (2, fun a b => a ^^ b), (3, fun a b => a && !b)]

/-- Halfword `h` of a double. -/
def halfAt (x : DWord) (h : Nat) : Half := x.extractLsb' (16 * h) 16

/-- The PC at a distance in words, within 64 KiB (R90). -/
def pcPlus (pc : Half) (words : Int) : Half := BitVec.ofInt 16 ((pc.toNat : Int) + 4 * words)

/-- A legal jump target: bits [1:0] and [63:16] are zero (R64, R90). -/
def LegalTarget (v : DWord) : Prop := v.toNat % 4 = 0 ∧ v.toNat < 65536

/-! ### Exceptions (R9, R131, R268 to R274) -/

/-- The driver of a timetable core that traps: free mode, user level, a system vector set. -/
def TrapsToVector (s : State) : Prop :=
  isBox s.cur = false ∧ s.me.timed = false ∧ s.me.priv = false ∧ s.me.csr.tvec ≠ 0xFFFFFFFF

/-- The meaning's core has entered its handler: CAUSE, EPC and the detail registers written, PRIV and IE saved, system
level with interrupts off, the PC at TVEC; no general register, no memory and no other core differs. -/
def Trapped (s t : State) (cause epc info va : DWord) : Prop :=
  OnlyCore s t s.cur ∧ t.me = { s.me with drv := t.me.drv, csr := t.me.csr, charge := t.me.charge } ∧
  t.me.csr = { s.me.csr with status := t.me.csr.status, cause := cause, epc := epc, faultInfo := info,
                             faultCyc := BitVec.ofNat 64 s.clock, faultVa := va } ∧
  t.me.timed = s.me.timed ∧ t.me.priv = true ∧ t.me.ie = false ∧ t.me.ppriv = s.me.priv ∧ t.me.pie = s.me.ie ∧
  t.me.csr.status >>> 5 = 0 ∧
  t.me.drv.pc = (s.me.csr.tvec.setWidth 16 &&& 0xFFFC) ∧ t.me.drv.hold = none ∧
  t.me.drv.g = s.me.drv.g ∧ t.me.drv.p = s.me.drv.p ∧ t.me.drv.x = s.me.drv.x

/-- The meaning's core has stopped and its timetable, if it has one, ends with a verdict and a cause. -/
def Stopped (s t : State) (cause : BitVec 8) (verdict : Nat) : Prop :=
  (∃ k, t.me.place.stopAt = some k ∧ k ≤ s.clock) ∧
  t.me.csr.cause = cause.setWidth 64 ∧ t.me.csr.faultCyc = BitVec.ofNat 64 s.clock ∧
  t.me.drv.g = s.me.drv.g ∧ t.me.drv.p = s.me.drv.p ∧ t.me.drv.x = s.me.drv.x ∧ t.mem = s.mem ∧
  ∀ n nd, s.me.place.node = some n → s.nodes.find n = some nd →
    ∃ md, t.nodes.find n = some md ∧ md.verdict = max nd.verdict verdict ∧ md.stopping.isSome ∧
      (nd.report = none → ∃ r, md.report = some r ∧ r.cause = cause ∧ r.cyc = s.clock)

/-! ### Steps that a step makes due, and what a driver write sends (R15, R108, R275) -/

/-- A step due `n` cycles on for a core, moved by the holds of its timetable. -/
def dueFor (s : State) (c n rank : Nat) (i : Instr) : Due := ⟨s.clock + n, rank, (s.core c).place.node, c, i⟩

/-- The guard's copy of what the meaning's core sends out next is equal to it (R275). -/
def GuardAgrees (s : State) : Prop := s.guardBad.contains s.cur = false

/-- The steps due are those before and `d`. -/
def Adds (s t : State) (d : Due) : Prop := t.agenda = insertDue d s.agenda

/-- The driver has issued an instruction of cost `cost` and goes on at the next word; no register changed. -/
def GoesOn (s t : State) (cost : Nat) : Prop :=
  t.me.drv = { s.me.drv with pc := s.me.drv.pc + 4, ready := s.tt + cost, entered := false }

/-- An instruction sends one write out: the guard compares it 4 cycles on, engine work sees it 8 cycles on, whatever else
happens in that cycle; of the core only the queues named, the PC and the issue bookkeeping differ. -/
def Sends (i : Instr) (s : State) (w : DriverWrite) (q : Queues) : Prop :=
  ∃ t, exec i s = .next t ∧ OnlyCoreAndAgenda s t s.cur ∧
    t.me = { s.me with drv := t.me.drv, q := q, charge := t.me.charge } ∧ GoesOn s t 1 ∧
    t.agenda = insertDue (dueFor s s.cur 8 rankUnit (.driverWriteEffect w))
      (insertDue (dueFor s s.cur 4 rankVisible (.guardCompare s.me.drv.pc s.major)) s.agenda)

/-- The guard's copy of what an instruction sends differs: the instruction issues, the compare that will find it stands
4 cycles on, and none of its writes is made (R275). -/
def Withholds (i : Instr) (s : State) (cost : Nat) : Prop :=
  ∃ t, exec i s = .next t ∧
    t = { s with cores := t.cores, agenda := t.agenda, guardBad := s.guardBad.erase s.cur } ∧
    (∀ e, e ≠ s.cur → t.core e = s.core e) ∧ t.me = { s.me with drv := t.me.drv, charge := t.me.charge } ∧
    t.me.drv = { s.me.drv with pc := s.me.drv.pc + 4, ready := s.tt + cost, entered := false,
                               mismatch := (s.me.drv.pc, s.tt + 4) :: s.me.drv.mismatch } ∧
    Adds s t (dueFor s s.cur 4 rankVisible (.guardCompare s.me.drv.pc s.major))

/-- An engine changed as `g` says; the other engines and everything else of the core as before. -/
def OnlyEngine (s t : State) (e : Eng) (g : Engine) : Prop :=
  OnlyCore s t s.cur ∧ t.me = { s.me with eng := t.me.eng } ∧ t.me.engine e = g ∧
    ∀ f, f ≠ e → t.me.engine f = s.me.engine f

/-- What a bank claim adds to a core's scratchpad: it waits behind the others, asking from `n` cycles on. -/
def Claims (s t : State) (c n rank addr : Nat) (banks : Byte × Byte) (act : Act) : Prop :=
  (t.core c).pad = { (s.core c).pad with claims :=
    (s.core c).pad.claims ++ [⟨s.ttOf c + n, rank, addr / 0x10000, banks.1, banks.2, act⟩] }

/-- A grant of the arbiter stands in the agenda for a cycle. -/
def GrantDue (t : State) (c cycle : Nat) : Prop :=
  ∃ d ∈ t.agenda, d.cycle = cycle ∧ d.rank = rankClaim ∧ d.who = c ∧ d.instr = .bankClaimGrant

/-- The claim of group `g` of a read of `words` words. -/
def groupClaim (tt words addr : Nat) (act : Nat → Nat → Nat → Act) (g : Nat) : Claim :=
  ⟨tt + (1 + g), 9, (addr + 32 * g) / 0x10000, (banksOf (addr + 32 * g) (4 * min 8 (words - 8 * g))).1,
    (banksOf (addr + 32 * g) (4 * min 8 (words - 8 * g))).2, act g (addr + 32 * g) (min 8 (words - 8 * g))⟩

/-- A driver instruction of cost `cost` has issued whose claims `l` of the scratchpad wait; `d` is what the driver is
then, and nothing else differs but events charged and the steps due. -/
def Claimed (s t : State) (d : Driver) (l : List Claim) : Prop :=
  OnlyCoreAndAgenda s t s.cur ∧
    t.me = { s.me with drv := d, pad := { s.me.pad with claims := s.me.pad.claims ++ l }, charge := t.me.charge } ∧
    ∀ q ∈ l, GrantDue t s.cur (s.clock + (q.asked - s.tt))

/-- An instruction of cost `cost` has issued that reads a descriptor of `words` words at `addr`: the claims of its
groups wait, one group a cycle; the driver owes the registers `owed` and in free mode is held until the read is done. -/
def ReadsDescriptor (i : Instr) (s : State) (cost addr words : Nat) (owed : List Nat) : Prop :=
  ∃ t, exec i s = .next t ∧ t = { s with cores := t.cores, agenda := t.agenda, fresh := s.fresh + 1 } ∧
    (∀ e, e ≠ s.cur → t.core e = s.core e) ∧
    t.me = { s.me with
      drv := { s.me.drv with
        pc := s.me.drv.pc + 4, ready := s.tt + cost, entered := false, owedG := owed ++ s.me.drv.owedG,
        hold := if s.me.timed then s.me.drv.hold else some (.descriptor s.fresh) }
      ops := t.me.ops
      pad := { s.me.pad with
        claims := s.me.pad.claims ++ (List.range ((words + 7) / 8)).map
          (groupClaim s.tt words addr (fun g a n => .descriptor s.fresh g a n)) }
      charge := t.me.charge } ∧
    (∀ g, g < (words + 7) / 8 → GrantDue t s.cur (s.clock + (1 + g))) ∧
    ∃ o, t.me.ops.find s.fresh = some o ∧ o.id = s.fresh ∧ o.instr = i ∧ o.addr = addr ∧ o.need = (words + 7) / 8 ∧
      o.got = 0 ∧ o.issue = s.tt ∧ o.pc = s.me.drv.pc ∧ o.void = false

/-- An access of the meaning's core that is to perform, its translation read, and whose order lets it do so now: within its
queue, past a MARK, behind the access released before it from a replay queue, and, of an AMO, with no write of its bytes in this
cycle. -/
def Waits (s : State) (a : Access) : Prop :=
  s.me.acc.find? (fun b => b.id = a.id) = some a ∧ a.replay = false ∧ a.queued = false ∧ a.performed = false ∧
    a.walk = []
def InTurn (s : State) (a : Access) : Prop :=
  mayPerform (s.me.acc.takeWhile (fun b => b.id ≠ a.id)) a s.me.drv s.clock = true ∧ s.heldBehind a = false ∧
    s.amoClash a = false
def Performs (s : State) (a : Access) : Prop := Waits s a ∧ InTurn s a

/-- The depot of an address serves an untimed access in this cycle: it has a free cycle, and nothing that came before still
waits (R198). -/
def DepotServes (s : State) (a : Access) : Prop :=
  ((s.depotQueue (memDie a.pa)).head? = none ∨ (s.depotQueue (memDie a.pa)).head? = some (s.cur, a.id)) ∧
    s.depotFree (memDie a.pa) = true

/-- No access that has left a replay queue waits behind this one. -/
def NothingBehind (s : State) (a : Access) : Prop := ∀ c, ∀ b ∈ (s.core c).acc, b.behind ≠ some (s.cur, a.id)

/-- A step stands in the agenda `n` cycles on where the figures of Table 13.1 hold, at some later cycle where the spec gives
none. -/
def DueFixed (t : State) (fixed : Bool) (now n who : Nat) (i : Instr) : Prop :=
  ∃ k, 0 < k ∧ (fixed = true → k = n) ∧ ∃ d ∈ t.agenda, d.cycle = now + k ∧ d.who = who ∧ d.instr = i

/-- The stores before an access in its queue that have not performed and that meet its bytes. -/
def storesMet (s : State) (a : Access) : List Access :=
  (s.me.acc.takeWhile (fun b => b.id ≠ a.id)).filter
    (fun b => b.kind = .store && !b.performed && meets a.pa a.size b.pa b.size)

/-- The registers of a core that a CSR address names: its value in the S view, and in the U view where there is one
(Table 1.9, R26). -/
def csrTable : List (BitVec 12 × (Core → DWord) × (Core → Option DWord)) :=
  let both := fun (f : Core → DWord) => (f, fun (k : Core) => some (f k))
  let hidden := fun (f : Core → DWord) => (f, fun (_ : Core) => (none : Option DWord))
  [(0x000, (fun k => k.csr.status), fun k => some (k.csr.status &&& 3)),
   (0x001, both (·.csr.cause)), (0x002, both (·.csr.epc)),
   (0x003, (fun k => k.csr.faultInfo), fun k => some
     (if k.csr.faultInfo.getLsbD 53 then k.csr.faultInfo &&& 0xFFF0000000000000 else k.csr.faultInfo)),
   (0x004, both (·.csr.faultCyc)), (0x005, both (·.csr.faultVa)), (0x006, hidden (·.csr.sscratch)),
   (0x007, hidden (·.csr.tvec)), (0x010, both (·.csr.ctxid)), (0x011, hidden (·.csr.pgroot)),
   (0x020, both (·.csr.coreix)), (0x021, both (·.csr.region)), (0x022, both (·.csr.depart)),
   (0x030, (fun k => k.csr.plevel), fun k => some (k.csr.plevel &&& 7)), (0x031, both (·.csr.variant)),
   (0x032, both (·.csr.pointstat)), (0x034, both (·.csr.slewstep)), (0x040, both (·.csr.mstat)),
   (0x050, both (·.csr.rngseed)), (0x060, both (·.csr.energy)), (0x061, both (·.csr.ectl)),
   (0x062, both (·.csr.eres)), (0x063, both (·.csr.estatic)), (0x070, both (·.csr.holdcnt)),
   (0x071, both (·.csr.cecnt))]

/-- The bits that a system-level write changes in each of them on a timetable core; those not listed, none (R26). -/
def csrWriteMask : List (BitVec 12 × DWord) :=
  [(0x000, 0x1C), (0x001, 0x80000000000000FF), (0x002, 0xFFFFFFFFFFFFFFFF), (0x003, 0xFFEFFFFFFFFFFFFF),
   (0x004, 0xFFFFFFFFFFFFFFFF), (0x005, 0xFFFFFFFFFFFFFFFF), (0x006, 0xFFFFFFFFFFFFFFFF),
   (0x007, 0xFFFFFFFFFFFFFFFF), (0x010, 0x1FFF), (0x011, 0), (0x020, 0), (0x021, 0), (0x022, 0), (0x030, 0),
   (0x031, 0), (0x032, 0xF), (0x034, 0x7F), (0x040, 0xFFFFFC07), (0x050, 0xFFFFFFFFFFFFFFFF),
   (0x060, 0x8000FFFFFFFFFFFF), (0x061, 0x1FF01), (0x062, 0xFFFFFFFFFFFF), (0x063, 0xFFFF),
   (0x070, 0xFFFFFFFFFFFFFFFF), (0x071, 0xFFFFFFFFFFFFFFFF)]

/-- The instructions that write a CSR, and the value each computes from the old one (R132). -/
def csrOps : List ((BitVec 5 → BitVec 12 → Instr) × (DWord → DWord → DWord)) :=
  [(.csrwr, fun _ g => g), (.csrset, fun old g => old ||| g), (.csrclr, fun old g => old &&& ~~~g)]

/-! ### Micro-orders (R55, R56, R154 to R156) -/

/-- The order of engine `e` may issue: its functional unit is free, if it uses one, and the tokens that it pops are
there; `q` are the queues without them. -/
def MayIssue (s : State) (e : Eng) (unit : Bool) (k : Nat) (q : Queues) : Prop :=
  s.curEng = e ∧ (unit = true → (s.me.engine e).busy ≤ s.tt) ∧ s.me.q.popTokens s.tt (kFifos e k) = .ok q

/-- The engine has gone on past the word at its step counter; its unit is busy for `occ` cycles, if it uses one. -/
def GoneOn (s t : State) (e : Eng) (occ : Option Nat) : Prop :=
  t.me.engine e = { ((s.me.engine e).goOn s.tt 1 (s.me.engine e).step.toNat) with
    busy := match occ with
      | some n => s.tt + n
      | none => (s.me.engine e).busy } ∧ ∀ f, f ≠ e → t.me.engine f = s.me.engine f

/-- What a vector order reads: a register under the present rotation, or the head of an inbound queue, which is taken
unless it is only looked at (R21, R154). -/
def readSource (v : VectorStore) (q : Queues) (r : Nat) (peek : Bool) : Option (VOperand × Queues) :=
  if r < 24 then some (v.operand (physReg v.rrb r), q)
  else match vecGet q.vq [] (r - 24) with
    | [] => none
    | e :: rest => some (entryOperand e, if peek then q else { q with vq := vecMod q.vq (r - 24) (fun _ => rest) })

/-- Several sources, one after another. -/
def readSources (v : VectorStore) : Queues → List (BitVec 5 × Bool) → Option (List VOperand × Queues)
  | q, [] => some ([], q)
  | q, (r, p) :: l =>
    match readSource v q r.toNat p with
    | none => none
    | some (x, q) => (readSources v q l).map (fun y => (x :: y.1, y.2))

/-- Where a destination specifier points (R21): a register, or an outbound queue, which keeps the order's site. -/
def destOf (s : State) (d : BitVec 5) : VDest :=
  if d.toNat < 24 then .reg (physReg s.me.vec.rrb d.toNat) else .queue (d.toNat - 24) (s.me.engine .vector).site

/-- A vector order has issued whose results `w` become visible `lat` cycles on, VNF after them if it is set; nothing
else of the core differs but what was popped, the engine and events charged. -/
def VectorIssued (s t : State) (q : Queues) (occ lat : Nat) (w : VResult) (vnf : Bool) : Prop :=
  OnlyCoreAndAgenda s t s.cur ∧ GoneOn s t .vector (some occ) ∧
  t.me = { s.me with q := q, eng := t.me.eng, charge := t.me.charge,
                     vec := { s.me.vec with owed := max s.me.vec.owed (s.tt + lat) } } ∧
  let a := insertDue (dueFor s s.cur lat rankVisible (.vectorWriteVisible w)) s.agenda
  t.agenda = if vnf then insertDue (dueFor s s.cur lat rankVnf (.vectorWriteVisible ⟨.flag, [], [], true⟩)) a else a

/-- An order that computes element by element from sources that hold no poison: `f` gives each element's word and
whether it sets VNF. It gives what the elements of its predicate are, or nothing where the predicate suppresses it. -/
def VectorComputes (i : Instr) (s : State) (occ lat : Nat) (k : BitVec 1) (p : BitVec 3) (d : BitVec 5)
    (srcs : List (BitVec 5 × Bool)) (f : List VOperand → Nat → Word × Bool) : Prop :=
  ∀ q0, MayIssue s .vector true k.toNat q0 →
    (s.me.vec.active p.toNat = none → ∃ t, exec i s = .next t ∧ OnlyCore s t s.cur ∧
      GoneOn s t .vector (some occ) ∧ t.me = { s.me with q := q0, eng := t.me.eng, charge := t.me.charge }) ∧
    ∀ es xs q, s.me.vec.active p.toNat = some es → readSources s.me.vec q0 srcs = some (xs, q) →
      (∀ x ∈ xs, ∀ e, x.isBad e = false) → ∃ t, exec i s = .next t ∧
        VectorIssued s t q occ lat ⟨destOf s d, es.map (fun e => (e, (f xs e).1)), [], false⟩ (es.any (fun e => (f xs e).2))

/-- Element `e` of source `n`. -/
def elemOf (xs : List VOperand) (n e : Nat) : Word := (xs.getD n ⟨#[], []⟩).at_ e

/-- A floating-point result: VNF where it is not finite although every input is. -/
def floatResult (ins : List Word) (w : Word) : Word × Bool := (w, ins.all f32finite && !f32finite w)

abbrev VectorOrder2 := BitVec 4 → BitVec 1 → BitVec 5 → BitVec 5 → BitVec 5 → BitVec 3 → BitVec 2 → Instr

/-- Floating-point orders of two operands, and of two operands and the old destination (Table 8.2). -/
def floatTable : List (VectorOrder2 × (Word → Word → Word)) :=
  [(.vadd, fadd), (.vsub, fsub), (.vmul, fmul), (.vmulz, mulZ), (.vmin, fmin), (.vmax, fmax)]
def fusedTable : List (VectorOrder2 × (Word → Word → Word → Word)) := [(.vfma, ffma), (.vfms, ffms)]

/-- The special functions (Table 2.8). -/
def specialTable : List ((BitVec 4 → BitVec 1 → BitVec 5 → BitVec 5 → BitVec 3 → BitVec 1 → Instr) × (Word → Word)) :=
  [(.vexp2, fexp2), (.vlog2, flog2), (.vrcp, frcp), (.vrsq, frsq), (.vtanh, ftanh)]

/-- Integer orders with an exact result that wraps or is clamped, and those that only wrap (Table 8.3). -/
def exactTable : List (VectorOrder2 × (Word → Word → Int)) :=
  [(.viadd, fun x y => x.toInt + y.toInt), (.visub, fun x y => x.toInt - y.toInt),
   (.vimul, fun x y => x.toInt * y.toInt), (.vshl, fun x y => x.toInt * 2 ^ (y.toNat % 32))]
def wordTable : List (VectorOrder2 × (Word → Word → Word)) :=
  [(.vand, fun x y => x &&& y), (.vor, fun x y => x ||| y), (.vxor, fun x y => x ^^^ y),
   (.vshr, fun x y => x >>> (y.toNat % 32)), (.vsra, fun x y => x.sshiftRight (y.toNat % 32)),
   (.vimin, fun x y => if x.toInt < y.toInt then x else y), (.vimax, fun x y => if x.toInt < y.toInt then y else x)]

/-! ### Matrix orders (R17, R134 to R153) -/

/-- A matrix order has issued: the engine is busy for `occ` cycles, tiles, slots and scratchpad bytes are as before,
and the queues are `q`. -/
def MatrixIssued (s t : State) (q : Queues) (occ : Nat) : Prop :=
  t.cur = s.cur ∧ t.mem = s.mem ∧ (∀ c, c ≠ s.cur → t.core c = s.core c) ∧ (t.me.engine .matrix).busy = s.tt + occ ∧
    (t.me.engine .matrix).step = ((s.me.engine .matrix).goOn s.tt 1 (s.me.engine .matrix).step.toNat).step ∧
    (∀ f, f ≠ .matrix → t.me.engine f = s.me.engine f) ∧ t.me.q = q ∧ t.me.mx.acc = s.me.mx.acc ∧
    t.me.mx.slots = s.me.mx.slots ∧ t.me.pad.mem = s.me.pad.mem ∧ t.me.vec = s.me.vec ∧ t.me.drv = s.me.drv

/-- The head slot of a ring holds what a feed of a format may take: it is FULL, with the sequence number expected, the
format in its tag word, room for the tile, and no poison (R17, R138, R196). -/
def SlotReady (s : State) (ring code grp : Nat) : Prop :=
  let r := s.me.getRing ring
  let w := r.tags.get r.head.toNat
  r.full r.head.toNat = true ∧ w.setWidth 16 = r.seqOut ∧ r.bad.get r.head.toNat = 0 ∧ bits w 19 16 = code ∧
    tileSize code grp ≤ r.slot.toNat * 256

/-- The rotation tag of the head slot of a ring. -/
def headTag (s : State) (ring : Nat) : Tag := tagOfWord ((s.me.getRing ring).tags.get (s.me.getRing ring).head.toNat)

/-- A read of a ring's head slot: the head moves on and the sequence number counts, nothing else of any ring. -/
def SlotTaken (s t : State) (ring : Nat) : Prop :=
  let r := s.me.getRing ring
  t.me.getRing ring = { r with head := r.after r.head, seqOut := r.seqOut + 1 } ∧
    ∀ m, m ≠ ring → t.me.getRing m = s.me.getRing m

/-- The units of a product: each is added to the tile in its own cycle; the first half of a group of 128 at the end. -/
def UnitsDue (s t : State) (job : Nat) (wb : Word) (v : Slot) (occ u : Nat) : Prop :=
  if u = 0 ∧ productGrp wb v = 2 then dueFor s s.cur (occ + 12) rankVisible (.matrixUnitVisible job 0) ∈ t.agenda
  else ∀ i, i < 64 / unitSize wb v u →
    dueFor s s.cur (12 + (i + 1) * unitSize wb v u * occ / 64) rankVisible (.matrixUnitVisible job i) ∈ t.agenda

/-- A tile's cells after a write: `f row column` in the tile, every other cell as before. -/
def TileHolds (s t : State) (tile : Nat) (f : Nat → Nat → Word) : Prop :=
  (∀ i j, i < 64 → j < 64 → t.me.mx.acc.get (4096 * tile + 64 * i + j) = f i j) ∧
    ∀ c, c < 4096 * tile ∨ 4096 * tile + 4096 ≤ c → t.me.mx.acc.get c = s.me.mx.acc.get c

/-! ### Load and store orders, beats (R173 to R185) -/

/-- Address that generator `g` of an engine gives. -/
def walkOf (s : State) (e : Eng) (g : BitVec 3) : Int := agenAddr (s.me.engine e).ag[g.toNat]

/-- The claim of a beat that meets its block `n` cycles on. -/
def beatClaim (tt n rank addr len : Nat) (act : Act) : Claim :=
  ⟨tt + n, rank, addr / 0x10000, 0xFF, if (addr + len - 1) / 0x10000 = addr / 0x10000 then 0 else 0xFF, act⟩

/-- The claim of a row that leaves S7 `n` cycles on for an address. -/
def storeClaim (tt : Nat) (ac : Bool) (n addr : Nat) (p : Payload) (done : BeatDone) : Claim :=
  beatClaim tt (n + toBlock ac 7 (addr / 0x10000)) 7 addr p.bytes.length (.write addr p done)

/-- A moving order has issued: its unit is busy for 4 cycles, generator `g` has advanced, the lanes named are held, the
claims `l` wait, the queues are `q` and the SR counter is `sr`; no register, tile or byte differs. -/
def Moves (s t : State) (e : Eng) (q : Queues) (sr : Word) (g : BitVec 3) (lanes : List (Nat × Nat × Nat))
    (l : List Claim) : Prop :=
  (∀ c, c ≠ s.cur → t.core c = s.core c) ∧ t.mem = s.mem ∧
  t.me.engine e = { ((s.me.engine e).goOn s.tt 1 (s.me.engine e).step.toNat) with
    busy := s.tt + 4, sr := sr, ag := vecMod (s.me.engine e).ag g.toNat agenNext } ∧
  (∀ f, f ≠ e → t.me.engine f = s.me.engine f) ∧ t.me.q = q ∧ t.me.pad.mem = s.me.pad.mem ∧ t.me.drv = s.me.drv ∧
  t.me.mx = s.me.mx ∧ t.me.vec = s.me.vec ∧ t.me.csr = s.me.csr ∧ t.me.pad.claims = s.me.pad.claims ++ l ∧
  (∀ h ∈ s.me.pad.lanes, s.tt < h.until_ → h ∈ t.me.pad.lanes) ∧
  (∀ x ∈ lanes, (⟨x.1, e, x.2.1, x.2.2⟩ : LaneHold) ∈ t.me.pad.lanes) ∧
  ∀ x ∈ l, GrantDue t s.cur (s.clock + (x.asked - s.tt))

/-- A ring may take `n` more beats into its tail slot (R178): where the slot begins, its template stands below its base,
names a format whose tile the slot can hold, and holds no poison; the slot is not full and has room. -/
def MayFill (s : State) (ring n : Nat) : Prop :=
  let r := s.me.getRing ring
  let w := s.me.pad.word (r.base.toNat - 32)
  (r.fill = 0 → 32 ≤ r.base.toNat ∧ bits w 19 16 ≤ 8 ∧ smallestTile (bits w 19 16) ≤ r.slot.toNat * 256 ∧
    s.me.pad.poison (r.base.toNat - 32) 4 = []) ∧ r.full r.tail.toNat = false ∧ r.fill + n ≤ r.slot.toNat

/-- The ring has taken them for the order that issues: the template of a slot that begins is read; no other ring
differs. -/
def Filled (s t : State) (ring n : Nat) : Prop :=
  let r := s.me.getRing ring
  let w := s.me.pad.word (r.base.toNat - 32)
  t.me.getRing ring = { r with
    fill := r.fill + n, writes := r.writes + n, filler := s.curEng, site := (s.me.engine s.curEng).site,
    template := if r.fill = 0 then w &&& 0x07FF0000#32 else r.template,
    templateBad := if r.fill = 0 then false else r.templateBad } ∧
  ∀ m, m ≠ ring → t.me.getRing m = s.me.getRing m

/-- A slot of a ring is pushed: FULL, the sequence number and the tag; the tail moves on. -/
def Pushes (s t : State) (ring : Nat) (tag : Word) : Prop :=
  let r := s.me.getRing ring
  (t.me.getRing ring).full r.tail.toNat = true ∧
    (t.me.getRing ring).tags.get r.tail.toNat = tag ||| 0x08000000#32 ||| r.seqIn.setWidth 32 ∧
    (t.me.getRing ring).tail = r.after r.tail ∧ (t.me.getRing ring).seqIn = r.seqIn + 1 ∧
    ∀ m, m ≠ ring → t.me.getRing m = s.me.getRing m

/-! ### Timetables: what a fault or a step does to a node -/

/-- Node `n` of a state is as said. -/
def NodeIs (t : State) (n : Nat) (p : Node → Prop) : Prop := ∃ md, t.nodes.find n = some md ∧ p md

/-- A fault that stops a node has been entered: the stop is on its way, and where no fault came before, this one is
reported (R273, R274). -/
def NodeStops (s t : State) (n : Nat) (cause : BitVec 8) : Prop :=
  ∀ nd, s.nodes.find n = some nd → NodeIs t n (fun md => md.stopping.isSome ∧ 3 ≤ md.verdict ∧
    (nd.report = none → ∃ r, md.report = some r ∧ r.cause = cause ∧ r.cyc = s.clock))

/-- A core that no timetable holds any more: it issues nothing, and its storage stays as its timetable has left it. -/
def Freed (k l : Core) : Prop :=
  l.place = { Place.reset with stopAt := some 0 } ∧ l.drv.hold = some .stopped ∧ l.drv.g = k.drv.g ∧ l.pad.mem = k.pad.mem ∧
    l.mx = k.mx ∧ l.vec = k.vec ∧ l.q = k.q ∧ l.csr = k.csr

/-! ### Pairs (R263, R324 to R327) -/

/-- A step changes the pair that it acts for to `q`; no other pair, no other register of a die and nothing else differs
but the steps due, `l` among them. -/
def PairStep (i : Instr) (s : State) (q : Pair) (l : List Due) : Prop :=
  ∃ t, exec i s = .next t ∧ t = { s with dies := t.dies, agenda := t.agenda } ∧
    (∀ d : Fin 8, t.dies[d] = { s.dies[d] with pair := t.dies[d].pair }) ∧ t.getPair s.cur = q ∧
    (∀ r, r ≠ s.cur → t.getPair r = s.getPair r) ∧ t.agenda = l.foldl (fun a d => insertDue d a) s.agenda

/-! ### DRAM (Table 11.7) -/

/-- At least `n` cycles since an event, if it has happened. -/
def Since (e : Option Nat) (n now : Nat) : Prop := ∀ t, e = some t → t + n ≤ now

/-- The rules of ACT: tRP, tRC, tRRD, tFAW, tRFC, tRFCpb. -/
def ActKept (q : PseudoChannel) (b now : Nat) : Prop :=
  Since (q.bank b).pre 20 now ∧ Since (q.bank b).act 66 now ∧
    (∀ a ∈ q.acts, a.1 + (if a.2 / 4 = b / 4 then 5 else 3) ≤ now) ∧ (∀ a, q.acts[3]? = some a → a.1 + 24 ≤ now) ∧
    Since q.refab 490 now ∧ Since (q.bank b).refpb 224 now

/-- The rules of PRE: tRAS, tWR, tRTP. -/
def PreKept (q : PseudoChannel) (b now : Nat) : Prop :=
  Since (q.bank b).act 46 now ∧ Since (q.bank b).write 22 now ∧ Since (q.bank b).read 6 now

/-- A pseudo-channel that the step acts for becomes `q`, but for its timeline; the others and memory are as before. -/
def OnlyPc (s t : State) (q : PseudoChannel) : Prop :=
  t.mem = s.mem ∧ t.cores = s.cores ∧ t.nodes = s.nodes ∧ (∀ p, p ≠ s.cur → t.pcs.find p = s.pcs.find p) ∧
    ∃ r, t.pcs.find s.cur = some r ∧ r = { q with line := r.line }

/-! ### Copies (R198 to R202) -/

/-- The bytes of the pieces of a unit written into a scratchpad, 32 bytes each; a row of a gather or scatter leaves a piece
that a later row has written (R117). -/
def piecesInto (k : Copy) (u : Nat) (data : List Byte) (m : Memory) : Memory :=
  (((k.unit u).zipIdx).filter (fun x => k.form = 0 || k.written.all (fun v => decide (v ≤ u) ||
    (k.unit v).all (fun q => k.dstOff q ≠ k.dstOff x.1)))).foldl (fun (m : Memory) q => Cells.setRange m (k.dstOff q.1).toNat ((data.drop (32 * q.2)).take 32)) m

/-! ### Row engine (R127) -/

/-- The claim of a row line that S8 asks for `n` cycles on. -/
def rowClaim (tt n addr words : Nat) (act : Act) : Claim :=
  ⟨tt + n, 8, addr / 0x10000, 0xFF, if addr / 0x10000 = (addr + 4 * words - 1) / 0x10000 then 0 else 0xFF, act⟩

/-- Lines of a row of `len` words: number, address, words. -/
def rowLines (addr len : Nat) : List (Nat × Nat × Nat) :=
  (List.range ((len + 63) / 64)).map (fun i => (i, addr + 256 * i, min 64 (len - 64 * i)))

/-- A row of a command has been read without poison. -/
def RowClean (r : RowCmd) (row : Nat) : Prop :=
  (∀ i, i < r.len → r.bad.get (16384 * row + i) = 0) ∧ r.bad.get (2 ^ 26 + row) = 0

/-- A command of a timeline, or of the sequencer itself, has issued: of a timeline, the next entry falls due. -/
def EntryDone (s t : State) : Prop :=
  let q := s.getPc s.cur
  if s.ownCommand s.cur then (t.getPc s.cur).line = q.line ∧ t.agenda = s.agenda
  else (t.getPc s.cur).line = q.line.drop 1 ∧ t.agenda = match q.line.drop 1 with
    | [] => s.agenda
    | e :: _ => insertDue ⟨q.base + entryCyc e, rankVisible, q.owner, s.cur, entryStep e⟩ s.agenda

/-- A DRAM command keeps the rules: the pseudo-channel becomes `q` and its timeline goes on. A broken rule is a DRAM fault
of the timetable that owns it (R204). -/
def DramCommand (i : Instr) (s : State) (kept : Prop) (q : PseudoChannel) : Prop :=
  (kept → ∃ t, exec i s = .next t ∧ OnlyPc s t q ∧ EntryDone s t) ∧
    (¬ kept → ∀ n, (s.getPc s.cur).owner = some n → ∃ t, exec i s = .next t ∧ t.mem = s.mem ∧ NodeStops s t n 0x2B)

/-! ### Collectives (R312 to R314) -/

/-- The header of a flit names a bucket, and its KIND is the one that performs. -/
def FlitFor (k : Bucket) (kind : Nat) (f : Flit) : Prop :=
  f.zero = 0 ∧ f.kind.toNat = kind ∧ k.group = f.group.toNat ∧ k.bseq = f.bseq.toNat

/-- The result of a bucket with the own chunks of an all-gather, read from their sources. -/
def ownChunks (s : State) (k : Bucket) : Cells 8 :=
  if k.kind ≠ 2 then k.result
  else (k.members.zipIdx.filter (fun p => p.1.core.isSome)).foldl (fun (l : Cells 8) p =>
    l.setRange (k.lo p.2) (s.memberBytes k p.2 (k.lo p.2) (k.hi p.2 - k.lo p.2)).bytes) k.result

/-- Memory after a final write: own chunks and flag word of every participant of this package, in rank order. -/
def finalMemory (s : State) (k : Bucket) : Memory :=
  ((k.members.zipIdx).foldl (fun (t : State) p =>
    if p.1.core.isNone then t
    else
      let n := k.hi p.2 - k.lo p.2
      let own : Payload := ⟨k.result.getRange (k.lo p.2) n, badWords k.resultBad (k.lo p.2) n⟩
      let t := if n = 0 then t else t.bringTo k p.2 (k.lo p.2) own
      match p.1.fspan with
      | some sp => t.spanWrite sp p.1.foff ⟨leBytes 4 k.flagWord, if k.flagBad then [0] else []⟩
      | none => t) s).mem

/-! ### The control aperture (Table 20.5) -/

/-- The offsets that take a write, the PWAKE window from 0x1000 on aside. -/
def apertureOffsets : List (BitVec 16) :=
  [0x08, 0x10, 0x18, 0x28, 0x30, 0x38, 0x50, 0x58, 0x60, 0x80, 0x88, 0x90, 0x98, 0xA0, 0xA8]

/-- What a write at an offset does to the host's registers and to nothing else. -/
def apertureWrites : List (BitVec 16 × (HostRegs → DWord → HostRegs)) :=
  [(0x30, fun h v => { h with miaddr := v &&& 0x7FFFFFFFFFFFF }), (0x38, fun h v => { h with midata := v.setWidth 32 }),
   (0x50, fun h v => { h with roottab := v &&& 0xFFFFFFFFF0000 }),
   (0x58, fun h v => { h with svbase := v &&& 0xFFFFFFFFF0000 }), (0x60, fun h v => { h with svsize := v.setWidth 32 })]

/-- The steps that a write at an offset makes due in this cycle, with their subject. -/
def apertureSteps (v : DWord) : List (BitVec 16 × Nat × Instr) :=
  (if v.extractLsb' 30 2 = 0#2 then [(0x08, 0, .graphkickSubmit (v.setWidth 24))] else []) ++
  (if v.extractLsb' 30 2 = 1#2 then [(0x08, 0, .graphkickRelease (v.setWidth 24))] else []) ++
  (if v.extractLsb' 30 2 = 2#2 then [(0x08, 0, .graphkickCancel (v.setWidth 24))] else []) ++
  [(0x10, 0, .gbaseWrite v), (0x80, 0, .attnonceWrite 0 v), (0x88, 0, .attnonceWrite 1 v), (0x90, 0, .attnonceWrite 2 v),
   (0x98, 0, .attnonceWrite 3 v), (0xA0, 0, .attaddrWrite v)] ++
  (if v.getLsbD 0 then [(0xA8, 0, .attestationGo)] else []) ++
  (if v.getLsbD 2 then [(0xA8, 0, .attctlErrClear)] else [])

end Machine

end Sys2Proof
end

