-- ==== Sys2Proof/Certificates/Slice0/Obligations.lean ====
section
/-! DEFINITION. The statements for the provers. -/

section

open Sys2Proof Sys2Proof.Machine

/-! ### The control core: integer, predicate and branch instructions (05) -/

/-- R84: every integer instruction gives the result of Table 5.2 in either mode, on every state and operand; nothing else
changes but the PC and the issue cycle, so that it raises no fault and sets no flag. -/
def Obligations.AluResults : Prop :=
  (∀ p ∈ aluTable, ∀ (d a b : BitVec 5) (s : State), AnswersG (p.1 d a b) s p.2.1 d (p.2.2 (s.readG a) (s.readG b))) ∧
  (∀ (d a : BitVec 5) (s : State),
    AnswersG (.clz d a) s 1 d (BitVec.ofNat 64 (leadingZeros (s.readG a))) ∧
    AnswersG (.popc d a) s 1 d (BitVec.ofNat 64 (oneBits (s.readG a)))) ∧
  ∀ (d a : BitVec 5) (s : State) (e : BitVec 5) (w : Nat), (e, w) ∈ [((0 : BitVec 5), 8), (1, 16), (2, 32)] →
    AnswersG (.sext d a e) s 1 d (((s.readG a).extractLsb' 0 w).signExtend 64) ∧
    AnswersG (.zext d a e) s 1 d (((s.readG a).extractLsb' 0 w).setWidth 64)

/-- R85, R86: the instructions with an immediate; LIH leaves the low halfword zero, MOVK replaces one halfword and leaves
the other three. -/
def Obligations.ImmediateResults : Prop :=
  (∀ p ∈ immediateTable, ∀ (d a : BitVec 5) (i : BitVec 16) (s : State), AnswersG (p.1 d a i) s 1 d (p.2 (s.readG a) i)) ∧
  (∀ p ∈ shiftTable, ∀ (d a : BitVec 5) (n : BitVec 6) (s : State), AnswersG (p.1 d a n) s 1 d (p.2 (s.readG a) n)) ∧
  (∀ (d : BitVec 5) (i : BitVec 16) (s : State), AnswersG (.lih d i) s 1 d (i.signExtend 48 ++ (0 : BitVec 16))) ∧
  ∀ (d : BitVec 5) (h : BitVec 2) (i : BitVec 16) (s : State), ∃ v, AnswersG (.movk d h i) s 1 d v ∧
    halfAt v h.toNat = i ∧ ∀ j, j < 4 → j ≠ h.toNat → halfAt v j = halfAt (s.readG d) j

/-- R87, R88, R89: compares, predicate logic and select; a write to p0 is discarded. -/
def Obligations.PredicateResults : Prop :=
  (∀ c ∈ condTable, ∀ (p : BitVec 3) (a b : BitVec 5) (s : State),
    AnswersP (.cmp p c.1 a b) s p (c.2 (s.readG a) (s.readG b))) ∧
  (∀ c ∈ condTable, ∀ (p : BitVec 3) (a : BitVec 5) (i : BitVec 15) (s : State),
    AnswersP (.cmpi p c.1 a i) s p (c.2 (s.readG a) (i.signExtend 64))) ∧
  (∀ l ∈ plogTable, ∀ (d a b : BitVec 3) (s : State),
    AnswersP (.plog d a b l.1 0) s d (l.2 (s.me.drv.readP a) (s.me.drv.readP b)) ∧
    AnswersP (.plog d a b l.1 1) s d (l.2 (!s.me.drv.readP a) (s.me.drv.readP b))) ∧
  ∀ (d a b : BitVec 5) (p : BitVec 3) (s : State),
    AnswersG (.sel d a b p) s 1 d (if s.me.drv.readP p then s.readG a else s.readG b)

/-- R90: branches and jumps go where the rule says, a taken one in two cycles; DBNZ with g0 always branches. -/
def Obligations.BranchResults : Prop :=
  (∀ (p : BitVec 3) (n : BitVec 1) (o : BitVec 22) (s : State),
    ((s.me.drv.readP p = true ↔ n = 0) → AnswersGoto (.br p n o) s 2 (pcPlus s.me.drv.pc o.toInt) 0 0) ∧
    ((s.me.drv.readP p = true ↔ n = 1) → AnswersGoto (.br p n o) s 1 (s.me.drv.pc + 4) 0 0)) ∧
  (∀ (o : BitVec 22) (s : State),
    AnswersGoto (.call o) s 2 (pcPlus s.me.drv.pc o.toInt) 31 (s.me.drv.pc.setWidth 64 + 4)) ∧
  (∀ (d : BitVec 5) (i : BitVec 16) (s : State),
    (s.readG d ≠ 1 → AnswersGoto (.dbnz d i) s 2 (pcPlus s.me.drv.pc i.toInt) d (s.readG d - 1)) ∧
    (s.readG d = 1 → AnswersGoto (.dbnz d i) s 1 (s.me.drv.pc + 4) d 0)) ∧
  ∀ (a : BitVec 5) (s : State),
    (LegalTarget (s.readG a) → AnswersGoto (.jr a) s 2 ((s.readG a).setWidth 16) 0 0 ∧
      AnswersGoto (.jalr a) s 2 ((s.readG a).setWidth 16) 31 (s.me.drv.pc.setWidth 64 + 4)) ∧
    (LegalTarget (s.readG 31) → AnswersGoto .ret s 2 ((s.readG 31).setWidth 16) 0 0)

/-- R9, R131, R64, R90: in free mode at user level TRAP, an illegal word and a jump to a bad target enter the handler; the
jump is not taken and g31 keeps its value. R131, R268, R269: where a core that runs a timetable does not trap, it
stops: in timed mode with the fault's own cause, at system level with a double fault. -/
def Obligations.Exceptions : Prop :=
  (∀ s : State, TrapsToVector s →
     (∀ n : BitVec 5, ∃ t, exec (.trap n) s = .next t ∧
       Trapped s t 0x0E (s.me.drv.pc.setWidth 64) (n.setWidth 64) 0) ∧
     (∀ w : Word, ∃ t, exec (.illegalInstruction w) s = .next t ∧
       Trapped s t 0x01 (s.me.drv.pc.setWidth 64) (s.me.drv.pc.setWidth 64) 0) ∧
     (∀ a : BitVec 5, ¬ LegalTarget (s.readG a) → ∀ i ∈ [Instr.jr a, .jalr a], ∃ t, exec i s = .next t ∧
       Trapped s t 0x04 (s.me.drv.pc.setWidth 64) (s.me.drv.pc.setWidth 64) 0) ∧
     (¬ LegalTarget (s.readG 31) → ∃ t, exec .ret s = .next t ∧
       Trapped s t 0x04 (s.me.drv.pc.setWidth 64) (s.me.drv.pc.setWidth 64) 0)) ∧
  (∀ s : State, isBox s.cur = false →
     (∀ n : BitVec 5,
       (s.me.timed = true → ∃ t, exec (.trap n) s = .next t ∧ Stopped s t 0x0E 3) ∧
       (s.me.timed = false → s.me.priv = true → ∃ t, exec (.trap n) s = .next t ∧ Stopped s t 0x11 3)) ∧
     (∀ w : Word,
       (s.me.timed = true → ∃ t, exec (.illegalInstruction w) s = .next t ∧ Stopped s t 0x01 3) ∧
       (s.me.timed = false → s.me.priv = true → ∃ t, exec (.illegalInstruction w) s = .next t ∧ Stopped s t 0x11 3)))

/-- R9, R131: ERET at system level restores the saved level and interrupt enable, clears their copies and goes on at EPC two
cycles later, and a trap that has waited is taken there (R97); at user level it is a privilege fault. R131, R270: HALT at system
level ends a timetable with verdict LOST and cause 0x66; on a signal box it halts the box and the host is told; at user level it
is a privilege fault. -/
def Obligations.ReturnAndHalt : Prop :=
  (∀ s : State,
     (s.me.priv = true → s.me.drv.late = [] → ∃ t, exec .eret s = .next t ∧ OnlyCore s t s.cur ∧
       t.me = { s.me with drv := t.me.drv, csr := t.me.csr, charge := t.me.charge } ∧
       t.me.csr = { s.me.csr with status := t.me.csr.status } ∧ t.me.timed = s.me.timed ∧ t.me.priv = s.me.ppriv ∧
       t.me.ie = s.me.pie ∧ t.me.ppriv = false ∧ t.me.pie = false ∧
       t.me.drv = { s.me.drv with pc := s.me.csr.epc.setWidth 16 &&& 0xFFFC, ready := s.tt + 2, entered := false }) ∧
     (∀ l, s.me.priv = true → s.me.drv.late = [l] → isBox s.cur = true → ∃ t, exec .eret s = .next t ∧
       t.me.csr.cause = (if l.lease then 0x10 else 0x0D) ∧
       t.me.csr.epc = (s.me.csr.epc.setWidth 16 &&& 0xFFFC).setWidth 64 ∧
       t.me.csr.faultVa = (if l.lease then 0 else l.va) ∧ t.me.ppriv = s.me.ppriv ∧ t.me.priv = true ∧ t.me.drv.late = []) ∧
     (TrapsToVector s → ∃ t, exec .eret s = .next t ∧
       Trapped s t 0x03 (s.me.drv.pc.setWidth 64) (s.me.drv.pc.setWidth 64) 0)) ∧
  (∀ s : State,
     (s.me.priv = true → isBox s.cur = false → ∃ t, exec .halt s = .next t ∧ Stopped s t 0x66 4) ∧
     (s.me.priv = true → isBox s.cur = true → ∃ t, exec .halt s = .next t ∧ t.me.drv.hold = some .halted ∧
       ⟨s.clock, rankWalker, none, 0,
         .messagePost ⟨6, 0, 0, BitVec.ofNat 64 (coreDie s.cur % 256 + 256 * 0x66)⟩⟩ ∈ t.agenda) ∧
     (TrapsToVector s → ∃ t, exec .halt s = .next t ∧
       Trapped s t 0x03 (s.me.drv.pc.setWidth 64) (s.me.drv.pc.setWidth 64) 0))

/-! ### Index registers, clock, modes (05, 06) -/

/-- R102 to R105, R131: XIMOV takes the low word; XIRD extends with zeros; STCR reads the Station Clock; DEPR adds to the
departure cycle; NOP does nothing; MARK enters the driver's queues, if anything is in them. -/
def Obligations.IndexAndClock : Prop :=
  ∀ s : State,
    (∀ a e : BitVec 5, ∃ t, exec (.ximov a e) s = .next t ∧ OnlyDriver s t ∧
      Issued s.me.drv t.me.drv (s.me.drv.pc + 4) (s.tt + 1) ∧ t.me.drv.g = s.me.drv.g ∧ t.me.drv.p = s.me.drv.p ∧
      t.me.drv.readX e = (s.readG a).setWidth 32 ∧ ∀ q, q ≠ e → t.me.drv.readX q = s.me.drv.readX q) ∧
    (∀ b e : BitVec 5, AnswersG (.xird b e) s 1 b ((s.me.drv.readX e).setWidth 64)) ∧
    (∀ e : BitVec 5, AnswersG (.stcr e) s 1 e (BitVec.ofNat 64 s.clock)) ∧
    (∀ a e : BitVec 5, AnswersG (.depr a e) s 1 e (s.me.csr.depart + s.readG a)) ∧
    AnswersGoto .nop s 1 (s.me.drv.pc + 4) 0 0 ∧
    ∃ t, exec .mark s = .next t ∧ t = { s with cores := t.cores, fresh := s.fresh + 1 } ∧
      (∀ e, e ≠ s.cur → t.core e = s.core e) ∧ GoesOn s t 1 ∧
      t.me = { s.me with drv := t.me.drv, acc := t.me.acc, charge := t.me.charge } ∧
      if s.me.acc = [] then t.me.acc = []
      else ∃ m : Access, m.id = s.fresh ∧ m.kind = .mark ∧ m.performed = false ∧ t.me.acc = s.me.acc ++ [m]

/-- R105: a WAITS whose cycle has passed costs one cycle; another holds the driver and a step ends the wait at the cycle
named, after which the next instruction issues. R106: in timed mode every untimed instruction raises its fault and has
no other effect. -/
def Obligations.WaitsAndUntimed : Prop :=
  (∀ s : State,
     (s.me.timed = false → ∀ a : BitVec 5,
       ((s.readG a).toNat ≤ s.clock + 1 → AnswersGoto (.waits a) s 1 (s.me.drv.pc + 4) 0 0) ∧
       (s.clock + 1 < (s.readG a).toNat → ∃ t, exec (.waits a) s = .next t ∧ OnlyCoreAndAgenda s t s.cur ∧
         t.me = { s.me with drv := t.me.drv, charge := t.me.charge } ∧
         t.me.drv = { s.me.drv with pc := s.me.drv.pc + 4, ready := s.tt + 1, entered := false,
                                    hold := some (.waits (s.readG a)) } ∧
         Adds s t ⟨(s.readG a).toNat, rankVisible, none, s.cur, .waitsExpiry⟩)) ∧
     ∀ v : DWord, s.me.drv.hold = some (.waits v) → v.toNat ≤ s.clock → s.me.drv.late = [] →
       ∃ t, exec .waitsExpiry s = .next t ∧
       OnlyCore s t s.cur ∧ t.me = { s.me with drv := { s.me.drv with hold := none, ready := s.tt } }) ∧
  (∀ s : State, isBox s.cur = false → s.me.timed = true →
     ∀ (d a b c e : BitVec 5) (z : BitVec 2) (o : BitVec 14) (p : BitVec 3) (q w x : BitVec 1),
       ∀ i ∈ [Instr.waits a, .ldg d a z o, .stg d a z o, .amo d a b p q e, .fence e, .xfence e, .wfi, .tlbinv a b,
              .xpin a b c w x, .xunpin c x, .lease a, .release a, .lquery a e, .depart],
         ∃ t, exec i s = .next t ∧ Stopped s t 0x02 3)

/-- R131, R243, R327: a signal box in WFI waits for an interrupt and goes on in the next cycle when one is pending; on a
timetable core WFI goes on at once unless the core hands over to a save; a wake ends the wait. R9, R269: an enabled
interrupt enters the handler of a signal box: CAUSE with bit 63 set and the code, EPC the instruction not yet issued,
or the WAITS that was waiting. That the alarm and the self-test are taken off when their interrupt is taken is the model's
choice (DEDUCED, log 11). -/
def Obligations.Interrupts : Prop :=
  (∀ s : State,
     (s.me.timed = false → isBox s.cur = true → s.interrupt s.cur = none →
       ∃ t, exec .wfi s = .next t ∧ OnlyDriver s t ∧ t.me.drv = { s.me.drv with
         pc := s.me.drv.pc + 4, ready := s.tt + 1, entered := false, hold := some .wfi }) ∧
     (s.me.timed = false → isBox s.cur = true → s.interrupt s.cur ≠ none →
       AnswersGoto .wfi s 1 (s.me.drv.pc + 4) 0 0) ∧
     (s.me.timed = false → isBox s.cur = false → (s.me.priv && s.preempting s.cur) = false →
       AnswersGoto .wfi s 1 (s.me.drv.pc + 4) 0 0) ∧
     (s.me.timed = false → isBox s.cur = false → (s.me.priv && s.preempting s.cur) = true →
       ∃ t, exec .wfi s = .next t ∧ t.me.drv = { s.me.drv with
         pc := s.me.drv.pc + 4, ready := s.tt + 1, entered := false, hold := some .saved } ∧
         ∀ n nd, s.me.place.node = some n → s.nodes.find n = some nd →
           ∃ md, t.nodes.find n = some md ∧ md.handed = nd.handed + 1) ∧
     (s.me.drv.hold = some .wfi → s.interrupt s.cur ≠ none → s.me.drv.late = [] →
       ∃ t, exec .wfiWake s = .next t ∧ OnlyCore s t s.cur ∧
       t.me = { s.me with drv := { s.me.drv with hold := none, ready := s.tt } })) ∧
  (∀ (s : State) (code : BitVec 8), isBox s.cur = true → s.me.ie = true →
     ∃ t, exec (.interruptTaken code) s = .next t ∧
       (∀ e, e ≠ s.cur → t.core e = s.core e) ∧ t.mem = s.mem ∧ t.agenda = s.agenda ∧
       t.me = { s.me with drv := t.me.drv, csr := t.me.csr } ∧
       t.me.csr = { s.me.csr with status := t.me.csr.status, cause := 0x8000000000000000 ||| code.setWidth 64,
                                  epc := t.me.csr.epc } ∧
       ((∀ v, s.me.drv.hold ≠ some (.waits v)) → t.me.csr.epc = s.me.drv.pc.setWidth 64) ∧
       (∀ v, s.me.drv.hold = some (.waits v) → t.me.csr.epc = (s.me.drv.pc - 4).setWidth 64) ∧
       t.me.priv = true ∧ t.me.ie = false ∧ t.me.ppriv = s.me.priv ∧ t.me.pie = true ∧
       t.me.drv.pc = (s.me.csr.tvec.setWidth 16 &&& 0xFFFC) ∧ t.me.drv.hold = none ∧
       t.me.drv.g = s.me.drv.g ∧ t.me.drv.p = s.me.drv.p ∧ t.me.drv.x = s.me.drv.x ∧
       ∀ k : Fin 8, (t.dies[k].alarm = (s.dies[k].alarm && !(coreDie s.cur = k.val && code = 2))) ∧
         (t.dies[k].selfTest = (s.dies[k].selfTest && !(coreDie s.cur = k.val && code = 3))))

/-- R26, R132: CSRRD gives the S view at system level and the U view at user level; a register with no U view is a privilege
fault there. R8, R19, R22, R26, R30, R262, Tables 1.8, 6.9, 15.4: the registers that are views of other state, in either view:
the vector engine's state (R157: in the cycle of a loop order as it was before), the leases held, the growth bytes, the class
weights; and a signal box's registers of its die, which a timetable core does not have. -/
def Obligations.RegisterReads : Prop :=
  (∀ r ∈ csrTable, ∀ (g : BitVec 5) (s : State),
     (s.me.priv = true → AnswersG (.csrrd g r.1) s 1 g (r.2.1 s.me)) ∧
     (s.me.priv = false → ∀ v, r.2.2 s.me = some v → AnswersG (.csrrd g r.1) s 1 g v) ∧
     (TrapsToVector s → r.2.2 s.me = none → ∃ t, exec (.csrrd g r.1) s = .next t ∧
       Trapped s t 0x03 (s.me.drv.pc.setWidth 64) (s.me.drv.pc.setWidth 64) 0)) ∧
  (∀ (g : BitVec 5) (s : State),
     (let x := if s.tt < s.me.vec.loopFrom then s.me.vec.before else (s.me.vec.rrb, s.me.vec.sp, s.me.vec.vloop.isSome)
      ∃ v, AnswersG (.csrrd g 0x042) s 1 g v ∧ v.extractLsb' 0 4 = x.1 ∧ v.extractLsb' 4 8 = x.2.1 ∧
       v.getLsbD 12 = s.me.vec.vnf ∧ v.getLsbD 13 = x.2.2 ∧ v.toNat < 2 ^ 14) ∧
     (∃ v, AnswersG (.csrrd g 0x033) s 1 g v ∧ ∀ n : Fin 8, v.getLsbD n = s.me.lease[n].isSome ∧
       ∀ x, s.me.lease[n] = some x → v.extractLsb' (8 + 3 * n) 3 = x.kind ∧ v.getLsbD (32 + n) = x.ready) ∧
     (∀ n : Fin 8, ∃ v, AnswersG (.csrrd g (BitVec.ofNat 12 (0x048 + n))) s 1 g v ∧
       ∀ b : Fin 8, v.extractLsb' (8 * b) 8 = vecGet s.me.mx.growth 0 (8 * n + b)) ∧
     (∀ n : Fin 8, AnswersG (.csrrd g (BitVec.ofNat 12 (0x068 + n))) s 1 g s.me.csr.ewt[n]) ∧
     (TrapsToVector s → ∀ a ∈ [(0x100 : BitVec 12), 0x180, 0x188, 0x190, 0x191], ∃ t, exec (.csrrd g a) s = .next t ∧
       Trapped s t 0x01 (s.me.drv.pc.setWidth 64) (s.me.drv.pc.setWidth 64) 0) ∧
     ∀ d : Fin 8, s.cur = 4096 + d.val → s.me.priv = true →
       AnswersG (.csrrd g 0x180) s 1 g s.pgrant ∧ AnswersG (.csrrd g 0x191) s 1 g (s.dies[d].blen.setWidth 64) ∧
       (∀ n : Fin 8, AnswersG (.csrrd g (BitVec.ofNat 12 (0x188 + n))) s 1 g (s.dies[d].slew[n].setWidth 64)) ∧
       ∀ p : Fin 16,
         let q := s.dies[d].pair[p]
         let at_ := fun (m : Nat) => BitVec.ofNat 12 (0x100 + 8 * p + m)
         let one := fun (b : Bool) => (BitVec.ofBool b).setWidth 64
         AnswersG (.csrrd g (at_ 1)) s 1 g (one q.clk) ∧ AnswersG (.csrrd g (at_ 2)) s 1 g (one q.rail) ∧
         AnswersG (.csrrd g (at_ 4)) s 1 g q.pretb ∧ AnswersG (.csrrd g (at_ 6)) s 1 g (q.pimb.setWidth 64) ∧
         (∃ v, AnswersG (.csrrd g (at_ 0)) s 1 g v ∧ v.getLsbD 0 = q.req ∧ v.getLsbD 1 = q.ack ∧
           v.getLsbD 2 = s.placed d p) ∧
         ∃ v, AnswersG (.csrrd g (at_ 3)) s 1 g v ∧ v.extractLsb' 0 2 = q.state ∧ v.getLsbD 2 = q.seqerr ∧
           v.getLsbD 3 = q.rbusy ∧ v.getLsbD 4 = (q.wake && decide (q.wakeFrom ≤ s.clock)))

/-- R26, R27, R132: a write at system level changes the bits that can be written of the register named and no other
register; the guard compares it, and a register that engine work reads is seen 8 cycles on. At user level it is a
privilege fault, but for RNGSEED and for a CSRSET or CSRCLR of g0. R15, R26, R132, R324: a signal box's write of a
pair's register or of its die's is compared by the guard and performs 8 cycles on, after the issues of that cycle; no
register changes before, and CSRSET and CSRCLR of a register written whole change the value that stands then; a PQCTL
write that sets RSAVE or RREST is one step. Which bits can be written of SLEWSTEP (DESIGN CHOICE, log 129) and, at a signal
box, of PGROOT (DEDUCED, log 128) is the model's choice. -/
def Obligations.RegisterWrites : Prop :=
  (∀ op ∈ csrOps, ∀ m ∈ csrWriteMask, ∀ (g : BitVec 5) (s : State), GuardAgrees s →
     let mask := if m.1 = 0x011 ∧ isBox s.cur = true then 0xFFFFFFFFF0000 else m.2
     (s.me.priv = true ∨ m.1 = 0x050 → ∀ r ∈ csrTable, r.1 = m.1 → ∃ t, exec (op.1 g m.1) s = .next t ∧
       OnlyCoreAndAgenda s t s.cur ∧ t.me = { s.me with drv := t.me.drv, csr := t.me.csr, charge := t.me.charge } ∧
       GoesOn s t 1 ∧ t.me.csr.ewt = s.me.csr.ewt ∧
       r.2.1 t.me = (r.2.1 s.me &&& ~~~mask) ||| (op.2 (r.2.1 s.me) (s.readG g) &&& mask) ∧
       (∀ q ∈ csrTable, q.1 ≠ m.1 → q.2.1 t.me = q.2.1 s.me) ∧
       (g ≠ 0 → let c := insertDue (dueFor s s.cur 4 rankVisible (.guardCompare s.me.drv.pc s.major)) s.agenda
         t.agenda = if m.1 ∈ [(0x034 : BitVec 12), 0x050, 0x061, 0x063]
           then insertDue (dueFor s s.cur 8 rankUnit (.driverWriteEffect (.csr m.1 (r.2.1 t.me)))) c else c)) ∧
     (TrapsToVector s → m.1 ≠ 0x050 →
       (g ≠ 0 → ∃ t, exec (op.1 g m.1) s = .next t ∧
         Trapped s t 0x03 (s.me.drv.pc.setWidth 64) (s.me.drv.pc.setWidth 64) 0) ∧
       ∃ t, exec (.csrwr 0 m.1) s = .next t ∧
         Trapped s t 0x03 (s.me.drv.pc.setWidth 64) (s.me.drv.pc.setWidth 64) 0)) ∧
  (∀ (g : BitVec 5) (s : State) (d : Fin 8), s.cur = 4096 + d.val → s.me.priv = true → GuardAgrees s →
     let v := s.readG g
     let does := fun (i : Instr) (who : Nat) (l : List Instr) => ∃ t, exec i s = .next t ∧
       OnlyCoreAndAgenda s t s.cur ∧ t.me = { s.me with drv := t.me.drv, charge := t.me.charge } ∧ GoesOn s t 1 ∧
       t.agenda = l.foldl (fun q i => insertDue ⟨s.clock + 8, rankFlag, none, who, i⟩ q)
         (insertDue (dueFor s s.cur 4 rankVisible (.guardCompare s.me.drv.pc s.major)) s.agenda)
     let sends := fun (a who : Nat) (l : List Instr) => does (.csrwr g (BitVec.ofNat 12 a)) who l
     let bits_ := fun (a : Nat) => g ≠ 0 →
       does (.csrset g (BitVec.ofNat 12 a)) s.cur [.driverWriteEffect (.csrBits (BitVec.ofNat 12 a) true v)] ∧
       does (.csrclr g (BitVec.ofNat 12 a)) s.cur [.driverWriteEffect (.csrBits (BitVec.ofNat 12 a) false v)]
     (∀ p : Fin 16,
       let a := 0x100 + 8 * p.val
       let who := 16 * d.val + p.val
       (v.getLsbD 5 = true ∨ v.getLsbD 4 = true → sends a s.cur [.driverWriteEffect (.csr (BitVec.ofNat 12 a) v)]) ∧
       (v.getLsbD 5 = false → v.getLsbD 4 = false → sends a who [.pqctlReq (v.getLsbD 0)]) ∧
       sends (a + 1) who [.pclkWrite (v.getLsbD 0)] ∧ sends (a + 2) who [.prailWrite (v.getLsbD 0)] ∧
       sends (a + 3) who ((if v.getLsbD 4 then [.prstatWakeClear] else []) ++
         (if v.getLsbD 2 then [.prstatSeqerrClear] else [])) ∧
       sends (a + 4) who [.pretbWrite v] ∧ bits_ (a + 4) ∧
       sends (a + 5) who (if v.getLsbD 0 then [.pwake] else [])) ∧
     sends 0x180 d [.pgrantWrite v] ∧ sends 0x190 d [.sbcapWrite v] ∧
     sends 0x191 s.cur [.driverWriteEffect (.csr 0x191 v)] ∧ bits_ 0x180 ∧ bits_ 0x190 ∧
     ∀ n : Fin 8, sends (0x188 + n) d [.sbslewWrite n v] ∧ bits_ (0x188 + n))

/-! ### The driver and its scratchpad (05, 11) -/

/-- R91 to R94, R194: LDS and STS ask for the banks of their words in the next cycle; LDS owes its register until the
result comes. A misaligned address and one outside the scratchpad trap. R102: XILD reads its words in groups of eight,
one group a cycle, into consecutive index registers. -/
def Obligations.PadAndIndexIssue : Prop :=
  (∀ (d a : BitVec 5) (z : BitVec 2) (o : BitVec 14) (s : State),
     let ad := (s.readG a + (o.signExtend 64 <<< z.toNat)).toNat
     let n := 2 ^ z.toNat
     let b := banksOf ad n
     let e := { s.me.drv with pc := s.me.drv.pc + 4, ready := s.tt + 1, entered := false }
     (ad % n = 0 → ad < 0xC0000 →
       (isBox s.cur = false ∨ s.me.pad.poison ad n = [] → ∃ t, exec (.lds d a z o) s = .next t ∧
         Claimed s t { e with owedG := d.toNat :: s.me.drv.owedG }
           [⟨s.tt + 1, 9, ad / 0x10000, b.1, b.2, .load false d.toNat ad n 1 s.me.drv.pc⟩]) ∧
       ∃ t, exec (.sts d a z o) s = .next t ∧
         Claimed s t e [⟨s.tt + 1, 9, ad / 0x10000, b.1, b.2, .store ad n (s.readG d)⟩]) ∧
     (TrapsToVector s → ad % n ≠ 0 → ∀ i ∈ [Instr.lds d a z o, .sts d a z o], ∃ t, exec i s = .next t ∧
       Trapped s t 0x04 (s.me.drv.pc.setWidth 64) (s.me.drv.pc.setWidth 64) 0) ∧
     (TrapsToVector s → ad % n = 0 → 0xC0000 ≤ ad → ∀ i ∈ [Instr.lds d a z o, .sts d a z o], ∃ t, exec i s = .next t ∧
       Trapped s t 0x0A (s.me.drv.pc.setWidth 64) (s.me.drv.pc.setWidth 64) 0)) ∧
  (∀ (a c e : BitVec 5) (s : State),
     let ad := (s.readG a).toNat
     let n := c.toNat + 1
     (ad % 4 = 0 → ad + 4 * n ≤ 0xC0000 → isBox s.cur = false ∨ s.me.pad.poison ad (4 * n) = [] →
       ∃ t, exec (.xild a c e) s = .next t ∧
       Claimed s t { s.me.drv with pc := s.me.drv.pc + 4, ready := s.tt + (n + 7) / 8, entered := false,
                                   owedX := List.range' e.toNat n ++ s.me.drv.owedX }
         ((List.range ((n + 7) / 8)).map (groupClaim s.tt n ad
           (fun g addr len => .load true (e.toNat + 8 * g) addr 4 len s.me.drv.pc)))) ∧
     (TrapsToVector s → ad % 4 ≠ 0 → ∃ t, exec (.xild a c e) s = .next t ∧
       Trapped s t 0x04 (s.me.drv.pc.setWidth 64) (s.me.drv.pc.setWidth 64) 0) ∧
     (TrapsToVector s → ad % 4 = 0 → 0xC0000 < ad + 4 * n → ∃ t, exec (.xild a c e) s = .next t ∧
       Trapped s t 0x0A (s.me.drv.pc.setWidth 64) (s.me.drv.pc.setWidth 64) 0))

/-- R93, R194, R195: the arbiter of a scratchpad. With no claim that asks, nothing happens; a claim whose banks are free
is granted and leaves, a load's value is taken and reaches its register 3 cycles on, a store is written, a byte or
half 2 cycles later; a claim whose banks are not free asks again in the next cycle. R80 to R82, R93, R95: a result
reaches its register and is no longer owed; a later instruction's result of the same cycle wins. A store writes its
low bytes, little-endian, and no other byte. -/
def Obligations.ArbiterAndPadResults : Prop :=
  (∀ s : State,
     ((∀ q ∈ s.me.pad.claims, s.tt < q.asked) → ∃ t, exec .bankClaimGrant s = .next t ∧ OnlyCore s t s.cur ∧
       t.me = { s.me with pad := { s.me.pad with assigned := t.me.pad.assigned } }) ∧
     ∀ q : Claim, s.me.pad.claims = [q] → q.asked ≤ s.tt →
       let free := ∀ a ∈ s.me.pad.assigned, s.tt < a.until_ →
         (a.block = q.block → a.banks &&& q.banks = 0) ∧ (a.block = q.block + 1 → a.banks &&& q.banks2 = 0)
       (free → ∀ reg addr size pc, q.act = .load false reg addr size 1 pc → s.me.pad.poison addr size = [] →
         ∃ t, exec .bankClaimGrant s = .next t ∧ OnlyCoreAndAgenda s t s.cur ∧ t.me.pad.claims = [] ∧
           t.me.pad.mem = s.me.pad.mem ∧
           Adds s t (dueFor s s.cur 3 rankVisible
             (.ldsResultWrite false reg [BitVec.ofNat 64 (s.me.pad.mem.readLE addr size)]))) ∧
       (free → ∀ addr size v, q.act = .store addr size v → ∃ t, exec .bankClaimGrant s = .next t ∧
         OnlyCoreAndAgenda s t s.cur ∧ t.me.pad.claims = [] ∧ t.me.pad.mem = s.me.pad.mem ∧
         Adds s t (dueFor s s.cur (if size < 4 then 2 else 0) rankWrite (.stsPerform addr size v))) ∧
       (¬ free → ∃ t, exec .bankClaimGrant s = .next t ∧ OnlyCoreAndAgenda s t s.cur ∧ t.me.pad.claims = [q] ∧
         t.me.pad.mem = s.me.pad.mem ∧ GrantDue t s.cur (s.clock + 1))) ∧
  (∀ s : State,
     (∀ (r : BitVec 5) (v : DWord), ∃ t, exec (.ldsResultWrite false r.toNat [v]) s = .next t ∧ OnlyCore s t s.cur ∧
       t.me = { s.me with drv := { s.me.drv with g := t.me.drv.g, owedG := s.me.drv.owedG.erase r.toNat } } ∧
       t.me.drv.readG r = (if r = 0 then 0 else if s.me.drv.wroteG[r.toNat] < s.tt then v else s.readG r) ∧
       ∀ q, q ≠ r → t.me.drv.readG q = s.me.drv.readG q) ∧
     (∀ (r n : Nat) (vs : List DWord), vs.length = n → r + n ≤ 32 → ∃ t, exec (.ldsResultWrite true r vs) s = .next t ∧
       OnlyCore s t s.cur ∧
       t.me = { s.me with drv := { s.me.drv with x := t.me.drv.x, owedX := t.me.drv.owedX } } ∧
       ∀ q : Fin 32, t.me.drv.x[q] = if h : r ≤ q.val ∧ q.val - r < vs.length then
           (if s.me.drv.wroteX[q] < s.tt then (vs[q.val - r]'h.2).setWidth 32 else s.me.drv.x[q])
         else s.me.drv.x[q]) ∧
     ∀ (addr size : Nat) (v : DWord), ∃ t, exec (.stsPerform addr size v) s = .next t ∧ OnlyCore s t s.cur ∧
       t.me = { s.me with pad := { s.me.pad with mem := t.me.pad.mem, bad := t.me.pad.bad } } ∧
       t.me.pad.mem.readLE addr size = v.toNat % 256 ^ size ∧
       ∀ b, b < addr ∨ addr + size ≤ b → t.me.pad.mem.get b = s.me.pad.mem.get b)

/-! ### Untimed accesses (05, 12) -/

/-- R96 to R98, R214, R227: LDG, STG and AMO to a page that is there and is neither migrating nor being invalidated enter
the driver's queues; to the depot of their own die with the translation at hand they perform 20 cycles on at the
earliest, elsewhere the spec gives no figure. LDG and AMO owe their register; an AMO with a mask waits for the accesses
before it and holds those behind. To a migrating page they enter the die's replay queue too. An address with no page
traps. -/
def Obligations.UntimedIssue : Prop :=
  ∀ (d a b m : BitVec 5) (z : BitVec 2) (o : BitVec 14) (op : BitVec 3) (w : BitVec 1) (s : State), s.me.timed = false →
    let va := s.readG a + (o.signExtend 64 <<< z.toNat)
    let e := { s.me.drv with pc := s.me.drv.pc + 4, ready := s.tt + 1, entered := false }
    let hit := fun (va : DWord) => (vecGet s.dies Die.reset (coreDie s.cur)).tlb.any (·.serves (s.me.csr.ctxid.setWidth 13) va)
    let enters := fun (i : Instr) (va : DWord) (n : Nat) (kind : AccessKind) (value : DWord) (owed : List Nat)
        (hold : Option Hold) (step : Nat → Instr) =>
      ∀ p, GuardAgrees s → (s.translate s.cur va).1 = some p → accessFault (some p) va n (kind ≠ .load) = none →
        let here := decide (hit va = true ∧ tierOf (p.pa va) = some .depot ∧ memDie (p.pa va) = coreDie s.cur)
        let queues := fun (t : State) (replay : Bool) => t.mem = s.mem ∧ t.front = s.front ∧
          (∀ c, c ≠ s.cur → t.core c = s.core c) ∧
          t.me = { s.me with drv := { e with owedG := owed, hold := hold }, acc := t.me.acc, charge := t.me.charge } ∧
          ∃ x : Access, t.me.acc = s.me.acc ++ [x] ∧ x.id = s.fresh ∧ x.kind = kind ∧ x.va = va ∧ x.pa = p.pa va ∧
            x.size = n ∧ x.value = value ∧ x.reg = d.toNat ∧ x.performed = false ∧ x.replay = replay ∧ x.fixed = here
        (p.mig = false → (s.translate s.cur va).2.invalidating s.cur va p = false → ∃ t, exec i s = .next t ∧
          queues t false ∧ DueFixed t here s.clock 20 s.cur (step s.fresh)) ∧
        (p.mig = true → ∀ k : Fin 8, coreDie s.cur = k.val → s.dies[k].replay.length < 64 → ∃ t, exec i s = .next t ∧
          queues t true ∧ t.dies[k].replay = s.dies[k].replay ++ [(s.cur, s.fresh)])
    enters (.ldg d a z o) va (2 ^ z.toNat) .load 0 (d.toNat :: s.me.drv.owedG) s.me.drv.hold .ldgPerform ∧
    enters (.stg d a z o) va (2 ^ z.toNat) .store (s.readG d) s.me.drv.owedG s.me.drv.hold .ldgPerform ∧
    (m = 0 ∨ s.fenceDone s.cur = true →
      enters (.amo d a b op w m) (s.readG a) (if w = 1 then 8 else 4) .amo (s.readG b) (d.toNat :: s.me.drv.owedG)
        (if m = 0 then s.me.drv.hold else some (.fence m)) .amoPerform) ∧
    (m ≠ 0 → s.fenceDone s.cur = false → ∃ t, exec (.amo d a b op w m) s = .next t ∧ OnlyCore s t s.cur ∧
      t.me = { s.me with drv := { s.me.drv with ready := s.tt + 1 } }) ∧
    (TrapsToVector s → (s.translate s.cur va).1 = none → ∀ i ∈ [Instr.ldg d a z o, .stg d a z o],
      ∃ t, exec i s = .next t ∧ Trapped s t 0x05 (s.me.drv.pc.setWidth 64) (s.me.drv.pc.setWidth 64) va)

/-- R97, R98, R198, R215, R219, R222: an access to a depot that serves it in this cycle: a load takes the bytes of the
youngest earlier store of its queue that covers it, or else those of the front buffers and the array; a store enters the
front buffer and leaves the queue; an atomic operation takes the old bytes and enters the new ones in the same cycle. A
MARK behind it lets nothing perform before the next cycle. -/
def Obligations.UntimedPerforms : Prop :=
  ∀ (s : State) (a : Access), Performs s a → tierOf a.pa = some .depot → DepotServes s a → NothingBehind s a →
    let old := BitVec.ofNat 64 (leNat (s.loadBytes a.pa a.size))
    let held := holdMarks a.id s.clock s.me.acc
    let left := held.filter (fun b => b.id ≠ a.id)
    let result := fun (t : State) (n : Nat) (v : DWord) => DueFixed t a.fixed s.clock n s.cur (.loadResultWrite a.id v)
    let enters := fun (t : State) (v : DWord) => ∃ f ∈ t.front, f.core = s.cur ∧ f.pa = a.pa ∧ f.size = a.size ∧
      f.prf = s.clock ∧ (∀ i, i < a.size → f.bytes.get i = BitVec.ofNat 8 (v.toNat / 256 ^ i)) ∧
      ∃ q ∈ t.agenda, (a.fixed = true → s.clock + Config.arrivalCycles ≤ q.cycle) ∧ s.clock ≤ q.cycle ∧ q.who = f.id ∧
        q.instr = .storeArrival
    (a.kind = .load →
      ((storesMet s a).getLast? = none → s.frontBad a.pa a.size = false → ∃ t, exec (.ldgPerform a.id) s = .next t ∧
        t.mem = s.mem ∧ t.front = s.front ∧ result t 20 old ∧
        t.me = { s.me with drv := { s.me.drv with loadFree := s.clock + 1 }, acc := setPerformed a.id held }) ∧
      ∀ b, (storesMet s a).getLast? = some b → ∃ t, exec (.ldgPerform a.id) s = .next t ∧ t.mem = s.mem ∧
        t.front = s.front ∧ result t 20 (BitVec.ofNat 64 (b.value.toNat / 256 ^ (a.pa - b.pa) % 256 ^ a.size)) ∧
        t.me = { s.me with drv := { s.me.drv with loadFree := s.clock + 1 }, acc := setPerformed a.id held }) ∧
    (a.kind = .store → ∃ t, exec (.ldgPerform a.id) s = .next t ∧ t.mem = s.mem ∧ enters t a.value ∧
      t.me = { s.me with
        drv := { s.me.drv with storeFree := s.clock + 1, markFree := max s.me.drv.markFree (marksFree left) }
        acc := dropMarks left }) ∧
    (a.kind = .amo → s.frontBad a.pa a.size = false → ∃ t, exec (.amoPerform a.id) s = .next t ∧ t.mem = s.mem ∧
      result t 24 old ∧
      (∀ v, amoNew a.op a.size old a.value a.cmp = some v → enters t v) ∧
      (amoNew a.op a.size old a.value a.cmp = none → t.front = s.front) ∧
      t.me = { s.me with drv := { s.me.drv with loadFree := s.clock + 1, storeFree := s.clock + 1 },
                         acc := setPerformed a.id held })

/-- R81, R97, R198, R207, R217, R220: an access to HBM waits for an open window, one to a depot without a free cycle in the
order of arrival, and one whose turn has not come tries again in the next cycle; a result reaches its register and the
access leaves its queues; a store that arrives writes the bytes that no later timed write has taken, and no other
byte, and the stores that it overtakes give those bytes up. -/
def Obligations.UntimedCompletes : Prop :=
  ∀ s : State,
    let again := fun (a : Access) => (⟨s.clock + 1, if a.kind = .load then rankRead else rankStore, none, s.cur,
      if a.kind = .amo then .amoPerform a.id else .ldgPerform a.id⟩ : Due)
    let step := fun (a : Access) => if a.kind = .amo then Instr.amoPerform a.id else .ldgPerform a.id
    (∀ a : Access, Performs s a → tierOf a.pa = some .hbm → ∃ t, exec (step a) s = .next t ∧ t.mem = s.mem ∧
      t.front = s.front ∧ Adds s t ⟨s.clock, rankWalker, none, pcOf a.pa, .openWindowRequest⟩ ∧
      ∃ q, t.pcs.find (pcOf a.pa) = some q ∧ q.queue =
        ((s.pcs.find (pcOf a.pa)).getD PseudoChannel.reset).queue ++ [⟨s.cur, a.id, a.pa⟩]) ∧
    (∀ a : Access, Waits s a → ¬ InTurn s a → ∃ t, exec (step a) s = .next t ∧ t = { s with agenda := t.agenda } ∧
      Adds s t (again a)) ∧
    (∀ a : Access, Performs s a → tierOf a.pa = some .depot → ¬ DepotServes s a → ∃ t, exec (step a) s = .next t ∧
      t = { s with dies := t.dies, agenda := t.agenda } ∧ Adds s t (again a) ∧
      ∀ k : Fin 8, memDie a.pa = k.val → (s.cur, a.id) ∈ t.dies[k].waiting) ∧
    (∀ (id : Nat) (v : DWord) (a : Access) (r : BitVec 5), s.me.acc.find? (fun b => b.id = id) = some a →
      a.reg = r.toNat →
        let left := s.me.acc.filter (fun b => b.id ≠ id)
        ∃ t, exec (.loadResultWrite id v) s = .next t ∧ OnlyCore s t s.cur ∧
        t.me = { s.me with
          drv := { s.me.drv with
            g := t.me.drv.g, owedG := s.me.drv.owedG.erase r.toNat
            markFree := max s.me.drv.markFree (marksFree left) }
          acc := dropMarks left } ∧
        t.me.drv.readG r = (if r = 0 then 0 else v) ∧ ∀ q, q ≠ r → t.me.drv.readG q = s.me.drv.readG q) ∧
    ∀ f : Front, s.front.find? (fun g => g.id = s.cur) = some f → ∃ t, exec .storeArrival s = .next t ∧
      t.cores = s.cores ∧ t.front = (overtake f.id f.pa f.size s.front).filter (fun g => g.id ≠ f.id) ∧
      (∀ b, f.pa ≤ b → b < f.pa + f.size → f.dead.contains b = false → t.mem.get b = f.bytes.get (b - f.pa)) ∧
      ∀ b, b < f.pa ∨ f.pa + f.size ≤ b ∨ f.dead.contains b = true → t.mem.get b = s.mem.get b

/-- R97, R100, R101, R202, R220, R221: in free mode a FENCE before which every access has performed, and an XFENCE whose
stores have arrived too and, with x in its mask, whose host-tier copies have made their final write, complete in one
cycle and change nothing else; another holds the driver, and it goes on once that holds. A data trap that came
meanwhile is taken there: EPC the next instruction, FAULTCYC the cycle of its read; so is a lease-wait pre-emption (R242).
That a trap waits for the end of the hold is the model's choice (DEDUCED, log 117). -/
def Obligations.Fences : Prop :=
  ∀ (m : BitVec 5) (s : State),
    let done := ∀ a ∈ s.me.acc, a.performed = true ∨ a.kind = .mark
    let arrived := done ∧ (∀ f ∈ s.front, f.core ≠ s.cur) ∧
      (m.getLsbD 1 = true → ∀ c ∈ s.copies, c.2.core = s.cur → c.2.onHost = false)
    let next := { s.me.drv with pc := s.me.drv.pc + 4, ready := s.tt + 1, entered := false }
    let goes := fun (i : Instr) => ∃ t, exec i s = .next t ∧ OnlyDriver s t ∧ t.me.drv = next
    let holds := fun (i : Instr) (h : Hold) => ∃ t, exec i s = .next t ∧ OnlyDriver s t ∧
      t.me.drv = { next with hold := some h }
    let ends := fun (i : Instr) => ∃ t, exec i s = .next t ∧ OnlyCore s t s.cur ∧
      t.me = { s.me with drv := { s.me.drv with hold := none, ready := max s.me.drv.ready s.tt } }
    let traps := fun (i : Instr) (l : LateTrap) => ∃ t, exec i s = .next t ∧
      t.me.csr.cause = (if l.lease then 0x10 else 0x0D) ∧ t.me.csr.epc = s.me.drv.pc.setWidth 64 ∧
      t.me.csr.faultVa = (if l.lease then 0 else l.va) ∧
      t.me.csr.faultCyc = BitVec.ofNat 64 (if l.lease then s.clock else l.cyc) ∧
      t.me.priv = true ∧ t.me.drv.late = [] ∧ t.me.drv.g = s.me.drv.g
    (s.me.timed = false → done → goes (.fence m)) ∧
    (s.me.timed = false → ¬ done → holds (.fence m) (.fence m)) ∧
    (s.me.timed = false → arrived → goes (.xfence m)) ∧
    (s.me.timed = false → ¬ arrived → holds (.xfence m) (.xfence m)) ∧
    (s.me.drv.hold = some (.fence m) → done → s.me.drv.late = [] → ends .fenceComplete) ∧
    (s.me.drv.hold = some (.xfence m) → arrived → s.me.drv.late = [] → ends .xfenceComplete) ∧
    (∀ l, TrapsToVector s → s.me.drv.late = [l] → (s.me.drv.hold = some (.fence m) → done → traps .fenceComplete l) ∧
      (s.me.drv.hold = some (.xfence m) → arrived → traps .xfenceComplete l))

/-! ### Engines, queues, rings, descriptors (06) -/

/-- R108 to R114, R275: on a timetable core each instruction that controls an engine, a queue, a ring or a seed sends one
write, whose value is that of its operands at issue, if the guard's copy of it is equal; a push to a queue that is full
is a queue overflow. -/
def Obligations.DriverWriteIssue : Prop :=
  ∀ (a c n : BitVec 5) (s : State), isBox s.cur = false → GuardAgrees s →
    let v := s.readG a
    let e := engOf c.toNat
    let q := s.me.q
    (v.toNat < 2 ^ 24 → (s.me.engine e).status = .stopped →
      (s.me.timed = true → s.tt + 8 ≤ s.me.csr.depart.toNat + v.toNat →
        Sends (.tstart a c) s (.tstart e false (s.me.csr.depart.toNat + v.toNat)) q) ∧
      (s.me.timed = false → Sends (.tstart a c) s (.tstart e true v.toNat) q)) ∧
    Sends (.tstop c) s (.tstop e) q ∧
    (v.toNat < 1024 → (s.me.engine e).status = .stopped → Sends (.tbase a c) s (.tbase e (v.setWidth 10)) q) ∧
    (v.toNat < 65536 → Sends (.lpset a c n) s (.loopCounter e n.toNat (v.setWidth 16)) q) ∧
    (q.waybill.length + q.waybillIn < 16 →
      Sends (.wbpush a) s (.waybill (v.setWidth 32)) { q with waybillIn := q.waybillIn + 1 }) ∧
    (q.param.length + q.paramIn < 16 →
      Sends (.pqpush a) s (.param (v.setWidth 32)) { q with paramIn := q.paramIn + 1 }) ∧
    (ringOperandOk v = true → Sends (.rcfg a c) s (.ringConfig c.toNat v) q) ∧
    Sends (.rreset c) s (.ringReset c.toNat) q ∧
    (v.toNat < 2 ^ 32 → Sends (.ssset a c) s (.seed c.toNat (v.setWidth 32)) q) ∧
    (s.me.timed = true → 16 ≤ q.waybill.length + q.waybillIn → ∃ t, exec (.wbpush a) s = .next t ∧ Stopped s t 0x24 3) ∧
    (s.me.timed = true → 16 ≤ q.param.length + q.paramIn → ∃ t, exec (.pqpush a) s = .next t ∧ Stopped s t 0x24 3)

/-- R109 to R112, Table 6.2: what the writes to engines do. An engine that TSTART has armed in timed mode starts in its start
cycle, and one that has started since is left alone (R110); a TSTART sent in the other mode counts from the same departure
(DESIGN CHOICE, log 134); TSTOP ends one that is armed or runs; a table write fills a bank from its word 0 and may flip the
active one. R27, R113, R114, R178: what the other driver writes do. A pushed word joins its queue; a ring that is configured
takes the fields of the operand, and is cleared like one that is reset; a seed takes its value; a register that engine work
reads takes its new value for it. -/
def Obligations.DriverWriteEffects : Prop :=
  (∀ (s : State) (e : Eng),
     let g := s.me.engine e
     (∀ n, (h : n < 2) → ∀ v, ∃ t, exec (.driverWriteEffect (.loopCounter e n v)) s = .next t ∧
       OnlyEngine s t e { g with lc := g.lc.set n v }) ∧
     (∀ n, (h : n < 8) → ∀ v, ∃ t, exec (.driverWriteEffect (.agen e n v)) s = .next t ∧
       OnlyEngine s t e { g with ag := g.ag.set n v }) ∧
     (∀ v, ∃ t, exec (.driverWriteEffect (.tbase e v)) s = .next t ∧ OnlyEngine s t e { g with step := v }) ∧
     (g.status = .running ∨ g.status = .done → ∀ free v, ∃ t, exec (.driverWriteEffect (.tstart e free v)) s = .next t ∧
       t = s) ∧
     (g.status = .stopped ∨ g.status = .armed → ∀ free v,
       let depart := s.me.csr.depart.toNat
       let at_ := if free = !s.me.timed then v else if s.me.timed then depart + v else v - depart
       (s.me.timed = false → ∃ t, exec (.driverWriteEffect (.tstart e free v)) s = .next t ∧
         OnlyEngine s t e { g with status := .armed, start := at_ }) ∧
       (s.me.timed = true → ∃ t, exec (.driverWriteEffect (.tstart e free v)) s = .next t ∧ OnlyCoreAndAgenda s t s.cur ∧
         t.me.engine e = { g with status := .armed, start := at_ } ∧ (∀ f, f ≠ e → t.me.engine f = s.me.engine f) ∧
         t.me = { s.me with eng := t.me.eng } ∧ Adds s t (dueFor s s.cur (at_ - s.tt) rankVisible (.engineStart e)))) ∧
     (∃ t, exec (.driverWriteEffect (.tstop e)) s = .next t ∧ OnlyEngine s t e
       (if g.status = .armed ∨ g.status = .running then { g with status := .stopped, loops := [] } else g)) ∧
     (∀ (bank flip : Bool) (ws : List Word), ws.length ≤ 1024 →
       ∃ t, exec (.driverWriteEffect (.table e bank ws flip)) s = .next t ∧ OnlyCore s t s.cur ∧
         (t.me.engine e).bank = (g.bank != flip) ∧ (t.me.engine e).step = g.step ∧ (t.me.engine e).status = g.status ∧
         (∀ n, (h : n < ws.length) → (t.me.engine e).table.get (n + if bank then 1024 else 0) = ws[n]) ∧
         ∀ f, f ≠ e → t.me.engine f = s.me.engine f) ∧
     ∃ t, exec (.engineStart e) s = .next t ∧ OnlyEngine s t e
       (if s.me.timed = true ∧ g.status = .armed ∧ g.start = s.tt then { g with status := .running, base := s.tt, first := true } else g)) ∧
  (∀ s : State,
     let cleared := fun (r : Ring) => r.head = 0 ∧ r.tail = 0 ∧ r.seqIn = 0 ∧ r.seqOut = 0 ∧ r.fill = 0 ∧ r.tags = []
     let shape := fun (r : Ring) => (r.base, r.slot, r.count, r.swz)
     (∀ w, ∃ t, exec (.driverWriteEffect (.waybill w)) s = .next t ∧ OnlyCore s t s.cur ∧ t.me = { s.me with
       q := { s.me.q with waybill := s.me.q.waybill ++ [⟨w, false⟩], waybillIn := s.me.q.waybillIn - 1 } }) ∧
     (∀ w, ∃ t, exec (.driverWriteEffect (.param w)) s = .next t ∧ OnlyCore s t s.cur ∧ t.me = { s.me with
       q := { s.me.q with param := s.me.q.param ++ [⟨w, false⟩], paramIn := s.me.q.paramIn - 1 } }) ∧
     (∀ n, n < 16 → ∀ v, ∃ t, exec (.driverWriteEffect (.ringConfig n v)) s = .next t ∧
       shape (t.me.getRing n) = (v.extractLsb' 0 20, v.extractLsb' 20 8, v.extractLsb' 28 7, v.extractLsb' 35 7) ∧
       cleared (t.me.getRing n) ∧ ∀ m, m ≠ n → t.me.getRing m = s.me.getRing m) ∧
     (∀ n, n < 16 → ∃ t, exec (.driverWriteEffect (.ringReset n)) s = .next t ∧
       shape (t.me.getRing n) = shape (s.me.getRing n) ∧ cleared (t.me.getRing n) ∧
       ∀ m, m ≠ n → t.me.getRing m = s.me.getRing m) ∧
     (∀ n, (h : n < 16) → ∀ v, ∃ t, exec (.driverWriteEffect (.seed n v)) s = .next t ∧ OnlyCore s t s.cur ∧
       t.me = { s.me with ss := s.me.ss.set n v }) ∧
     (isBox s.cur = false → ∀ v, ∀ p ∈ [((0x050 : BitVec 12), { s.me.view with rngseed := v }),
         (0x034, { s.me.view with slewstep := v }), (0x061, { s.me.view with ectl := v }),
         (0x063, { s.me.view with estatic := v })],
       ∃ t, exec (.driverWriteEffect (.csr p.1 v)) s = .next t ∧ OnlyCore s t s.cur ∧
         t.me = { s.me with view := p.2 }) ∧
     (isBox s.cur = true → ∀ v, ∀ d : Fin 8, coreDie s.cur = d.val →
       ∃ t, exec (.driverWriteEffect (.csr 0x191 v)) s = .next t ∧ t.cores = s.cores ∧
         t.dies = s.dies.set d { s.dies[d] with blen := v.setWidth 40 }) ∧
     (isBox s.cur = true → ∀ v, ∃ t, exec (.driverWriteEffect (.csr 0x061 v)) s = .next t ∧ OnlyCore s t s.cur ∧
       t.me = { s.me with view := { s.me.view with ectl := v } }) ∧
     (isBox s.cur = true → ∀ v,
       (∃ t, exec (.driverWriteEffect (.csrBits 0x180 true v)) s = .next t ∧
         t = { s with pgrant := (s.pgrant ||| v) &&& 0xFFFFFFFF0007 }) ∧
       ∃ t, exec (.driverWriteEffect (.csrBits 0x180 false v)) s = .next t ∧
         t = { s with pgrant := (s.pgrant &&& ~~~v) &&& 0xFFFFFFFF0007 }))

/-- R71, R275, R284: an instruction whose guard copy differs issues, and none of its writes is made; the compare 4 cycles
on finds it: a machine check, and the lockstep test of the core falls due, whose WHERE is the model's choice (DESIGN CHOICE, log
51). A compare of what is equal does nothing. An illegal micro-order stops the timetable. -/
def Obligations.GuardAndIllegalOrders : Prop :=
  ∀ s : State,
    (s.guardBad.contains s.cur = true → isBox s.cur = false → ∀ c : BitVec 5,
      Withholds (.tstop c) s 1 ∧ Withholds (.rreset c) s 1 ∧
      (∀ a, s.me.q.waybill.length + s.me.q.waybillIn < 16 → Withholds (.wbpush a) s 1) ∧
      (∀ a, s.me.q.param.length + s.me.q.paramIn < 16 → Withholds (.pqpush a) s 1) ∧
      ∀ op ∈ csrOps, ∀ r ∈ csrTable, c ≠ 0 → s.me.priv = true → Withholds (op.1 c r.1) s 1) ∧
    (∀ (pc : BitVec 16) (m : BitVec 6),
      ((pc, s.tt) ∉ s.me.drv.mismatch → ∃ t, exec (.guardCompare pc m) s = .next t ∧ t = s) ∧
      ((pc, s.tt) ∈ s.me.drv.mismatch → isBox s.cur = false → ∃ t, exec (.guardCompare pc m) s = .next t ∧
        Stopped s t 0x50 3 ∧ t.me.drv.mismatch = s.me.drv.mismatch.erase (pc, s.tt) ∧
        ∃ fails, ⟨s.clock + 1, rankWalker, none, coreDie s.cur,
          .selfTest 2 (BitVec.ofNat 32 (whereCore s.cur)) fails⟩ ∈ t.agenda)) ∧
    ∀ w, ∃ t, exec (.illegalMicroOrder w) s = .next t ∧ Stopped s t 0x08 3

/-- R107, R111, R112, R115 to R117, R121, R125, R126: the instructions that read a descriptor, each with its operand
ranges, alignment, length and issue cost, in the cycle of its issue: it issues, its groups ask for their banks one a
cycle, and in free mode the driver waits for the read; a leased-engine command owes its status register. -/
def Obligations.Descriptors : Prop :=
  ∀ (a b c e : BitVec 5) (t : BitVec 1) (s : State), isBox s.cur = false → GuardAgrees s →
    let x := (s.readG a).toNat
    let y := s.readG b
    let at_ := fun (addr words align : Nat) => addr % align = 0 ∧ addr + 4 * words ≤ 0xC0000
    (1 ≤ y.toNat → y.toNat ≤ 1024 → at_ x y.toNat 4 →
      ReadsDescriptor (.tload a b c) s ((y.toNat + 7) / 8 + 1) x y.toNat []) ∧
    (at_ x 4 16 → ReadsDescriptor (.agset a c e) s 2 x 4 []) ∧
    (at_ x 16 64 → ReadsDescriptor (.xshape a e) s 3 x 16 []) ∧
    (y.getLsbD 63 = true → y.extractLsb' 48 15 = 0 → y.extractLsb' 20 12 = 0 →
      at_ (y.extractLsb' 0 20).toNat 16 64 →
        ReadsDescriptor (.xcopy a b t) s 3 (y.extractLsb' 0 20).toNat 16 [] ∧
        ReadsDescriptor (.xgather a b c t) s 3 (y.extractLsb' 0 20).toNat 16 [] ∧
        ReadsDescriptor (.xscatter a b c t) s 3 (y.extractLsb' 0 20).toNat 16 []) ∧
    (at_ y.toNat 8 32 → ReadsDescriptor (.coll a b) s 2 y.toNat 8 []) ∧
    (y.toNat < 2 ^ 32 → s.me.rowTaken s.tt = false → at_ x 8 32 →
      ReadsDescriptor (.rwmax a b) s 2 x 8 [] ∧ ReadsDescriptor (.rwexs a b) s 2 x 8 [] ∧
      ReadsDescriptor (.rwscl a b) s 2 x 8 [] ∧ ReadsDescriptor (.rwnorm a b) s 2 x 8 []) ∧
    (at_ x 8 32 →
      (leasedOperandOk 0x00 y = true → ReadsDescriptor (.ilmask a b e) s 2 x 8 [e.toNat]) ∧
      (leasedOperandOk 0x01 y = true → ReadsDescriptor (.ilsamp a b e) s 2 x 8 [e.toNat]) ∧
      (leasedOperandOk 0x02 y = true → ReadsDescriptor (.iladv a b e) s 2 x 8 [e.toNat]) ∧
      (leasedOperandOk 0x03 y = true → ReadsDescriptor (.ilload a b e) s 2 x 8 [e.toNat]) ∧
      (leasedOperandOk 0x04 y = true → ReadsDescriptor (.ilsave a b e) s 2 x 8 [e.toNat]) ∧
      (leasedOperandOk 0x08 y = true → ReadsDescriptor (.srtopk a b e) s 2 x 8 [e.toNat]) ∧
      (leasedOperandOk 0x09 y = true → ReadsDescriptor (.srsort a b e) s 2 x 8 [e.toNat]) ∧
      (leasedOperandOk 0x10 y = true → ReadsDescriptor (.infblk a b e) s 2 x 8 [e.toNat]) ∧
      (leasedOperandOk 0x18 y = true → ReadsDescriptor (.shgath a b e) s 2 x 8 [e.toNat]) ∧
      (leasedOperandOk 0x19 y = true → ReadsDescriptor (.shscat a b e) s 2 x 8 [e.toNat]) ∧
      (leasedOperandOk 0x1A y = true → ReadsDescriptor (.shpack a b e) s 2 x 8 [e.toNat]))

/-- R95, R107 to R112, R115 to R117, R121, R125 to R127, R275, R300: a group of descriptor words that arrives is kept until
the last; then the driver may go on, and the instruction has its effect: XSHAPE writes the handle, AGSET and TLOAD send
their write, a copy enters its engine's buffer, COLL makes a bucket, a row or leased-engine command starts 8 cycles
after its issue. A leased-engine command waits for those issued before it; one whose guard copy differed does nothing.
A poisoned word is a load's fault. -/
def Obligations.DescriptorEffects : Prop :=
  ∀ (s : State) (id group : Nat) (ws : List Word) (o : DescOp), s.me.ops.find id = some o → o.id = id →
    s.me.drv.late = [] →
    let p := { o with words := o.words.setRange (8 * group) ws, got := o.got + 1 }
    let w := p.words.getRange 0 8
    let goesOn := fun (t : State) => t.me.ops.find id = none ∧ (s.me.drv.hold = some (.descriptor id) →
      t.me.drv.hold = none ∧ t.me.drv.ready = max s.me.drv.ready (s.tt + 1))
    let read := fun (t : State) => exec (.descriptorGroupRead id group ws []) s = .next t
    (s.me.leasedBefore o = true → ∃ t, read t ∧ t = { s with agenda := t.agenda } ∧
      Adds s t (dueFor s s.cur 1 rankRead (.descriptorGroupRead id group ws []))) ∧
    (s.me.leasedBefore o = false →
     (o.got + 1 < o.need → ∃ t, read t ∧ OnlyCore s t s.cur ∧ t.me = { s.me with ops := s.me.ops.put id p }) ∧
     (o.need ≤ o.got + 1 → o.void = true → ∃ t, read t ∧ OnlyCore s t s.cur ∧ goesOn t) ∧
     (o.need ≤ o.got + 1 → o.void = false →
      (∀ a e, o.instr = .xshape a e → s.shapeOk s.cur (p.list 16) = true → ∃ t, read t ∧ OnlyCore s t s.cur ∧ goesOn t ∧
         t.me.drv.readG e = if e = 0 then 0 else if s.me.drv.wroteG[e.toNat] ≤ s.tt then
           (1#1 ++ 0#15 ++ shapeChk (p.list 16) ++ 0#12 ++ BitVec.ofNat 20 o.addr).setWidth 64 else s.readG e) ∧
      (∀ a c e g, o.instr = .agset a c e →
         agenOf (p.words.get 0) (p.words.get 1) (p.words.get 2) (p.words.get 3) = some g →
         vecGet (s.me.engine (engOf c.toNat)).agSet 0 e.toNat ≤ o.issue → ∃ t, read t ∧ OnlyCoreAndAgenda s t s.cur ∧ goesOn t ∧
         Adds s t (dueFor s s.cur 7 rankUnit (.driverWriteEffect (.agen (engOf c.toNat) e.toNat g)))) ∧
      (∀ a b c, o.instr = .tload a b c → s.me.tloads (engOf c.toNat) = [(id, o)] →
         firstBad (engOf c.toNat) (p.words.getRange 0 o.vb.toNat) 0 [] = none →
         ∃ t, read t ∧ OnlyCoreAndAgenda s t s.cur ∧ goesOn t ∧ ∃ bank,
           Adds s t (dueFor s s.cur (o.issue + ((o.vb.toNat + 7) / 8 + 1) + 8 - s.tt) rankUnit
             (.driverWriteEffect (.table (engOf c.toNat) bank (p.words.getRange 0 o.vb.toNat) true))) ∧
           ((∀ d ∈ s.agenda, d.who = s.cur → ∀ e n l f, d.instr ≠ .driverWriteEffect (.table e n l f)) →
             bank = !(s.me.engine (engOf c.toNat)).bank)) ∧
      (∀ form k, (form = 0 ∧ ∃ a b t, o.instr = .xcopy a b t) ∨ (form = 1 ∧ ∃ a b c t, o.instr = .xgather a b c t) ∨
           (form = 2 ∧ ∃ a b c t, o.instr = .xscatter a b c t) →
         shapeChk (p.list 16) = o.vb.extractLsb' 32 16 → s.shapeOk s.cur (p.list 16) = true →
         (form = 0 ∨ p.words.get 5 = 0x00010001) → (if o.free then o.vd.toNat else o.issue) + 32 ≤ o.va.toNat →
         s.copyOf p form o.free = .ok k → s.copyFault k (!o.free) = none → s.buffered k.engine < 64 →
         ∃ t, read t ∧ t.mem = s.mem ∧ goesOn t ∧ (∀ c, c ≠ s.cur → t.core c = s.core c) ∧
           t.copies.find s.fresh = some k ∧ k.stamp = o.va.toNat ∧
           ⟨k.due, rankUnit, if k.onHost then none else k.node, s.fresh, .copyUnitRead 0⟩ ∈ t.agenda) ∧
      (∀ op r, rowOp o.instr = some op → rowCmdOf w op (o.vb.setWidth 32) o.issue = .ok r → ∃ t, read t ∧
         t.mem = s.mem ∧ goesOn t ∧ t.me.rows.find s.fresh = some r ∧ r.start = o.issue + 8 ∧
         t.me.rowBusy = r.start + r.rows * r.period ∧
         Adds s t (dueFor s s.cur (r.start - s.tt) rankUnit (.rowResultPerform s.fresh 0))) ∧
      (∀ op e l, leasedOp o.instr = some (op, e) → leasedDescOk op w = true → s.me.leaseAt (descSlot w) = some l →
         l.kind.toNat = leasedKind op → (o.xs.getD 0 0).getLsbD (descSlot w) = true →
         s.engineOut s.cur (leasedKind op) l.inst = false →
         s.engineBusyTo s.cur (leasedKind op) l.inst ≤ o.issue + s.me.place.hshift →
         (∀ x ∈ leasedSides op w o.vb.toNat, s.me.leasedSideFault (coreDie s.cur) x = none) → ∃ t, read t ∧
         t.mem = s.mem ∧ goesOn t ∧ (∃ r, t.me.leased.find s.fresh = some r ∧ r.op = op ∧ r.lease = descSlot w ∧
           r.reg = e.toNat ∧ r.desc = w ∧ r.operand = o.vb ∧ r.start = o.issue + 8 ∧ r.status = none ∧
           r.finish = (leasedLatency op w o.vb.toNat).map (r.start + ·)) ∧
         Adds s t (dueFor s s.cur (o.issue + 8 - s.tt) rankUnit (.leasedCommandStart s.fresh))) ∧
      (∀ a b n, o.instr = .coll a b → s.me.place.node = some n → collDescOk w = true →
         (if o.free then o.vb.toNat else o.issue) + 32 ≤ o.va.toNat → s.fabric.groups = [] → s.fabric.buckets = [] →
         let sides := collSides (bits (w.getD 3 0) 25 24) (w.getD 4 0).toNat none
         collSpanOk (s.me.spanAt (bits (w.getD 3 0) 5 0)) ((w.getD 0 0).toNat + sides.1.1) sides.1.2 false = true →
         collSpanOk (s.me.spanAt (bits (w.getD 3 0) 13 8)) ((w.getD 1 0).toNat + sides.2.1) sides.2.2 true = true →
         collSpanOk (s.me.spanAt (bits (w.getD 3 0) 21 16)) (w.getD 2 0).toNat 4 true = true →
         ∃ t k m, read t ∧ t.mem = s.mem ∧ goesOn t ∧ t.fabric.buckets.find (64 + s.fresh) = some k ∧ k.node = n ∧
           k.group = (w.getD 5 0).toNat ∧ k.bytes = (w.getD 4 0).toNat ∧ k.stamp = o.va.toNat ∧ k.free = o.free ∧
           k.kind = bits (w.getD 3 0) 25 24 ∧ k.fmt = bits (w.getD 3 0) 27 26 ∧ k.started = false ∧ k.members = [m] ∧
           m.core = some s.cur ∧ m.flag = ((w.getD 3 0).getLsbD 28 && o.flag) ∧
           ∃ d ∈ t.agenda, d.who = 64 + s.fresh ∧ d.instr = .bucketSendTimeout ∧ s.stampClock k = d.cycle))) ∧
    (isBox s.cur = false → ∀ v r, ∃ t, exec (.descriptorGroupRead id group ws (v :: r)) s = .next t ∧
       t.me.ops.find id = none ∧ t.mem = s.mem ∧ t.me.csr.cause = 0x40 ∧ ∃ k, t.me.place.stopAt = some k ∧ k ≤ s.clock)

/-! ### Translation and pins (06, 11) -/

/-- R119, R120, R133: TLBINV at system level holds the driver and waits until no pin of the page is left; it then
completes, no TLB holds the page any more, and XPINs that wait walk again. At user level it is a privilege fault. R119: XPIN
holds the driver for its walk, which reads its entries in HBM through open windows (R207); a walk that finds every page pins
them all and fills the span, one that does not faults, and one that meets a migrating page waits. The issue cost of 1 of the
three instructions (DEDUCED, log 48), that the faults of XPIN's walk are taken at its end (DEDUCED, log 108) and that
XPINs look again when a TLBINV completes (DESIGN CHOICE, log 151) are the model's choices. -/
def Obligations.TranslationAndPins : Prop :=
  (∀ (a b : BitVec 5) (s : State),
     let va := s.readG a
     let asid : BitVec 13 := (s.readG b).setWidth 13
     let pinned := s.pins.any (fun p => p.has asid va)
     (s.me.timed = false → s.me.priv = true → (s.readG b).toNat < 2 ^ 13 →
       (∀ p ∈ s.pins, p.has asid va = true → p.owner = none ∨ p.owner ≠ s.me.place.node) →
       (∀ q ∈ s.invs, q.1 ≠ s.cur) → ∃ t, exec (.tlbinv a b) s = .next t ∧ t.cur = s.cur ∧
         t.me.drv = { s.me.drv with pc := s.me.drv.pc + 4, ready := s.tt + 1, entered := false, hold := some .tlbinv } ∧
         t.invs = s.invs ++ [(s.cur, asid, va)] ∧ t.dies = s.dies ∧
         (pinned = true → t.agenda = s.agenda) ∧
         (pinned = false → ∃ k, 0 < k ∧ Adds s t ⟨s.clock + k, rankVisible, none, s.cur, .tlbinvComplete⟩)) ∧
     (TrapsToVector s → ∃ t, exec (.tlbinv a b) s = .next t ∧
       Trapped s t 0x03 (s.me.drv.pc.setWidth 64) (s.me.drv.pc.setWidth 64) 0) ∧
     ∀ (as : BitVec 13) (x : DWord), s.invs.find? (fun q => q.1 = s.cur) = some (s.cur, as, x) →
       s.pins.any (fun p => p.has as x) = false → (s.rootOfAsid as).bind (fun r => s.walk r x) = none →
       s.me.drv.late = [] → ∃ t, exec .tlbinvComplete s = .next t ∧ t.invs = s.invs.filter (fun q => q.1 ≠ s.cur) ∧
         t.me = { s.me with drv := { s.me.drv with hold := none, ready := s.tt } } ∧
         ((∀ q ∈ s.cores, q.2.drv.hold ≠ some .pin) → t.agenda = s.agenda) ∧
         (∀ q ∈ s.cores, q.1 ≠ s.cur → q.2.drv.hold = some .pin → q.2.walk = [] →
           ⟨s.clock, rankVisible, none, q.1, .xpinComplete⟩ ∈ t.agenda) ∧
         ∀ k : Fin 8, t.dies[k].tlb = s.dies[k].tlb.filter (fun e => !e.serves as x)) ∧
  (∀ (a b c : BitVec 5) (w h : BitVec 1) (s : State),
     let n := c.toNat + 32 * h.toNat
     let len := (s.readG b).toNat
     let pc := s.me.drv.pc - 4
     let r := s.pinRange s.cur (s.readG a).toNat len (w = 1)
     (isBox s.cur = false → s.me.timed = false → 1 ≤ len → len ≤ 2 ^ 29 → s.me.spanAt n = none →
       ∃ t, exec (.xpin a b c w h) s = .next t ∧ t.pins = s.pins ∧ t.me.span = s.me.span ∧
         t.me.drv = { s.me.drv with pc := s.me.drv.pc + 4, ready := s.tt + 1, entered := false, hold := some .pin } ∧
         ∃ k, 0 < k ∧ Adds s t ⟨s.clock + k, rankVisible, none, s.cur, .xpinComplete⟩) ∧
     (s.me.drv.hold = some .pin → decode .driver (BitVec.ofNat 32 (s.me.drv.code.readLE pc.toNat 4)) = .ok (.xpin a b c w h) →
       ∀ pa rest, s.me.walk = pa :: rest → tierOf pa = some .hbm → ∃ t, exec .xpinComplete s = .next t ∧ t.cores = s.cores ∧
         t.pins = s.pins ∧ t.mem = s.mem ∧ Adds s t ⟨s.clock, rankWalker, none, pcOf pa, .openWindowRequest⟩) ∧
     (s.me.drv.hold = some .pin → s.me.drv.late = [] → s.me.walk = [] →
       decode .driver (BitVec.ofNat 32 (s.me.drv.code.readLE pc.toNat 4)) = .ok (.xpin a b c w h) →
       (∀ sp, r.1 = .ok sp → ∃ t, exec .xpinComplete s = .next t ∧ t.me.spanAt n = some sp ∧
         (∀ m, m ≠ n → t.me.spanAt m = s.me.spanAt m) ∧ t.pins = spanPins s.me.asid s.me.place.node sp ++ s.pins ∧
         t.me.drv = { s.me.drv with hold := none, ready := s.tt }) ∧
       (r.1 = .operand → TrapsToVector s → ∃ t, exec .xpinComplete s = .next t ∧ t.me.csr.cause = 0x09 ∧
         t.me.csr.epc = pc.setWidth 64 ∧ t.me.priv = true ∧ t.me.span = s.me.span ∧ t.pins = s.pins) ∧
       (∀ va, r.1 = .missing va → TrapsToVector s → ∃ t, exec .xpinComplete s = .next t ∧ t.me.csr.cause = 0x05 ∧
         t.me.csr.faultVa = BitVec.ofNat 64 va ∧ t.me.priv = true ∧ t.me.span = s.me.span ∧ t.pins = s.pins) ∧
       (r.1 = .wait → ∃ t, exec .xpinComplete s = .next t ∧ t.cores = s.cores ∧ t.pins = s.pins)) ∧
     (isBox s.cur = false → s.me.timed = false →
       (s.me.spanAt n = none → AnswersGoto (.xunpin c h) s 1 (s.me.drv.pc + 4) 0 0) ∧
       ∀ sp, s.me.spanAt n = some sp → s.me.unpinned = [] → ∃ t, exec (.xunpin c h) s = .next t ∧
         t.me.spanAt n = none ∧ (∀ m, m ≠ n → t.me.spanAt m = s.me.spanAt m) ∧ GoesOn s t 4 ∧
         (s.spanNamed s.cur n sp = true → t.pins = s.pins ∧ t.me.unpinned = [(n, sp)]) ∧
         (s.spanNamed s.cur n sp = false → t.me.unpinned = [] ∧
           t.pins = (spanPins s.me.asid s.me.place.node sp).foldl List.erase s.pins)))

/-! ### Leases (06, 15) -/

/-- R122 to R124: LEASE holds the driver in the queue of its die, with a limit on the wait; RELEASE gives the slot back;
LQUERY shows the slot. The issue cost of 1 of the three, which Table 6.1 calls untimed (DEDUCED, log 48), and that RELEASE and
LQUERY check the whole lease word (DEDUCED, log 47) are the model's choices. -/
def Obligations.LeaseInstructions : Prop :=
  ∀ (a e : BitVec 5) (s : State), isBox s.cur = false → s.me.timed = false → leaseWordOk (s.readG a) = true →
    let v := s.readG a
    let n := leaseSlot v
    (s.me.leaseAt n = none → ∃ t, exec (.lease a) s = .next t ∧
      t.me.drv = { s.me.drv with pc := s.me.drv.pc + 4, ready := s.tt + 1, entered := false, hold := some .lease } ∧
      t.me.lease = s.me.lease ∧
      (∀ d : Fin 8, coreDie s.cur = d.val → t.dies[d].waits = insertWait
        ⟨s.cur, n, leaseKind v, leaseBoost v, s.prioOf s.cur, s.clock⟩ s.dies[d].waits) ∧
      ∃ q ∈ t.agenda, q.cycle = s.clock + s.waitLimit s.cur ∧ q.who = s.cur ∧ q.instr = .leaseWaitExpiry) ∧
    (∃ t, exec (.release a) s = .next t ∧ t.me.leaseAt n = none ∧ GoesOn s t 1 ∧
      (∀ m, m ≠ n → t.me.leaseAt m = s.me.leaseAt m) ∧
      ((s.me.leaseAt n).isSome = true → ∀ d : Fin 8, coreDie s.cur = d.val →
        ∀ g ∈ t.dies[d].granted, g.core = s.cur → g.slot ≠ n)) ∧
    AnswersG (.lquery a e) s 1 e (match s.me.leaseAt n with
      | none => 0
      | some l => BitVec.ofNat 64 (1 + (if l.ready then 2 else 0) + 16 * l.kind.toNat + 256 * l.inst))

/-- R122, R255 to R257: a grant fills the slot and lets the core go on; an engine warms up and is then ready, a boost runs
until it expires. R123, R242, R249, R255, R258: a lease that has waited its limit leaves the queue, and its timetable is
pre-empted: save areas are taken, arrivals withdrawn, and its cores in free mode at user level trap before the instruction
that they were to go on with; or it ends LOST where the save pool has no room. That a core goes on with the instruction its
driver is held on is the model's choice (DEDUCED, log 46). A thermal trip turns a leased engine off, loses its sequence and
marks it for eviction, and ends the timetable of a holder with unsaved progress; SBCAP takes its caps, each up to its
maximum. -/
def Obligations.LeaseGrantsAndLimits : Prop :=
  (∀ s : State,
     (∀ (d : Fin 8) (w : LeaseWait), coreDie s.cur = d.val → s.me.drv.hold = some .lease → s.me.drv.late = [] →
       s.dies[d].waits.find? (fun w => w.core = s.cur && firstOfKind s.dies[d].waits w && s.canGrant d.val w) = some w →
       w.slot < 8 → ∃ t, exec .leaseGrant s = .next t ∧ t.me.drv = { s.me.drv with hold := none, ready := s.tt } ∧
         (∃ l, t.me.leaseAt w.slot = some l ∧ l.kind = w.kind ∧ l.boost = w.boost ∧ l.evict = false ∧
           l.ready = decide (w.kind = 4) ∧ l.off = false ∧ l.expired = false) ∧
         (∀ m, m ≠ w.slot → t.me.leaseAt m = s.me.leaseAt m) ∧ t.dies[d].waits = s.dies[d].waits.erase w ∧
         (∃ g, t.dies[d].granted = g :: s.dies[d].granted ∧ g.kind = w.kind ∧ g.core = s.cur ∧ g.slot = w.slot) ∧
         (w.kind ≠ 4 → ∃ q ∈ t.agenda, q.cycle = s.clock + warmup w.kind.toNat ∧ q.instr = .warmupEnd w.slot) ∧
         (w.kind = 4 → ∃ q ∈ t.agenda, q.cycle = s.clock + s.dies[d].blen.toNat ∧ q.instr = .boostExpiry w.slot)) ∧
     ∀ n, n < 8 → ∀ l, s.me.leaseAt n = some l →
       (∃ t, exec (.warmupEnd n) s = .next t ∧ OnlyCore s t s.cur ∧ t.me = { s.me with lease := t.me.lease } ∧
         t.me.leaseAt n = some (if l.kind = 4 then l else { l with ready := true }) ∧
         ∀ m, m ≠ n → t.me.leaseAt m = s.me.leaseAt m) ∧
       ∃ t, exec (.boostExpiry n) s = .next t ∧ OnlyCore s t s.cur ∧ t.me = { s.me with lease := t.me.lease } ∧
         t.me.leaseAt n = some (if l.kind = 4 then { l with expired := true } else l) ∧
         ∀ m, m ≠ n → t.me.leaseAt m = s.me.leaseAt m) ∧
  (∀ s : State,
     (∀ (d : Fin 8) (w : LeaseWait) (n : Nat) (nd : Node), coreDie s.cur = d.val →
       s.dies[d].waits.find? (fun w => w.core = s.cur && w.since + s.waitLimit s.cur ≤ s.clock) = some w →
       s.me.place.node = some n → s.nodes.find n = some nd → nd.state ≠ .restoring → nd.stopping = none →
       nd.leaseWait = false → s.poolRoom n nd = false → ∃ t, exec .leaseWaitExpiry s = .next t ∧ t.mem = s.mem ∧
         t.dies[d].waits = s.dies[d].waits.erase w ∧
         ∃ md, t.nodes.find n = some md ∧ md.verdict = max nd.verdict 4 ∧ md.stopping = some s.clock ∧
           (nd.report = none → ∃ r, md.report = some r ∧ r.cause = 0x10)) ∧
     (∀ (d : Fin 8) (w : LeaseWait) (n : Nat) (nd : Node), coreDie s.cur = d.val →
       s.dies[d].waits.find? (fun w => w.core = s.cur && w.since + s.waitLimit s.cur ≤ s.clock) = some w →
       s.me.place.node = some n → s.nodes.find n = some nd → nd.state ≠ .restoring → nd.stopping = none →
       nd.leaseWait = false → s.poolRoom n nd = true → (s.coresOf n).Nodup → ∃ t, exec .leaseWaitExpiry s = .next t ∧
         t.mem = s.mem ∧ w ∉ t.dies[d].waits ∧ NodeIs t n (fun md => md.leaseWait = true ∧ md.arrived = 0) ∧
         (∃ a ∈ t.saveUsed, s.areasFor n nd = some a) ∧
         ∀ c ∈ s.coresOf n,
           ((s.core c).timed = true → t.core c = s.core c) ∧
           ((s.core c).timed = false → (s.core c).priv = false → (s.core c).csr.tvec ≠ 0xFFFFFFFF → isBox c = false →
             (s.core c).drv.amoFence = false → (t.core c).csr.cause = 0x10 ∧
             (t.core c).csr.epc = ((s.core c).drv.resumePc).setWidth 64 ∧ (t.core c).priv = true ∧
             (t.core c).place.arrived = false ∧
             (t.core c).drv.pc = ((s.core c).csr.tvec.setWidth 16 &&& 0xFFFC))) ∧
     (∀ (d : Fin 8) (g : Granted) (l : Lease), s.cur = d.val →
       s.dies[d].granted.filter (fun g => g.kind.toNat < 4) = [g] → g.slot < 8 →
       (s.core g.core).leaseAt g.slot = some l → (s.core g.core).leased = [] →
       ∃ t, exec .thermalTrip s = .next t ∧ t.mem = s.mem ∧
         (t.core g.core).leaseAt g.slot = some { l with off := true, evict := true } ∧
         (t.core g.core).seqs.find g.slot = none ∧
         (∀ q ∈ t.agenda, q.who = g.core → q.instr ≠ .warmupEnd g.slot) ∧
         ∀ n nd, (s.core g.core).place.node = some n → s.nodes.find n = some nd →
           ∀ q, (s.core g.core).seqs.find g.slot = some q → q.dirty = true →
             ∃ md, t.nodes.find n = some md ∧ md.verdict = max nd.verdict 4) ∧
     ∀ (d : Fin 8) (v : DWord), s.cur = d.val → ∃ t, exec (.sbcapWrite v) s = .next t ∧ t.cores = s.cores ∧
       t.dies[d].capIl = min 16 (v.extractLsb' 0 5).toNat ∧ t.dies[d].capSrt = min 16 (v.extractLsb' 8 5).toNat ∧
       t.dies[d].capInf = min 32 (v.extractLsb' 16 6).toNat ∧ t.dies[d].capSh = min 8 (v.extractLsb' 24 4).toNat ∧
       t.dies[d].capBoost = min 15 (v.extractLsb' 32 4).toNat ∧ t.dies[d].waits = s.dies[d].waits ∧
       t.dies[d].granted.map (fun g => (g.kind, g.inst, g.core, g.slot)) =
         s.dies[d].granted.map (fun g => (g.kind, g.inst, g.core, g.slot)) ∧
       ∀ k : Fin 8, k ≠ d → t.dies[k] = s.dies[k])

/-! ### Common micro-orders (09) -/

/-- R14, R56, R58, R186, R187: IDLE waits; ELOOP opens a body or skips it; TKPUSH makes a token that can be popped two
cycles on, and is a token overflow with eight of them; NOTIFY ends the engine. An order whose token is not there is a
miss. -/
def Obligations.CommonOrders : Prop :=
  ∀ (s : State) (e : Eng) (y : BitVec 4) (q : Queues),
    let g := s.me.engine e
    let i := g.step.toNat
    (MayIssue s e false 0 q →
      (∀ n : BitVec 20, ∃ t, exec (.idle y n) s = .next t ∧ OnlyEngine s t e
        { (g.goOn s.tt 1 i) with base := s.tt + n.toNat + 1 }) ∧
      ∀ (l : BitVec 2) (n : BitVec 10), let count := (vecGet g.lc 0 l.toNat).toNat
        (0 < count → ∃ t, exec (.eloop y l n) s = .next t ∧ OnlyEngine s t e
          { g with loops := ⟨i + 1, i + n.toNat, count - 1⟩ :: g.loops, step := g.step + 1, base := s.tt + 1,
                   first := false }) ∧
        (count = 0 → ∃ t, exec (.eloop y l n) s = .next t ∧ OnlyEngine s t e (g.goOn s.tt 1 (i + n.toNat)))) ∧
    ∀ k : BitVec 2,
      (MayIssue s e false k.toNat q →
        (∀ f : BitVec 3, f.toNat < 6 →
          let held := (vecGet s.me.q.token [] f.toNat).length + (if (vecGet s.me.q.popped (0, 0) f.toNat).1 = s.tt
            then (vecGet s.me.q.popped (0, 0) f.toNat).2 else 0)
          (held < 8 → ∃ t, exec (.tkpush y k f) s = .next t ∧ OnlyCore s t s.cur ∧ GoneOn s t e none ∧
            t.me = { s.me with eng := t.me.eng, q := t.me.q } ∧
            vecGet t.me.q.token [] f.toNat = vecGet q.token [] f.toNat ++ [s.tt + 2] ∧
            ∀ h, h ≠ f.toNat → vecGet t.me.q.token [] h = vecGet q.token [] h) ∧
          (8 ≤ held → ∃ t, exec (.tkpush y k f) s = .next t ∧ Stopped s t 0x25 3)) ∧
        ∃ t, exec (.notify y k) s = .next t ∧ OnlyCoreAndAgenda s t s.cur ∧
          (t.me.engine e).status = .done ∧ (∀ f, f ≠ e → t.me.engine f = s.me.engine f) ∧
          t.me = { s.me with eng := t.me.eng, q := q }) ∧
      ∀ f, s.curEng = e → s.me.q.popTokens s.tt (kFifos e k.toNat) = .error f → ∀ h,
        (∃ t, exec (.tkpush y k h) s = .next t ∧ Stopped s t 0x20 3) ∧
        ∃ t, exec (.notify y k) s = .next t ∧ Stopped s t 0x20 3

/-! ### The vector engine (08) -/

/-- R154 to R156, R158: the floating-point orders: one rounding of the exact result for each element of the predicate,
visible 8 cycles on; VNF where a result is not finite although its inputs are. -/
def Obligations.VectorFloat : Prop :=
  ∀ (y : BitVec 4) (k : BitVec 1) (d a b : BitVec 5) (p : BitVec 3) (m : BitVec 2) (s : State),
    let srcs := [(a, m.getLsbD 1), (b, m.getLsbD 0)]
    let old := s.me.vec.operand (physReg s.me.vec.rrb d.toNat)
    (∀ o ∈ floatTable, VectorComputes (o.1 y k d a b p m) s 4 8 k p d srcs (fun xs e =>
      floatResult [elemOf xs 0 e, elemOf xs 1 e] (o.2 (elemOf xs 0 e) (elemOf xs 1 e)))) ∧
    (∀ o ∈ fusedTable, d.toNat < 24 → (∀ e, old.isBad e = false) →
      VectorComputes (o.1 y k d a b p m) s 4 8 k p d srcs (fun xs e =>
        floatResult [elemOf xs 0 e, elemOf xs 1 e, old.at_ e]
          (o.2 (elemOf xs 0 e) (elemOf xs 1 e) (old.at_ e))))

/-- R54, R156, R158: the special functions, VSCL, VABS and VMOV. -/
def Obligations.VectorUnary : Prop :=
  ∀ (y : BitVec 4) (k : BitVec 1) (d a : BitVec 5) (p : BitVec 3) (m : BitVec 1) (s : State),
    (∀ o ∈ specialTable, VectorComputes (o.1 y k d a p m) s 8 16 k p d [(a, m = 1)] (fun xs e =>
      floatResult [elemOf xs 0 e] (o.2 (elemOf xs 0 e)))) ∧
    (∀ i : BitVec 10, VectorComputes (.vscl y k d a i) s 4 8 k 0 d [(a, false)] (fun xs e =>
      floatResult [elemOf xs 0 e] (toF32 ((f32 (elemOf xs 0 e)).scale i.toInt)))) ∧
    VectorComputes (.vabs y k d a p m) s 4 8 k p d [(a, m = 1)] (fun xs e =>
      (if f32isNaN (elemOf xs 0 e) then 0x7FC00000#32 else elemOf xs 0 e &&& 0x7FFFFFFF#32, false)) ∧
    VectorComputes (.vmov y k d a p m) s 4 8 k p d [(a, m = 1)] (fun xs e => (elemOf xs 0 e, false))

/-- R70, R159: the integer orders; an exact result wraps, or is clamped where the order saturates, which only one with a
register for its second source can. -/
def Obligations.VectorInteger : Prop :=
  ∀ (y : BitVec 4) (k : BitVec 1) (d a b : BitVec 5) (p : BitVec 3) (m : BitVec 2) (s : State),
    let reg := decide (b.toNat < 24)
    (∀ o ∈ exactTable, VectorComputes (o.1 y k d a b p m) s 4 8 k p d [(a, m.getLsbD 1), (b, !reg && m.getLsbD 0)]
      (fun xs e => let r := o.2 (elemOf xs 0 e) (elemOf xs 1 e)
        (BitVec.ofInt 32 (if reg && m.getLsbD 0 then max (-2147483648) (min 2147483647 r) else r), false))) ∧
    ∀ o ∈ wordTable, VectorComputes (o.1 y k d a b p m) s 4 8 k p d [(a, m.getLsbD 1), (b, m.getLsbD 0)]
      (fun xs e => (o.2 (elemOf xs 0 e) (elemOf xs 1 e), false))

/-- R160, R165 to R167: VSEL takes each element by its mask bit; the rotations, broadcasts, reductions and constants.
R160: VCMP and VMLOG give a mask, 8 cycles on. -/
def Obligations.VectorMovesAndMasks : Prop :=
  (∀ (y : BitVec 4) (k : BitVec 1) (d a b : BitVec 5) (p : BitVec 3) (m o : BitVec 2) (i : BitVec 10) (s : State),
     let move := fun (n : Instr) (lat : Nat) (f : Nat → Nat) =>
       VectorComputes n s 4 lat k 0 d [(a, false)] (fun xs e => (elemOf xs 0 (f e), false))
     VectorComputes (.vsel y k d a b p m) s 4 8 k 0 d [(a, m.getLsbD 1), (b, m.getLsbD 0)] (fun xs e =>
       (if s.me.vec.maskBit p.toNat e then elemOf xs 0 e else elemOf xs 1 e, false)) ∧
     move (.vrotr y k d a i) 10 (fun e => 64 * (e / 64) + (e % 64 + 64 - i.toNat % 64) % 64) ∧
     move (.vrotc y k d a i) 14 (fun e => 64 * ((e / 64 + 16 - i.toNat % 16) % 16) + e % 64) ∧
     (i.toNat < 16 → move (.vbcr y k d a i) 14 (fun e => 64 * i.toNat + e % 64)) ∧
     (i.toNat < 64 → move (.vbcc y k d a i) 10 (fun e => 64 * (e / 64) + i.toNat)) ∧
     VectorComputes (.vredr y k d a o) s 4 16 k 0 d [(a, false)] (fun xs e =>
       reduceList o 6 ((List.range 64).map (fun c => elemOf xs 0 (64 * (e / 64) + c)))) ∧
     VectorComputes (.vredc y k d a o) s 4 12 k 0 d [(a, false)] (fun xs e =>
       reduceList o 4 ((List.range 16).map (fun r => elemOf xs 0 (64 * r + e % 64)))) ∧
     VectorComputes (.vldi y k d i) s 4 8 k 0 d [] (fun _ _ => (i.signExtend 32, false)) ∧
     VectorComputes (.viota y k d i) s 4 8 k 0 d [] (fun _ e => (i.signExtend 32 + BitVec.ofNat 32 e, false))) ∧
  (∀ (y : BitVec 4) (k : BitVec 1) (s : State) (q0 : Queues), MayIssue s .vector true k.toNat q0 →
     let gives := fun (t : State) (q : Queues) (m : BitVec 3) (bit : Nat → Bool) =>
       VectorIssued s t q 4 8 ⟨.mask m.toNat,
         (List.range 1024).filterMap (fun e => if bit e then some (e, 1#32) else none), [], false⟩ false
     (∀ (c p : BitVec 3) (a b : BitVec 5) (m : BitVec 2) (xs : List VOperand) (q : Queues),
       readSources s.me.vec q0 [(a, m.getLsbD 1), (b, m.getLsbD 0)] = some (xs, q) →
       (∀ x ∈ xs, x.bad = []) → ∃ t, exec (.vcmp y k c a b p m) s = .next t ∧
         gives t q p (fun e => vcond c (elemOf xs 0 e) (elemOf xs 1 e))) ∧
     ∀ (d : BitVec 3) (a b : BitVec 5), ∀ l ∈ plogTable, ∃ t, exec (.vmlog y k d a b l.1) s = .next t ∧
       gives t q0 d (fun e => l.2 (s.me.vec.maskBit a.toNat e) (s.me.vec.maskBit b.toNat e)))

/-- R161 to R164: VCVT's conversions; VQNT packs the quantised runs of each row, VDQNT gives their values and VHAD the rotated
blocks, visible 20 cycles on; a check byte that is not the tag's makes a VDQNT's results a rotation-tag fault; a rounding with
random bits counts one draw of the engine. -/
def Obligations.VectorConversions : Prop :=
  ∀ (y q : BitVec 4) (k v : BitVec 1) (d a : BitVec 5) (f : BitVec 3) (r : BitVec 2) (s : State) (q0 : Queues),
    MayIssue s .vector true k.toNat q0 → a.toNat < 24 → s.me.vec.bad = [] →
    let x := s.me.vec.operand (physReg s.me.vec.rrb a.toNat)
    let g := s.me.engine .vector
    let sr := fun (t : State) => (t.me.engine .vector).sr = (if r = 2 then g.sr + 1 else g.sr)
    let fills := fun (t : State) (lat : Nat) (l : List (Nat × Word)) => l.map Prod.fst = List.range 1024 ∧
      dueFor s s.cur lat rankVisible (.vectorWriteVisible ⟨destOf s d, l, [], false⟩) ∈ t.agenda
    (∃ t, exec (.vcvt y k d a f r) s = .next t ∧ OnlyCoreAndAgenda s t s.cur ∧ sr t ∧
      fills t 8 ((List.range 1024).map (fun e =>
        (e, (convert f.toNat r.toNat (srDraw s.me.view.rngseed g.sr.toNat) e (x.at_ e)).1)))) ∧
    (∃ t, exec (.vqnt y k d a q f v r) s = .next t ∧ OnlyCoreAndAgenda s { t with fresh := s.fresh } s.cur ∧ sr t ∧
      ∃ l, fills t 20 l ∧ ∀ row c, row < 16 → c < 64 →
        let n := s.quantNarrowing q f v r
        let bytes := lineBytes n.code ((n.row row (x.row row)).map Prod.fst)
        (64 * row + c, BitVec.ofNat 32 (leNat ((List.range 4).map (fun i => bytes.getD (4 * c + i) 0)))) ∈ l) ∧
    (∃ t, exec (.vhad y k d a q f v) s = .next t ∧ OnlyCoreAndAgenda s t s.cur ∧ ∃ l, fills t 20 l ∧
      ∀ n c, n < 32 → c < 32 → (64 * (n / 2) + 32 * (n % 2) + c, ((hadBlock (f = 1) (s.me.seedAt q.toNat) (v = 1)
        ((List.range 32).map (fun j => x.at_ (64 * (n / 2) + 32 * (n % 2) + j)))).1.getD c 0)) ∈ l) ∧
    let code := f.toNat + 3
    (x.checkBad code ⟨true, true, v = 1, q⟩ = false → ∃ t, exec (.vdqnt y k d a q f v) s = .next t ∧
      OnlyCoreAndAgenda s t s.cur ∧ ∃ l, fills t 20 l ∧ ∀ row h b, row < 16 → (x.runs code row)[h]? = some b → ∀ c, c < 32 →
        (64 * row + 32 * h + c, (b.dequant code (s.me.seedAt q.toNat) (v = 1)).getD c 0) ∈ l) ∧
    (x.checkBad code ⟨true, true, v = 1, q⟩ = true → ∃ t, exec (.vdqnt y k d a q f v) s = .next t ∧
      OnlyCoreAndAgenda s t s.cur ∧
      dueFor s s.cur 20 rankVisible (.vectorWriteVisible ⟨.tagFault g.site, [], [], false⟩) ∈ t.agenda)

/-- R168 to R172: VLOOPB opens the loop at the next word; VLOOPE rotates the registers down by one, shifts the stage
predicates and branches back while a stage is active; VEXIT leaves; VFLAG clears VNF in the next cycle. What a driver reads
of the loop changes two cycles after the issue of its order. R13, R21,
R155, R163: a result that becomes visible fills the elements it names of its register, its mask, or a new entry of an
outbound queue, and no other; an outbound queue that is full overflows; a mask 0 keeps its ones. -/
def Obligations.VectorLoopAndResults : Prop :=
  (∀ (y : BitVec 4) (k : BitVec 1) (s : State) (q0 : Queues), MayIssue s .vector true k.toNat q0 →
     let g := s.me.engine .vector
     let v := s.me.vec
     let frame := fun (t : State) (w : VectorStore) => OnlyCore s t s.cur ∧ (t.me.engine .vector).busy = s.tt + 1 ∧
       t.me = { s.me with q := q0, eng := t.me.eng, vec := w, charge := t.me.charge }
     let shown := (v.rrb, v.sp, v.vloop.isSome)
     (∀ (n a : BitVec 5) (i : BitVec 10), v.vloop = none → ∃ t, exec (.vloopb y k n a i) s = .next t ∧
       GoneOn s t .vector (some 1) ∧
       let count := if a = 0 then i.toNat else (vecGet g.lc 0 (a.toNat - 1)).toNat
       frame t { v with rrb := 0, sp := if count = 0 then 1 else 3, before := shown, loopFrom := s.tt + 2,
                        vloop := some ⟨(g.step.toNat + 1) % 1024, count, n.toNat, 1, none⟩ }) ∧
     (∀ l, v.vloop = some l → g.loops = [] →
       let sp := ((v.sp &&& 0xFE#8) <<< 1) ||| (if l.pass < l.passes then 3 else 1)
       let more := (List.range' 1 l.stages).any sp.getLsbD
       (more = true → ∃ t, exec (.vloope y k) s = .next t ∧ (t.me.engine .vector).step = BitVec.ofNat 10 l.head ∧
         frame t { v with rrb := v.rrb - 1, sp := sp, before := shown, loopFrom := s.tt + 2,
                          vloop := some ⟨l.head, l.passes, l.stages, l.pass + 1, some g.step.toNat⟩ }) ∧
       (more = false → ∃ t, exec (.vloope y k) s = .next t ∧ GoneOn s t .vector (some 1) ∧
         frame t { v with rrb := v.rrb - 1, sp := 1, vloop := none, before := shown, loopFrom := s.tt + 2 })) ∧
     (∀ p : BitVec 3,
       ((v.vloop = none ∨ (p ≠ 0 ∧ v.sp.getLsbD p.toNat = true)) → ∃ t, exec (.vexit y k p) s = .next t ∧
         GoneOn s t .vector (some 1) ∧ frame t v) ∧
       (v.vloop ≠ none → (p = 0 ∨ v.sp.getLsbD p.toNat = false) → g.loops = [] →
         ∀ n, findVloope g 1024 (g.step.toNat + 1) = some n → ∃ t, exec (.vexit y k p) s = .next t ∧
           (t.me.engine .vector).step = BitVec.ofNat 10 ((n + 1) % 1024) ∧ 
             frame t { v with vloop := none, sp := 1, before := shown, loopFrom := s.tt + 2 })) ∧
     ∃ t, exec (.vflag y k) s = .next t ∧ OnlyCoreAndAgenda s t s.cur ∧ GoneOn s t .vector (some 1) ∧
       t.me = { s.me with q := q0, eng := t.me.eng, charge := t.me.charge } ∧
       Adds s t (dueFor s s.cur 1 rankFlag (.vectorWriteVisible ⟨.flag, [], [], false⟩))) ∧
  (∀ (s : State) (w : VResult),
     (∀ r, w.dest = .reg r → w.elems.map Prod.fst = List.range 1024 → w.poison = [] →
       ∃ t, exec (.vectorWriteVisible w) s = .next t ∧ OnlyCore s t s.cur ∧
         t.me = { s.me with vec := { s.me.vec with v := t.me.vec.v, bad := t.me.vec.bad } } ∧
         (∀ p ∈ w.elems, t.me.vec.v.get (1024 * r + p.1) = p.2) ∧
         ∀ c, c < 1024 * r ∨ 1024 * r + 1024 ≤ c → t.me.vec.v.get c = s.me.vec.v.get c) ∧
     (∀ m, w.dest = .mask m → 0 < m → (∀ p ∈ w.elems, p.1 < 1024) → ∃ t, exec (.vectorWriteVisible w) s = .next t ∧
       OnlyCore s t s.cur ∧ t.me = { s.me with vec := { s.me.vec with m := t.me.vec.m } } ∧
       ∀ e, e < 1024 → t.me.vec.maskBit m e = w.elems.any (fun p => p.1 = e)) ∧
     (w.dest = .mask 0 → ∃ t, exec (.vectorWriteVisible w) s = .next t ∧ t = s) ∧
     (∀ q site, w.dest = .queue q site → q < 4 → w.elems.map Prod.fst = List.range 1024 →
       ((vecGet s.me.q.oq [] q).length < 4 → ∃ t, exec (.vectorWriteVisible w) s = .next t ∧ OnlyCore s t s.cur ∧
         t.me = { s.me with q := { s.me.q with oq := t.me.q.oq } } ∧
         (∀ p, p ≠ q → vecGet t.me.q.oq [] p = vecGet s.me.q.oq [] p) ∧
         ∃ e, vecGet t.me.q.oq [] q = vecGet s.me.q.oq [] q ++ [e] ∧ ∀ p ∈ w.elems, e.words.get p.1 = p.2) ∧
       (4 ≤ (vecGet s.me.q.oq [] q).length → ∃ t, exec (.vectorWriteVisible w) s = .next t ∧ Stopped s t 0x24 3)) ∧
     (w.dest = .flag → ∃ t, exec (.vectorWriteVisible w) s = .next t ∧ OnlyCore s t s.cur ∧
       t.me = { s.me with vec := { s.me.vec with vnf := w.vnf } }) ∧
     ∀ site, w.dest = .tagFault site → ∃ t, exec (.vectorWriteVisible w) s = .next t ∧ Stopped s t 0x28 3)

/-! ### The matrix engine (07) -/

/-- R145, R146, R149, R278: MZERO, MCOPY and MAFF place one write of a tile; MMARK opens a milestone window with the tile
as its shadow, at most eight at a time and one a tile, else it is an occupancy fault; one open for 4,096 cycles is an overrun.
R19, R20, R136, R142, R145: a write that becomes visible fills its tile, its slot, its growth byte or the sticky flags, and
nothing else. That MAFF changes the tile as it stands at its visibility, and MCOPY copies it as it stands at issue, is the
model's choice (DEDUCED, log 28). -/
def Obligations.MatrixTiles : Prop :=
  (∀ (y : BitVec 4) (k : BitVec 1) (d a e : BitVec 6) (s : State) (q0 : Queues), MayIssue s .matrix true k.toNat q0 →
     let m := s.me.mx
     let writes := fun (i : Instr) (occ lat : Nat) (q : Queues) (w : TileWrite) => ∃ t, exec i s = .next t ∧
       MatrixIssued s t q occ ∧ t.me.mx = { m with owed := max m.owed (s.tt + lat), drawn := t.me.mx.drawn } ∧
       Adds s t (dueFor s s.cur lat rankVisible (.tileWriteVisible w))
     writes (.mzero y k d) 1 2 q0 (.tile d.toNat (List.replicate 4096 0) [] s.tt) ∧
     (m.tileBad a.toNat = [] → writes (.mcopy y k d a) 2 4 q0 (.tile d.toNat (m.tileWords a.toNat) [] s.tt)) ∧
     (∀ beta rest, q0.param = ⟨beta, false⟩ :: rest → writes (.maff y k d e) 2 4 { q0 with param := rest }
       (.affine d.toNat false (if e = 0x20#6 then none else some e.toInt) beta false s.tt)) ∧
     (q0.param = [] → ∃ t, exec (.maff y k d e) s = .next t ∧ Stopped s t 0x23 3) ∧
     ((∀ w ∈ m.windows, w.tile ≠ d.toNat) → m.windows.length < 8 → ∃ t, exec (.mmark y k d) s = .next t ∧
       MatrixIssued s t q0 1 ∧ (∃ w, t.me.mx = { m with windows := m.windows ++ [w] } ∧ w.tile = d.toNat ∧
         w.opened = s.tt ∧ w.replayable = true ∧ w.draining = false ∧ w.held = [] ∧
         ∀ c, c < 4096 → w.shadow.get c = m.acc.get (4096 * d.toNat + c)) ∧
       Adds s t (dueFor s s.cur 4096 rankCheck (.windowOverrun d.toNat s.tt (s.me.engine .matrix).site))) ∧
     ((∃ w ∈ m.windows, w.tile = d.toNat) ∨ 8 ≤ m.windows.length →
       ∃ t, exec (.mmark y k d) s = .next t ∧ Stopped s t 0x26 3)) ∧
  (∀ s : State,
     let only := fun (t : State) => OnlyCore s t s.cur ∧ t.me = { s.me with mx := t.me.mx }
     (∀ tile ws order, ws.length = 4096 → ∃ t, exec (.tileWriteVisible (.tile tile ws [] order)) s = .next t ∧ only t ∧
       t.me.mx.slots = s.me.mx.slots ∧ TileHolds s t tile (fun i j => ws.getD (64 * i + j) 0)) ∧
     (∀ tile neg e beta order, ∃ t, exec (.tileWriteVisible (.affine tile neg (some e) beta false order)) s = .next t ∧ only t ∧
       TileHolds s t tile (fun i j =>
         let x := (f32 (s.me.mx.acc.get (4096 * tile + 64 * i + j))).scale e
         let x := if neg then x.neg else x
         toF32 (if i = j then x.add (f32 beta) else x))) ∧
     (∀ tile neg beta order, ∃ t, exec (.tileWriteVisible (.affine tile neg none beta false order)) s = .next t ∧ only t ∧
       TileHolds s t tile (fun i j => if i = j then toF32 (f32 beta) else 0)) ∧
     (∀ job n j, n < 4 → s.me.mx.jobs.find job = some j → ∃ t,
       exec (.tileWriteVisible (.promoted job n)) s = .next t ∧ only t ∧ t.me.mx.acc = s.me.mx.acc ∧
         t.me.mx.slot n = j.right ∧ ∀ m, m ≠ n → t.me.mx.slot m = s.me.mx.slot m) ∧
     (∀ job n j, n < 4 → s.me.mx.jobs.find job = some j → ∃ t,
       exec (.tileWriteVisible (.slot job n)) s = .next t ∧ t.me.mx.acc = s.me.mx.acc ∧
         t.me.mx.slot n = s.loadedSlot j ∧ ∀ m, m ≠ n → t.me.mx.slot m = s.me.mx.slot m) ∧
     (∀ tile v, (h : tile < 64) → ∃ t, exec (.tileWriteVisible (.growth tile v)) s = .next t ∧ only t ∧
       t.me.mx = { s.me.mx with growth := s.me.mx.growth.set tile v }) ∧
     ∀ ovf sat, ∃ t, exec (.tileWriteVisible (.flags ovf sat)) s = .next t ∧ OnlyCore s t s.cur ∧ t.me = { s.me with
       csr := { s.me.csr with mstat := s.me.csr.mstat ||| ((if ovf then 1 else 0) ||| (if sat then 2 else 0)) } })

/-- R17, R149, R278: a window that is still open after 4,096 cycles ends the timetable; MDRAIN's end closes its window and
releases the ring slots that no other window holds; a slot that is released is no longer FULL. R13, R17, R148: an
entry of a drain joins its queue, and overflows one that is full; the slot of a drain is pushed at the ring's tail
with the tag of the drain, FULL and the sequence number; a full slot is an overflow. -/
def Obligations.WindowsSlotsAndDrains : Prop :=
  (∀ (s : State) (tile opened site : Nat),
     ((∃ w ∈ s.me.mx.windows, w.tile = tile ∧ w.opened = opened) →
       ∃ t, exec (.windowOverrun tile opened site) s = .next t ∧ Stopped s t 0x2E 3) ∧
     ((∀ w ∈ s.me.mx.windows, w.tile = tile → w.opened ≠ opened) →
       ∃ t, exec (.windowOverrun tile opened site) s = .next t ∧ t = s) ∧
     (∀ w, s.me.mx.windows.find? (fun w => w.tile = tile) = some w →
       ∃ t, exec (.mdrainComplete tile) s = .next t ∧ OnlyCore s t s.cur ∧
         t.me.mx = { s.me.mx with windows := s.me.mx.windows.filter (fun x => x.tile ≠ tile) } ∧
         (∀ r n, r < 16 → (r, n) ∈ w.held → (∀ x ∈ s.me.mx.windows, x.tile ≠ tile → (r, n) ∉ x.held) →
           (t.me.getRing r).full n = false) ∧
         ∀ r n, (r, n) ∉ w.held → (t.me.getRing r).tags.get n = (s.me.getRing r).tags.get n) ∧
     ∀ r n, r < 16 → ∃ t, exec (.ringSlotRelease r n) s = .next t ∧ OnlyCore s t s.cur ∧ (t.me.getRing r).full n = false ∧
       (∀ m, m ≠ n → (t.me.getRing r).tags.get m = (s.me.getRing r).tags.get m) ∧
       ∀ m, m ≠ r → t.me.getRing m = s.me.getRing m) ∧
  (∀ s : State,
     (∀ (q : Nat) (order : Nat × List Nat) (e : Entry), q < 4 →
       ((vecGet s.me.q.oq [] q).length < 4 → ∃ t, exec (.mdrainEntryPush q order e) s = .next t ∧ OnlyCore s t s.cur ∧
         t.me = { s.me with q := { s.me.q with oq := t.me.q.oq } } ∧
         vecGet t.me.q.oq [] q = vecGet s.me.q.oq [] q ++ [e] ∧
         ∀ p, p ≠ q → vecGet t.me.q.oq [] p = vecGet s.me.q.oq [] p) ∧
       (4 ≤ (vecGet s.me.q.oq [] q).length → ∃ t, exec (.mdrainEntryPush q order e) s = .next t ∧ Stopped s t 0x24 3)) ∧
     ∀ (job : Nat) (j : MatrixJob), s.me.mx.jobs.find job = some j → j.ring < 16 →
       let r := s.me.getRing j.ring
       (r.full r.tail.toNat = false → ∃ t, exec (.mdrainSlotPush job) s = .next t ∧ OnlyCore s t s.cur ∧
         t.me.mx.jobs = s.me.mx.jobs.drop job ∧ (t.me.getRing j.ring).full r.tail.toNat = true ∧
         (t.me.getRing j.ring).tags.get r.tail.toNat = j.tag ||| 0x08000000#32 ||| r.seqIn.setWidth 32 ∧
         (t.me.getRing j.ring).tail = r.after r.tail ∧ (t.me.getRing j.ring).seqIn = r.seqIn + 1 ∧
         ∀ m, m ≠ j.ring → t.me.getRing m = s.me.getRing m) ∧
       (r.full r.tail.toNat = true → ∃ t, exec (.mdrainSlotPush job) s = .next t ∧ Stopped s t 0x24 3))

/-- R135, R137 to R139, R143, R340: a product takes its waybill and, for MMUL, the head slot of its ring; its units become
visible in the cycles that the pair of formats gives. R135, R137: a unit adds its exact sum of products to every cell
of its tile with one rounding, to zero in the first unit of a product that starts anew, and to no other tile. -/
def Obligations.MatrixProductsAndUnits : Prop :=
  (∀ (y : BitVec 4) (k : BitVec 1) (d a : BitVec 6) (r : BitVec 4) (n : BitVec 2) (s : State) (q0 : Queues) (wb : Word)
       (rest : List Pushed) (occ u : Nat), MayIssue s .matrix true k.toNat q0 → q0.waybill = ⟨wb, false⟩ :: rest →
     let v := s.me.mx.slot n.toNat
     bits wb 31 22 = 0 → pairOf (wbMfmt wb) (wbSfmt wb) = some (occ, u) → v.bad = [] →
     productOk wb v (s.me.mx.carry.find d.toNat).isSome = true →
     (wbGrp wb ≠ 3 → wbMode wb ≠ 3 → wbMfmt wb ≤ 8 → s.me.laneByOther 0 s.tt (s.tt + occ + 1) = false →
       SlotReady s r.toNat (wbMfmt wb) (wbGrp wb) → tagExpected wb true (headTag s r.toNat) = true →
       tagPair (headTag s r.toNat) v.tag = true → ∃ t, exec (.mmul y k d r n) s = .next t ∧
         MatrixIssued s t { q0 with waybill := rest } occ ∧ SlotTaken s t r.toNat ∧ UnitsDue s t s.fresh wb v occ u ∧
         ∃ j, t.me.mx.jobs.find s.fresh = some j ∧ j.tile = d.toNat ∧ j.right = v ∧ j.waybill = wb) ∧
     (wbMode wb ≤ 1 → wbMfmt wb ≤ 5 → tagPair (arrayTag wb true) v.tag = true → s.me.mx.tileBad a.toNat = [] →
       ∃ t, exec (.mmula y k d a n) s = .next t ∧ MatrixIssued s t { q0 with waybill := rest } occ ∧
         UnitsDue s t s.fresh wb v occ u ∧
         ∃ j, t.me.mx.jobs.find s.fresh = some j ∧ j.tile = d.toNat ∧ j.right = v ∧ j.waybill = wb)) ∧
  (∀ (s : State) (job u occ uk : Nat) (j : MatrixJob), s.me.mx.jobs.find job = some j →
     pairOf (wbMfmt j.waybill) (wbSfmt j.waybill) = some (occ, uk) → uk ≠ 0 →
     ∃ t, exec (.matrixUnitVisible job u) s = .next t ∧ OnlyCore s t s.cur ∧
       t.me = { s.me with mx := t.me.mx } ∧ t.me.mx.slots = s.me.mx.slots ∧
       TileHolds s t j.tile (fun i c => unitStep (s.sidesOf j).1 (s.sidesOf j).2
         (if wbMode j.waybill = 0 ∧ u = 0 then 0 else s.me.mx.acc.get (4096 * j.tile + 64 * i + c)) i c (u * uk) uk))

/-- R138 to R142, R147, R151: MLDS and MFILL take their waybill and ring slot and write 66 cycles on; MPROM converts the
columns of a tile along k and writes the slot 6 cycles on, with the growth of the tile and the flags of its conversion; MITER
takes its parameters and is busy for its recipe. -/
def Obligations.MatrixLoads : Prop :=
  ∀ (y : BitVec 4) (k e : BitVec 1) (d a : BitVec 6) (r : BitVec 4) (n rc : BitVec 2) (s : State) (q0 : Queues)
      (wb : Word) (rest : List Pushed), MayIssue s .matrix true k.toNat q0 → q0.waybill = ⟨wb, false⟩ :: rest →
    bits wb 31 22 = 0 →
    let q := { q0 with waybill := rest }
    let job := fun (t : State) (tile : Nat) => ∃ j, t.me.mx.jobs.find s.fresh = some j ∧ j.tile = tile ∧ j.waybill = wb
    let tag := headTag s r.toNat
    (wbGrp wb ≠ 3 → wbSfmt wb ≤ 8 → s.me.laneByOther (if e = 1 then 0 else 1) s.tt (s.tt + 65) = false →
      SlotReady s r.toNat (wbSfmt wb) (wbGrp wb) →
      tagExpected wb false (if e = 1 then { tag with axis := !tag.axis } else tag) = true →
      ∃ t, exec (.mlds y k r n e) s = .next t ∧ MatrixIssued s t q 64 ∧ SlotTaken s t r.toNat ∧ job t n.toNat ∧
        dueFor s s.cur 66 rankVisible (.tileWriteVisible (.slot s.fresh n.toNat)) ∈ t.agenda) ∧
    (wbMfmt wb ≤ 8 → wbGrp wb ≠ 3 → s.me.laneByOther 0 s.tt (s.tt + 65) = false →
      SlotReady s r.toNat (wbMfmt wb) (wbGrp wb) → tagExpected wb true tag = true →
      ∃ t, exec (.mfill y k d r e) s = .next t ∧ MatrixIssued s t q 64 ∧ SlotTaken s t r.toNat ∧ job t d.toNat ∧
        dueFor s s.cur 66 rankVisible (.tileWriteVisible (.fill s.fresh d.toNat (e = 1))) ∈ t.agenda) ∧
    (wbRnd wb ≠ 3 → wbSfmt wb ≤ 5 → s.me.mx.tileBad a.toNat = [] →
      let p := promote (promotion s.me wb s.me.view.rngseed) (arrayTag wb false) (s.me.mx.tileWords a.toNat) []
      ∃ t, exec (.mprom y k a n) s = .next t ∧ MatrixIssued s t q 4 ∧
        (∃ j, t.me.mx.jobs.find s.fresh = some j ∧ j.tile = a.toNat ∧ j.waybill = wb ∧ j.right = p.1) ∧
        (p.2.ovf = true ∨ p.2.sat = true →
          dueFor s s.cur 6 rankFlag (.tileWriteVisible (.flags p.2.ovf p.2.sat)) ∈ t.agenda) ∧
        dueFor s s.cur 6 rankVisible (.tileWriteVisible (.promoted s.fresh n.toNat)) ∈ t.agenda ∧
        dueFor s s.cur 6 rankFlag (.tileWriteVisible (.growth a.toNat (growthOf (s.me.mx.tileWords a.toNat)))) ∈ t.agenda) ∧
    ∀ occ u cnt c rest', pairOf (wbMfmt wb) (wbSfmt wb) = some (occ, u) → wbRnd wb ≠ 3 → wbRte wb = false →
      wbMfmt wb ≤ 5 → wbSfmt wb ≤ 5 → q0.param = ⟨cnt, false⟩ :: ((if rc = 1 then [⟨c, false⟩] else []) ++ rest') →
      0 < cnt.toNat → cnt.toNat < 4096 → s.me.mx.tileBad a.toNat = [] → ∃ t, exec (.miter y k d a n rc) s = .next t ∧
        MatrixIssued s t { q with param := rest' } (miterOcc rc.toNat occ cnt.toNat) ∧ job t d.toNat ∧
        dueFor s s.cur 0 rankVisible (.tileWriteVisible (.step s.fresh 0 0)) ∈ t.agenda

/-- R148: MDRAIN converts a tile, or the pair of tiles of a 128-group, line by line; its entries enter the queue in cycles 24,
40 and so on, 16 rows each, or its slots are written beat by beat in the swizzled layout and pushed with the tag of the drain;
its windows close 72 cycles on, or 136 for a pair. A slot that is full, or a ring whose slot is part filled, is an overflow. -/
def Obligations.MatrixDrains : Prop :=
  ∀ (y : BitVec 4) (k : BitVec 1) (d : BitVec 6) (r : BitVec 4) (n : BitVec 2) (s : State) (q0 : Queues) (wb : Word)
      (rest : List Pushed), MayIssue s .matrix true k.toNat q0 → q0.waybill = ⟨wb, false⟩ :: rest → bits wb 31 22 = 0 →
    let code := wbSfmt wb
    let tiles := drained wb d.toNat
    let pair := decide (tiles.length = 2)
    wbRnd wb ≠ 3 → code ≤ 8 → (isGroupFmt code = true → wbGrp wb ≠ 3) → (pair = true → d.toNat ≠ 63) →
    (∀ x ∈ tiles, s.me.mx.tileBad x = []) →
    let g := s.me.getRing r.toNat
    let done := if pair then 136 else 72
    let lines := drainLines (drainNarrowing s.me s wb) (tiles.map (fun x => (s.me.mx.tileWords x, [])))
    let entries := (List.range tiles.length).flatMap (fun h => drainEntries code h (drainRun wb) lines)
    let slots := if pair then [g.tail.toNat, (g.after g.tail).toNat] else [g.tail.toNat]
    let ends := fun (t : State) => MatrixIssued s t { q0 with waybill := rest } (done - 8) ∧
      (∀ x ∈ tiles, dueFor s s.cur done rankVisible (.mdrainComplete x) ∈ t.agenda) ∧
      t.me.mx.windows = s.me.mx.windows.map (fun w => if tiles.contains w.tile then { w with draining := true } else w)
    entries.length = 4 * tiles.length ∧
    (∃ t, exec (.mdrainQueue y k d n) s = .next t ∧ ends t ∧ ∀ i e, entries[i]? = some e →
      dueFor s s.cur (24 + 16 * i) rankVisible
        (.mdrainEntryPush n.toNat ((s.me.engine .matrix).site, tiles) e) ∈ t.agenda) ∧
    (tileSize code (wbGrp wb) ≤ g.slot.toNat * 256 → (∀ x ∈ slots, g.full x = false) → g.fill = 0 →
      s.me.laneByOther 4 (s.tt + 8) (s.tt + done + 1) = false → ∃ t, exec (.mdrainRing y k d r) s = .next t ∧ ends t ∧
        ∀ h slot, slots[h]? = some slot →
          let data := drainPayload code (wbGrp wb) h (drainRun wb) lines
          ∃ id j, t.me.mx.jobs.find id = some j ∧ j.ring = r.toNat ∧ j.slot = slot ∧ j.count = 72 + 64 * h ∧
            j.tag = tagWord code (drainTag wb) ∧ j.beatsLeft = (data.1.length + 255) / 256 ∧
            ∀ b x, (s.me.pad.drainBeats (g.slotBase slot) g.swz data.1 data.2)[b]? = some x →
              beatClaim s.tt (8 + 64 * h + b + toBlock true 3 (x.1 / 0x10000)) 3 x.1 x.2.bytes.length
                (.write x.1 x.2 (.drain id)) ∈ t.me.pad.claims) ∧
    ((∃ x ∈ slots, g.full x = true) ∨ g.fill ≠ 0 → tileSize code (wbGrp wb) ≤ g.slot.toNat * 256 →
      ∃ t, exec (.mdrainRing y k d r) s = .next t ∧ Stopped s t 0x24 3)

/-! ### Load and store orders, beats (09) -/

/-- R173, R174, R177 to R185: a moving order reads its generator, advances it, holds its lane and claims one beat a cycle
for what it moves; LDRING and STRING fill the tail slot of a ring, LDQ and SUPD gather their beats, STQ, STRING, SUPD
and SQNT pop the head of their queue, and SQNT stores the entry narrowed. A lane that is held is an occupancy fault, an address
outside the scratchpad a range fault, an empty queue an underflow. The order of these checks (DEDUCED, log 30) and that spans
which share a cycle meet (DEDUCED, log 27) are the model's choices. -/
def Obligations.MoveOrders : Prop :=
  ∀ (y : BitVec 4) (k : BitVec 2) (q : BitVec 4) (g : BitVec 3) (l : BitVec 2) (r : BitVec 1) (x : BitVec 2)
      (p b : BitVec 4) (s : State) (e : Eng) (q0 : Queues), MayIssue s e true k.toNat q0 →
    let n := b.toNat + 1
    let a := walkOf s e g
    let lane := laneNo l r
    let sr := (s.me.engine e).sr
    let span := [(lane, s.tt + 1, s.tt + n + 1)]
    let update := (s.tt + 1, s.tt + 6 * n + 32)
    let inside := fun (len : Nat) => 0 ≤ a ∧ a + len ≤ 0xC0000
    let R := s.me.getRing q.toNat
    let dst := R.slotBase R.tail.toNat + 256 * R.fill
    (s.me.laneTaken e s.tt lane (s.tt + 1) (s.tt + n + 1) = false →
      (inside (256 * n) → MayFill s q.toNat n → ∃ t, exec (.ldring y k q g l r b) s = .next t ∧ Filled s t q.toNat n ∧
        Moves s t e q0 sr g span ((List.range n).map (fun i => let u := a.toNat + 256 * i
          beatClaim s.tt (1 + i) 12 u 256 (.read u 256 (.ring q.toNat R.gen (dst + 256 * i)
            (blockToBlock (r = 1) (u / 0x10000) ((dst + 256 * i) / 0x10000))))))) ∧
      (inside (256 * n) → ∃ t, exec (.ldq y k q g l r p b) s = .next t ∧
        (∃ j, t.me.moves.find s.fresh = some j ∧ j.queue = q.toNat ∧ j.left = n ∧ j.words = []) ∧
        Moves s t e q0 sr g span ((List.range n).map (fun i => let u := a.toNat + 256 * i
          beatClaim s.tt (1 + i) p.toNat u 256 (.read u 256 (.row s.fresh i (toStation (r = 1) (u / 0x10000) p.toNat)))))) ∧
      (∀ h rest, inside (256 * n) → vecGet q0.oq [] q.toNat = h :: rest → ∃ t, exec (.stq y k q g l r p b) s = .next t ∧
        Moves s t e { q0 with oq := vecMod q0.oq q.toNat (fun _ => rest) } sr g span ((List.range n).map (fun i =>
          storeClaim s.tt (r = 1) (1 + i) (a.toNat + 256 * i) (entryRow h i) .lane))) ∧
      (∀ h rest, vecGet q0.oq [] x.toNat = h :: rest → MayFill s q.toNat n →
        ∃ t, exec (.string y k q g l r x p b) s = .next t ∧ Filled s t q.toNat n ∧
          Moves s t e { q0 with oq := vecMod q0.oq x.toNat (fun _ => rest) } sr g span ((List.range n).map (fun i =>
            storeClaim s.tt (r = 1) (1 + i) (dst + 256 * i) (entryRow h i) (.fill q.toNat R.gen)))) ∧
      (inside (256 * n) → vecGet q0.oq [] q.toNat = [] → ∃ t, exec (.stq y k q g l r p b) s = .next t ∧
        Stopped s t 0x23 3) ∧
      (¬ inside (256 * n) → ∀ i ∈ [Instr.ldring y k q g l r b, .ldq y k q g l r p b, .stq y k q g l r p b],
        ∃ t, exec i s = .next t ∧ Stopped s t 0x0A 3)) ∧
    (s.me.laneTaken e s.tt lane (s.tt + 1) (s.tt + n + 1) = true →
      ∀ i ∈ [Instr.ldring y k q g l r b, .ldq y k q g l r p b, .stq y k q g l r p b, .string y k q g l r x p b],
        ∃ t, exec i s = .next t ∧ Stopped s t 0x26 3) ∧
    (s.me.laneTaken e s.tt 8 s.tt (s.tt + 1) = false → s.me.laneTaken e s.tt lane update.1 update.2 = false →
      ∀ h rest, inside (768 * n) → vecGet q0.oq [] q.toNat = h :: rest → ∃ t, exec (.supd y k q g l r p b) s = .next t ∧
        (∃ j, t.me.moves.find s.fresh = some j ∧ j.entry = h ∧ j.left = 3 * n ∧ j.addr = a.toNat) ∧
        dueFor s s.cur (3 * n + 16) rankCheck (.beatRead 0 0 (.update s.fresh 0 0)) ∈ t.agenda ∧
        Moves s t e { q0 with oq := vecMod q0.oq q.toNat (fun _ => rest) } sr g [(8, update), (lane, update)]
          ((List.range (3 * n)).map (fun i => let u := a.toNat + 256 * i
            beatClaim s.tt (1 + i) 7 u 256 (.read u 256 (.update s.fresh i (toStation (r = 1) (u / 0x10000) 7)))))) ∧
    ∀ (f : BitVec 3) (m : BitVec 2) (v : BitVec 1) (w : BitVec 2) (ss : BitVec 4), e = .store →
      let code := f.toNat + 3
      let run := if isGroupFmt code then groupSize w.toNat else 32
      let z := 1024 / run * (run * codeBits code / 8 + trailerSize code)
      let nb := (z + 255) / 256
      let stage := (s.tt + 21, s.tt + 21 + nb)
      s.me.laneTaken e s.tt 8 s.tt (s.tt + 1) = false → s.me.laneTaken e s.tt 7 stage.1 stage.2 = false →
      ∀ h rest, inside z → vecGet q0.oq [] q.toNat = h :: rest → ∃ (t : State) (d : Nat → Payload), exec (.sqnt y k q g f m v w ss) s = .next t ∧
        Moves s t e { q0 with oq := vecMod q0.oq q.toNat (fun _ => rest) } (if m = 2 then sr + 1 else sr) g
          [(8, stage), (7, stage)] ((List.range nb).map (fun i => storeClaim s.tt true (21 + i) (a.toNat + 256 * i) (d i) .lane)) ∧
        (h.poison = [] → ∀ i, i < nb → d i = ⟨((lineBytes code (((s.storeNarrowing f m v ss run).entry h).map Prod.fst)).drop
          (256 * i)).take 256, []⟩)

/-- R17, R176, R179 to R181, R184: a beat that performs writes its bytes and no others; the last one of a slot lets it be pushed
with its template's tag, an overflow if the slot has become FULL meanwhile. A beat that is read goes on to its ring, or stands
in the job that gathers it; the entry of an LDQ joins its queue, and overflows one that is full. -/
def Obligations.BeatsMove : Prop :=
  ∀ s : State,
    (∀ (addr : Nat) (p : Payload) (done : BeatDone), (∀ j, done ≠ .drain j) → ∃ t,
      exec (.beatWrite addr p done) s = .next t ∧ OnlyCoreAndAgenda s t s.cur ∧
      (∀ i, (h : i < p.bytes.length) → t.me.pad.mem.get (addr + i) = p.bytes[i]) ∧
      (∀ b, b < addr ∨ addr + p.bytes.length ≤ b → t.me.pad.mem.get b = s.me.pad.mem.get b) ∧
      t.me = { s.me with pad := { s.me.pad with mem := t.me.pad.mem, bad := t.me.pad.bad }, ring := t.me.ring,
                         charge := t.me.charge } ∧
      ∀ r gen, done = .fill r gen → r < 16 → (s.me.getRing r).gen = gen →
        (t.me.getRing r).writes = (s.me.getRing r).writes - 1 ∧
        ((s.me.getRing r).writes = 1 → (s.me.getRing r).fill = (s.me.getRing r).slot.toNat →
          Adds s t (dueFor s s.cur 1 rankVisible (.ldringSlotPush r)))) ∧
    (∀ r, r < 16 → (s.me.getRing r).fill = (s.me.getRing r).slot.toNat → (s.me.getRing r).writes = 0 →
      ((s.me.getRing r).full (s.me.getRing r).tail.toNat = false → ∃ t, exec (.ldringSlotPush r) s = .next t ∧
        OnlyCore s t s.cur ∧ t.me = { s.me with ring := t.me.ring } ∧ Pushes s t r (s.me.getRing r).template ∧
        (t.me.getRing r).fill = 0) ∧
      ((s.me.getRing r).full (s.me.getRing r).tail.toNat = true → ∃ t, exec (.ldringSlotPush r) s = .next t ∧
        Stopped s t 0x24 3)) ∧
    (∀ addr n, s.me.pad.poison addr n = [] →
      (∀ r gen dst h, ∃ t, exec (.beatRead addr n (.ring r gen dst h)) s = .next t ∧ OnlyCoreAndAgenda s t s.cur ∧
        t.me = { s.me with pad := { s.me.pad with claims := s.me.pad.claims ++
          [beatClaim s.tt h 12 dst n (.write dst ⟨s.me.pad.mem.getRange addr n, []⟩ (.fill r gen))] } } ∧
        GrantDue t s.cur (s.clock + h)) ∧
      ∀ job row h j, s.me.moves.find job = some j → 0 < j.left → ∃ t, exec (.beatRead addr n (.row job row h)) s = .next t ∧
        OnlyCoreAndAgenda s t s.cur ∧ t.me = { s.me with moves := t.me.moves, charge := t.me.charge } ∧
        (∃ m, t.me.moves.find job = some m ∧ m = { j with
          words := j.words.setRange (64 * row) (wordsOf (s.me.pad.mem.getRange addr n)), left := j.left - 1,
          arrive := max j.arrive (s.tt + h) }) ∧
        t.agenda = if j.left = 1 then
            insertDue (dueFor s s.cur (max j.arrive (s.tt + h) + 1 - s.tt) rankVisible (.ldqEntryPush job)) s.agenda
          else s.agenda) ∧
    ∀ job j, s.me.moves.find job = some j → j.queue < 4 →
      ((vecGet s.me.q.vq [] j.queue).length < 4 → ∃ t, exec (.ldqEntryPush job) s = .next t ∧ OnlyCore s t s.cur ∧
        t.me = { s.me with moves := s.me.moves.drop job, q := { s.me.q with vq := t.me.q.vq } } ∧
        vecGet t.me.q.vq [] j.queue = vecGet s.me.q.vq [] j.queue ++ [⟨j.words, j.bad⟩] ∧
        ∀ q, q ≠ j.queue → vecGet t.me.q.vq [] q = vecGet s.me.q.vq [] q) ∧
      (4 ≤ (vecGet s.me.q.vq [] j.queue).length → ∃ t, exec (.ldqEntryPush job) s = .next t ∧ Stopped s t 0x24 3)

/-! ### Copies (11, 12) -/

/-- R117, R118, R198, R199, R202, R223, R224: a unit of a copy asks for its lines, or for its depot at once; it is read within
the budgets of its engine and depot and goes on its way; it performs at its destination, piece by piece in walk order
and never above a later row, and counts. A copy with a host-tier side begins after a latency that the spec leaves open and goes
on unit by unit, each read and then written when its side has its turn: in a free cycle of a depot, in an open window of HBM;
the last one is its final write. That one unit follows another, in walk order, is the model's choice (DEDUCED, log 40). -/
def Obligations.CopyUnits : Prop :=
  ∀ (s : State) (k : Copy) (u : Nat), s.copies.find s.cur = some k → s.transfersRun k.node = true →
    let at_ := fun (c rank : Nat) (i : Instr) => (⟨c, rank, k.node, s.cur, i⟩ : Due)
    let kept := fun (t : State) (m : Copy) => t.copies.find s.cur = some m ∧ ∀ p, p ≠ s.cur → t.copies.find p = s.copies.find p
    let src := linesOf ((k.unit u).map k.srcOff)
    let dst := linesOf ((k.unit u).map k.dstOff)
    let ps := (k.unit u).map (s.pieceBytes k)
    let lines := fun (t : State) (c rank : Nat) (l : List Nat) (act : Act) => (t.core c).pad = { (s.core c).pad with
      claims := (s.core c).pad.claims ++ l.map (fun x => ⟨s.ttOf c, rank, 256 * x / 0x10000, 0xFF, 0, act⟩) }
    (k.onHost = true → ∃ t, exec (.copyUnitRead u) s = .next t ∧ t = { s with fresh := s.fresh + 1, agenda := t.agenda } ∧
      Adds s t ⟨s.clock + Config.freeCycles s.fresh, rankRead, none, s.cur, .hostTierCopyWrite⟩) ∧
    (k.onHost = false → k.srcHbm = false → k.dstHbm = false → k.reading.contains u = false →
      let m := { k with reading := u :: k.reading, readLines := k.readLines.put u src.length }
      let goes := fun (t : State) => t.mem = s.mem ∧ kept t m ∧
        (u + 1 < k.total → at_ (s.clock + 1) rankUnit (.copyUnitRead (u + 1)) ∈ t.agenda)
      ∃ t, exec (.copyUnitRead u) s = .next t ∧ goes t ∧
        (k.src.isSome = true → t.cores = s.cores ∧ at_ s.clock rankRead (.copyUnitRead u) ∈ t.agenda) ∧
        (k.src = none → lines t k.core 10 src (.copyRead s.cur u))) ∧
    (k.onHost = false → k.srcHbm = false → k.reading.contains u = true → k.engine < 64 → (∀ p ∈ ps, p.poison = []) →
      (s.carried.find k.engine).getD 0 + 32 * ps.length ≤ 384 →
      (k.src.isSome = true → (s.carried.find (64 + k.srcDie u)).getD 0 < 8) → ∃ t, exec (.copyUnitRead u) s = .next t ∧
        t.mem = s.mem ∧ kept t { k with
          reading := k.reading.erase u, units := k.units.put u ⟨ps.flatMap (·.bytes), []⟩ } ∧
        (k.dstHbm = false → Adds s t (at_ (s.clock + k.lead u) rankUnit (.copyUnitWrite u)))) ∧
    (k.onHost = false → k.srcHbm = false → k.reading.contains u = true → k.engine < 64 → (∀ p ∈ ps, p.poison = []) →
      384 < (s.carried.find k.engine).getD 0 + 32 * ps.length → ∃ t, exec (.copyUnitRead u) s = .next t ∧
        t.copies.find s.cur = none ∧ ∀ n, (s.core k.core).place.node = some n → NodeStops s t n 0x32) ∧
    (k.writing.contains u = false → ∃ t, exec (.copyUnitWrite u) s = .next t ∧ t.mem = s.mem ∧
      kept t { k with writing := u :: k.writing, writeLines := k.writeLines.put u dst.length } ∧
      (k.dst.isSome = true → t.cores = s.cores ∧ Adds s t (at_ s.clock rankWrite (.copyUnitWrite u))) ∧
      (k.dst = none → lines t k.dstCore 0 dst (.copyWrite s.cur u))) ∧
    (∀ p, k.writing.contains u = true → k.units.find u = some p → k.dst = none → (s.swizzleFault k u).1 = false →
      k.written.length + 1 < k.total → ∃ t, exec (.copyUnitWrite u) s = .next t ∧ t.mem = s.mem ∧ t.agenda = s.agenda ∧
        kept t { k with
          written := u :: k.written, units := k.units.drop u, writing := k.writing.erase u,
          checked := (s.swizzleFault k u).2 ++ k.checked } ∧
        (∀ c, c ≠ k.dstCore → t.core c = s.core c) ∧
        (t.core k.dstCore).pad.mem = piecesInto k u p.bytes (s.core k.dstCore).pad.mem) ∧
    (let w := k.written.length
     let first := k.unitPieces * w
     let pieces := (k.unit w).map (s.pieceBytes k)
     let goes := fun (t : State) => exec .hostTierCopyWrite s = .next t
     let again := fun (rank n : Nat) => (⟨s.clock + n, rank, none, s.cur, .hostTierCopyWrite⟩ : Due)
     (k.units.find w = none → (s.sideTurn s.cur k.src (k.srcOff first)).1 = true → (∀ p ∈ pieces, p.poison = []) →
       ∃ t, goes t ∧ t.mem = s.mem ∧ kept t { k with units := k.units.put w ⟨pieces.flatMap (·.bytes), []⟩ } ∧
         Adds s t (again rankCopy (Config.freeCycles s.fresh))) ∧
     (∀ p, k.units.find w = some p → (s.sideTurn s.cur k.dst (k.dstOff first)).1 = true →
       ((s.swizzleFault k w).1 = false → ∃ t, goes t ∧
         t.mem = (((k.unit w).zipIdx).foldl (fun (r : State) q =>
           r.writePiece k q.1 ((p.bytes.drop (32 * q.2)).take 32)) s).mem ∧
         (w + 1 = k.total → t.copies.find s.cur = none) ∧
         (w + 1 ≠ k.total → Adds s t (again rankRead 1) ∧ kept t { k with
           written := w :: k.written, units := k.units.drop w, checked := (s.swizzleFault k w).2 ++ k.checked })) ∧
       ((s.swizzleFault k w).1 = true → ∃ t, goes t ∧ t.copies.find s.cur = none ∧
         ∀ n, (s.core k.core).place.node = some n → NodeStops s t n 0x33)) ∧
     ∀ (x : Span), tierOf (spanAt x (if (k.units.find w).isSome then k.dstOff first else k.srcOff first)) = some .hbm →
       (if (k.units.find w).isSome then k.dst else k.src) = some x → ∃ t, goes t ∧ t.mem = s.mem ∧ t.copies = s.copies ∧
         Adds s t ⟨s.clock, rankWalker, none,
           pcOf (spanAt x (if (k.units.find w).isSome then k.dstOff first else k.srcOff first)), .openWindowRequest⟩)

/-! ### Row engine and leased engines (06, 18) -/

/-- R126, R127: in its first cycle a row claims its lines one a cycle and its AUX word at once, and the next row follows a
period later; its results, computed from its lines as their claims were granted, claim their banks a period and the latency
after, and the command ends with its last row. That the AUX word is claimed at once and written with the row's results
(DEDUCED, log 60), and that lines whose claims still wait then are taken as they stand (DEDUCED, log 61), are the model's
choices. -/
def Obligations.RowPhases : Prop :=
  ∀ (s : State) (cmd row : Nat) (r : RowCmd), s.me.rows.find cmd = some r → row < 4096 → r.len ≤ 16384 →
    let a := r.src + row * r.stride
    let lat := if r.op = 1 then 32 else if r.op = 3 then 40 else 16
    let aux := if r.op = 1 ∨ r.op = 2 then
      [rowClaim s.tt 0 (r.aux + 4 * row) 1 (.rowRead cmd (2 ^ 26 + row) (r.aux + 4 * row) 4)] else []
    let lines := (rowLines a r.len).map (fun p => rowClaim s.tt p.1 p.2.1 p.2.2
      (.rowRead cmd (16384 * row + 64 * p.1) p.2.1 (4 * p.2.2)))
    (row = r.begun → ∃ t, exec (.rowResultPerform cmd row) s = .next t ∧ OnlyCoreAndAgenda s t s.cur ∧
      t.me = { s.me with rows := t.me.rows, pad := { s.me.pad with claims := s.me.pad.claims ++ (lines ++ aux) } } ∧
      t.me.rows.find cmd = some { r with begun := row + 1 } ∧
      dueFor s s.cur (r.len / 64 + lat) rankUnit (.rowResultPerform cmd row) ∈ t.agenda ∧
      (row + 1 < r.rows → dueFor s s.cur (r.len / 64) rankUnit (.rowResultPerform cmd (row + 1)) ∈ t.agenda)) ∧
    (row ≠ r.begun → RowClean (r.takeLate s.me.pad cmd) row →
      let words := (r.takeLate s.me.pad cmd).words
      let x := words.getRange (16384 * row) r.len
      let out := rowCompute r.op x (List.replicate r.len false) (words.get (2 ^ 26 + row)) false r.c
      let at_ := r.aux + 4 * (if r.op = 3 then 2 else 1) * row
      let toAux := if out.aux = [] then [] else
        [rowClaim s.tt 0 at_ (min 64 out.aux.length) (.rowWrite at_ ⟨bytesOf out.aux, []⟩)]
      let toRow := if out.row = [] then [] else (rowLines (r.dst + row * r.stride) r.len).map (fun p =>
        rowClaim s.tt 0 p.2.1 p.2.2 (.rowWrite p.2.1 ⟨bytesOf ((out.row.drop (64 * p.1)).take p.2.2), []⟩))
      ∃ t, exec (.rowResultPerform cmd row) s = .next t ∧ OnlyCoreAndAgenda s t s.cur ∧
        t.me = { s.me with rows := t.me.rows, pad := { s.me.pad with claims := s.me.pad.claims ++ (toAux ++ toRow) } } ∧
        (row + 1 = r.rows → t.me.rows = s.me.rows.drop cmd) ∧
        (out.vnf = true → dueFor s s.cur 0 rankVnf (.vectorWriteVisible ⟨.flag, [], [], true⟩) ∈ t.agenda) ∧
        (r.op = 0 → out.aux = [rowReduce fmax x] ∧ out.row = []) ∧
        (r.op = 2 → out.aux = [] ∧ out.row = x.map (fun v => fmul v (frcp (words.get (2 ^ 26 + row))))))

/-- R125, R287, R289, R298, R300: a command that starts reads memory as it stands and claims its scratchpad lines, and its
end falls due at issue + 8 + L; its results are formed before, from its lines as their claims were granted (those that still
wait then, as they stand: log 61); at the end its status word reaches g[e], its sequence stands if its slot still holds the
grant under which it was issued, and it is gone. A shunter
waits for its window slots, 2^20 cycles at most. -/
def Obligations.LeasedCommands : Prop :=
  ∀ (s : State) (cmd : Nat) (r : LeasedCmd), s.me.leased.find cmd = some r →
    (∀ f, r.isShunter = false → r.finish = some f → ∃ t, exec (.leasedCommandStart cmd) s = .next t ∧
      OnlyCoreAndAgenda s t s.cur ∧
      t.me.leased.find cmd = some { r with depot := s.mem, depotBad := s.bad } ∧
      t.me.drv = s.me.drv ∧ t.me.pad.mem = s.me.pad.mem ∧
      dueFor s s.cur (f - max 1 r.linesMax - s.tt) rankUnit (.leasedCommandComplete cmd) ∈ t.agenda ∧
      dueFor s s.cur (f - s.tt) rankVisible (.leasedCommandComplete cmd) ∈ t.agenda) ∧
    (∀ n, r.isShunter = true → s.tt = r.start → s.me.place.node = some n →
      (∀ d ∈ s.agenda, d.who = cmd → d.instr ≠ .missingWindowTimeout) → ∃ t,
      exec (.leasedCommandStart cmd) s = .next t ∧ t.mem = s.mem ∧
      ⟨s.clock + 2 ^ 20, rankCheck, some n, cmd, .missingWindowTimeout⟩ ∈ t.agenda) ∧
    (∀ f, r.isShunter = false → r.finish = some f → s.tt < f → r.status = none →
      let q := r.takeLate s.me.pad cmd
      let out := (q.result ⟨{ s with mem := r.depot, bad := r.depotBad }, q.local_, q.localBad⟩
        (if s.me.underGrant r then s.me.seqs.find r.lease else none)).1
      ∃ t, exec (.leasedCommandComplete cmd) s = .next t ∧ t.mem = s.mem ∧ t.me.drv = s.me.drv ∧
        t.me.pad.mem = s.me.pad.mem ∧ ∃ m, t.me.leased.find cmd = some m ∧
          m.status = some (statusWord out.value out.code) ∧ m.seqOut = out.seq ∧ m.finish = some f) ∧
    (∀ f v (e : BitVec 5), r.finish = some f → f ≤ s.tt → r.status = some v → r.reg = e.toNat →
      s.me.drv.wroteG[e.toNat] < s.tt → ∃ t, exec (.leasedCommandComplete cmd) s = .next t ∧ t.mem = s.mem ∧
        (∀ c, c ≠ s.cur → t.core c = s.core c) ∧ t.me.leased = s.me.leased.drop cmd ∧
        (∀ q, r.seqOut = some q → s.me.underGrant r = true → t.me.seqs.find r.lease = some q) ∧
        (r.seqOut = none ∨ s.me.underGrant r = false → t.me.seqs = s.me.seqs) ∧
        t.me.drv.readG e = (if e = 0 then 0 else v) ∧ (∀ q, q ≠ e → t.me.drv.readG q = s.me.drv.readG q) ∧
        t.me.drv.pc = s.me.drv.pc ∧ t.me.drv.p = s.me.drv.p ∧ t.me.drv.x = s.me.drv.x)

/-! ### Points and jobs (06, 14) -/

/-- R128, R241, R242: at a point that is clean POINT leaves timed mode: every engine is stopped with no loop open, the
core stands at its point, POINTSTAT says what happened since the last one, and the driver goes on at the next word, or
enters the handler when the timetable is pre-empted. A point that is not clean is a point fault; in free mode POINT is
an untimed fault. -/
def Obligations.PointLeavesTimedMode : Prop :=
  ∀ s : State, isBox s.cur = false →
    (s.me.timed = true → ∀ n nd p, s.me.place.node = some n → s.nodes.find n = some nd →
      nd.pointAt s.me.drv.pc = some p → s.pointClean s.cur = true → ∃ t, exec .point s = .next t ∧ t.mem = s.mem ∧
        t.me.timed = false ∧ t.me.place.point = some p ∧ t.me.place.arrived = false ∧
        (∀ e, t.me.engine e = { s.me.engine e with status := .stopped, loops := [] }) ∧
        t.me.drv.g = s.me.drv.g ∧ t.me.drv.p = s.me.drv.p ∧ t.me.drv.x = s.me.drv.x ∧
        ((∀ i, s.me.leaseAt i = none) → nd.victimFor = none → nd.latched = false → nd.leaseWait = false →
          t.me.drv = { s.me.drv with pc := s.me.drv.pc + 4, ready := s.tt + 1, entered := false } ∧
          t.me.priv = s.me.priv ∧ t.me.ie = s.me.ie ∧ t.me.ppriv = s.me.ppriv ∧ t.me.pie = s.me.pie ∧
          t.me.csr = { s.me.csr with
            status := t.me.csr.status, pointstat := pointStat s.me.place.heldSince false false s.me.place.throttled }) ∧
        ((∀ i, s.me.leaseAt i = none) → nd.firstPoint.isSome = true → nd.latched = true → s.me.csr.tvec ≠ 0xFFFFFFFF →
          s.me.priv = false → t.me.csr.cause = 0x0F ∧ t.me.csr.epc = (s.me.drv.pc + 4).setWidth 64 ∧
          t.me.csr.faultInfo = s.me.drv.pc.setWidth 64 ∧ t.me.csr.faultCyc = BitVec.ofNat 64 s.clock ∧ t.me.priv = true ∧
          t.me.ie = false ∧ t.me.ppriv = false ∧ t.me.drv.pc = (s.me.csr.tvec.setWidth 16 &&& 0xFFFC))) ∧
    (s.me.timed = true → (∀ n nd, s.me.place.node = some n → s.nodes.find n = some nd →
      nd.pointAt s.me.drv.pc = none ∨ s.pointClean s.cur = false) → ∃ t, exec .point s = .next t ∧ Stopped s t 0x29 3) ∧
    (TrapsToVector s → ∃ t, exec .point s = .next t ∧
      Trapped s t 0x02 (s.me.drv.pc.setWidth 64) (s.me.drv.pc.setWidth 64) 0)

/-- R129, R233, R234, R238, R239: DEPART waits for the departure and counts the core in; the last arrival of a one-package
timetable sets Dreg to a multiple of 64 at least 256 cycles on, and each core departs a distance after it: it enters timed mode
at the entry of its segment with DEPART its own departure cycle, and the first one makes the node RUNNING. A DEPART with no next
segment is an operand fault. R58, R130: EXIT ends the driver; once the four engines are done the combiner fires in the next
cycle, which completes the core, or is a residue fault when a queue or token FIFO still holds something or a push is on its way
to it. That an EXIT in timed mode beyond the spacing that the image declares stops the timetable as its POINT would is the
model's choice (log 58). -/
def Obligations.DeparturesAndExit : Prop :=
  (∀ (s : State) (n : Nat) (nd : Node), s.me.place.node = some n → s.nodes.find n = some nd → isBox s.cur = false →
     let next := nd.nextOf s.me.place.point
     let dreg := (s.clock + 256 + 63) / 64 * 64
     (s.me.timed = false → next ≠ 0xFFFF →
       (nd.arrived + 1 < (s.coresOf n).length → ∃ t, exec .depart s = .next t ∧
         t = { s with cores := t.cores, nodes := t.nodes } ∧ (∀ c, c ≠ s.cur → t.core c = s.core c) ∧
         NodeIs t n (fun md => md = { nd with arrived := nd.arrived + 1 }) ∧
         t.me = { s.me with
           drv := { s.me.drv with pc := s.me.drv.pc + 4, ready := s.tt + 1, entered := false, hold := some .depart }
           place := { s.me.place with arrived := true, segment := next }
           charge := t.me.charge }) ∧
       (nd.arrived + 1 = (s.coresOf n).length → nd.npkg = 1 → nd.proposals = [] → ∃ t, exec .depart s = .next t ∧
         t.mem = s.mem ∧ t.me.drv.hold = some .depart ∧ NodeIs t n (fun md => md.dreg = some dreg) ∧
         ∀ c ∈ s.coresOf n, ⟨nd.departAt dreg c, rankVisible, some n, c, .localDeparture⟩ ∈ t.agenda)) ∧
     (TrapsToVector s → next = 0xFFFF → ∃ t, exec .depart s = .next t ∧
       Trapped s t 0x09 (s.me.drv.pc.setWidth 64) (s.me.drv.pc.setWidth 64) 0) ∧
     ∀ x g, nd.dreg = some x → nd.segments[nd.segment]? = some g → s.me.drv.late = [] →
       let d := nd.departAt x s.cur
       ∃ t, exec .localDeparture s = .next t ∧ t.mem = s.mem ∧ t.me.timed = true ∧
         t.me.priv = s.me.priv ∧ t.me.csr.depart = BitVec.ofNat 64 d ∧ t.me.csr.pointstat = 0 ∧
         t.me.csr.slewstep = BitVec.ofNat 64 nd.slew ∧ t.me.place.point = none ∧ t.me.place.hshift = s.clock - d ∧
         t.me.drv = { (s.me.rebase s.me.place.hshift (s.clock - d)).drv with
           pc := (vecGet g.entry 0 nd.variant).setWidth 16, ready := d, hold := none } ∧
         NodeIs t n (fun md => md = { nd with
           departed := nd.departed + 1, state := if nd.state = .loading then .running else nd.state
           firstDreg := if nd.firstDreg = 0 then x else nd.firstDreg }) ∧
         ∀ e, (s.me.engine e).status = .armed → (t.me.engine e).start = d + (s.me.engine e).start ∧
           ⟨s.clock + (s.me.engine e).start, rankVisible, some n, s.cur, .engineStart e⟩ ∈ t.agenda) ∧
  (∀ s : State, isBox s.cur = false →
     let ends := fun (t : State) => OnlyCoreAndAgenda s t s.cur ∧ t.me = { s.me with
       drv := { s.me.drv with pc := s.me.drv.pc + 4, ready := s.tt + 1, entered := false, hold := some .exited }
       charge := t.me.charge }
     let fires := fun (t : State) => Adds s t (dueFor s s.cur 1 rankWalker .combinerFire)
     let long := fun (nd : Node) => nd.space < s.clock - s.me.csr.depart.toNat
     let inSpace := ∀ n nd, s.me.place.node = some n → s.nodes.find n = some nd → ¬ long nd
     (s.me.timed = true → inSpace → s.me.place.fired = false → (∀ e, (s.me.engine e).status = .done) →
       ∃ t, exec .exit s = .next t ∧ ends t ∧ fires t) ∧
     (∀ e, s.me.timed = true → inSpace → (s.me.engine e).status ≠ .done → ∃ t, exec .exit s = .next t ∧ ends t ∧
       t.agenda = s.agenda) ∧
     (∀ n nd, s.me.timed = true → s.me.place.node = some n → s.nodes.find n = some nd → long nd →
       ∃ t, exec .exit s = .next t ∧ t.mem = s.mem ∧ t.me.drv.hold = some .exited ∧ NodeStops s t n 0x63) ∧
     (s.me.timed = false → ∃ t, exec .exit s = .next t ∧ ends t ∧
       if s.me.place.doneAtPoint then ∃ d ∈ t.agenda, d.cycle = s.clock + 1 ∧ d.who = s.cur ∧ d.instr = .combinerFire
       else t.agenda = s.agenda) ∧
     (s.me.place.fired = false → s.me.drv.hold = some .exited →
       (s.me.q.empty = true → ∃ t, exec .combinerFire s = .next t ∧ OnlyCoreAndAgenda s t s.cur ∧
         t.me = { s.me with place := { s.me.place with fired := true } }) ∧
       (s.me.q.empty = false → ∃ t, exec .combinerFire s = .next t ∧ t.mem = s.mem ∧
         ∀ n, s.me.place.node = some n → NodeStops s t n 0x2A)))

/-! ### Clock, power, pairs (01, 15, 22) -/

/-- R25, R250, R252 to R254, R259 to R261: a tick advances the Station Clock by one and adds the cycle's charges to each core's
counters unless they are frozen; every 65,536 cycles a grant boundary copies the granted level to every core, and a lower level
throttles every context, the saved ones too; a slew window that rises by more than the step is a slew violation; the balancer
counts the windows of an unbalanced pair, a core that has left timed mode counting 0 from the next one on; an alarm reaches
every signal box. -/
def Obligations.ClockAndGrants : Prop :=
  ∀ s : State,
    (∃ t, exec .stationClockTick s = .next t ∧ t.clock = s.clock + 1 ∧ t.mem = s.mem ∧ t.nodes = s.nodes ∧
      t.pcs = s.pcs ∧ t.dies = s.dies ∧ t.copies = s.copies ∧
      (t.agenda = if (s.clock + 1) % 65536 = 0 then
        insertDue ⟨s.clock + 1, rankGrantBoundary, none, 0, .grantBoundary⟩ s.agenda else s.agenda) ∧
      ∀ c k, s.cores.find c = some k →
        t.core c = { k with
          csr := { k.csr with energy := (t.core c).csr.energy, eres := (t.core c).csr.eres }
          charge := Vector.replicate 8 0 } ∧
        (k.view.ectl.getLsbD 0 = true → (t.core c).csr.energy = k.csr.energy ∧ (t.core c).csr.eres = k.csr.eres) ∧
        (k.view.ectl.getLsbD 0 = false →
          (t.core c).csr.energy.toNat % 2 ^ 48 = min (2 ^ 48 - 1) (k.csr.energy.toNat % 2 ^ 48 + k.chargeOf s.clock) ∧
          (t.core c).csr.eres =
            if k.resident s.clock = true ∧ k.csr.eres.toNat < 2 ^ 48 - 1 then k.csr.eres + 1 else k.csr.eres)) ∧
    (let v := s.pgrant &&& 0xFFFFFFFF0007;
      let lower := decide (v.extractLsb' 0 3 < s.plevel.extractLsb' 0 3)
      ∃ t, exec .grantBoundary s = .next t ∧ t = { s with plevel := v, cores := t.cores, nodes := t.nodes } ∧
        (lower = false → t.nodes = s.nodes) ∧
        (∀ n nd, lower = true → s.nodes.find n = some nd → NodeIs t n (fun md => md = { nd with
          saved := nd.saved.map (fun (v : Saved) => { v with
            context := v.context.modPlace (fun p => { p with throttled := true }) }) })) ∧
        ∀ c k, s.cores.find c = some k → t.core c = { k with
          csr := { k.csr with plevel := v }
          place := { k.place with throttled :=
            k.place.throttled || lower } }) ∧
    (let n := overlap s.me.mx.ksteps (s.tt - 63) (s.tt + 1);
      (n ≤ s.me.mx.lastCount + s.me.view.slewstep.toNat → ∃ t, exec .slewWindowCheck s = .next t ∧
        OnlyCoreAndAgenda s t s.cur ∧ t.me = { s.me with mx := { s.me.mx with lastCount := n, ksteps := t.me.mx.ksteps } } ∧
        (s.me.timed = true → Adds s t (dueFor s s.cur 64 rankCheck .slewWindowCheck))) ∧
      (s.me.mx.lastCount + s.me.view.slewstep.toNat < n → ∃ t, exec .slewWindowCheck s = .next t ∧ Stopped s t 0x27 3)) ∧
    (s.cur < 128 →
      let sum := fun (p : Nat → Bool) =>
        ((pairCores s.cur).filter p).foldl (fun n c => n + (s.core c).mx.lastCount) 0
      let a := sum (fun c => c % 128 % 8 < 4)
      let b := sum (fun c => 4 ≤ c % 128 % 8)
      ∃ t, exec .balancerWindow s = .next t ∧ t = { s with cores := t.cores, dies := t.dies, agenda := t.agenda } ∧
        (∀ c, t.core c = if c ∈ pairCores s.cur ∧ (s.core c).timed = false then
          { s.core c with mx := { (s.core c).mx with lastCount := 0 } } else s.core c) ∧
        t.getPair s.cur = (if 10 * min a b < 9 * max a b then
          { s.getPair s.cur with pimb := (s.getPair s.cur).pimb + 1 } else s.getPair s.cur) ∧
        ∀ r, r ≠ s.cur → t.getPair r = s.getPair r) ∧
    (∃ t, exec .powerAlarm s = .next t ∧ t = { s with dies := t.dies, agenda := t.agenda } ∧
      ∀ d : Fin 8, t.dies[d] = { s.dies[d] with alarm := true } ∧
        ((s.core (4096 + d.val)).drv.hold = some .wfi →
          ⟨s.clock + 1, rankVisible, none, 4096 + d.val, .wfiWake⟩ ∈ t.agenda)) ∧
    (∀ v, ∃ t, exec (.pgrantWrite v) s = .next t ∧ t = { s with pgrant := v &&& 0xFFFFFFFF0007 }) ∧
    ∀ (d : Fin 8) (n : Fin 8) (v : DWord), s.cur = d.val → ∃ t, exec (.sbslewWrite n.val v) s = .next t ∧
      t = { s with dies := t.dies } ∧
      t.dies[d] = { s.dies[d] with
        slew := s.dies[d].slew.set n.val (BitVec.ofNat 7 (max 8 (min 64 (v.extractLsb' 0 7).toNat))) } ∧
      ∀ k : Fin 8, k ≠ d → t.dies[k] = s.dies[k]

/-- R263, R324 to R327: the writes of a pair's registers and the hardware's answers. A write whose precondition does not
hold changes nothing but SEQERR. R325, R330, R284, R285: a save catches the pair's balancer state and writes it to the depot
4,095 cycles on, a restore takes it back, or the reset setting where the check word is wrong for the bytes behind it, which no
image with a changed byte escapes. The model's choices: the layout of an image (log 5), its writing and reading in the 4,095th
cycle (log 107), the self-test's wait until its structure is free (log 104), and the pair in WHERE from place 8 on (log 51). A
self-test counts a fault that does not last, retires the pair of a core structure whose fault lasts,
and tells the host; a structure of a placed pair, or one that is not free for the test, is tested later. -/
def Obligations.PairsAndRetention : Prop :=
  (∀ s : State, s.cur < 128 →
     let q := s.getPair s.cur
     let at_ := fun (n : Nat) (i : Instr) => (⟨s.clock + n, rankChange, none, s.cur, i⟩ : Due)
     let err := { q with seqerr := true }
     let idle := q.clk = true ∧ q.state = 2 ∧ q.rbusy = false
     (q.req = false → PairStep (.pqctlReq true) s { q with req := true, ack := false, reqAt := s.clock } [at_ 64 .quiesceAck]) ∧
     (q.req = true → PairStep (.pqctlReq true) s q []) ∧
     (idle → q.req = true → PairStep (.pqctlReq false) s { q with req := false, reqAt := s.clock }
       [at_ 1 .quiesceAck, ⟨s.clock + 1, rankWalker, none, 0, .placementAttempt⟩]) ∧
     (idle → q.req = false → PairStep (.pqctlReq false) s q []) ∧
     (¬ idle → PairStep (.pqctlReq false) s err []) ∧
     (q.req = false → PairStep .quiesceAck s { q with ack := false } []) ∧
     (q.req = true → q.reqAt + 64 ≤ s.clock → s.placed (s.cur / 16) (s.cur % 16) = false →
       PairStep .quiesceAck s { q with ack := true } []) ∧
     (q.req = true → s.placed (s.cur / 16) (s.cur % 16) = true → PairStep .quiesceAck s q []) ∧
     PairStep (.pclkWrite true) s (if q.state = 2 then { q with clk := true } else err) [] ∧
     PairStep (.pclkWrite false) s (if q.ack = true ∧ q.rbusy = false then
       { q with clk := false, clkOff := if q.clk then s.clock else q.clkOff } else err) [] ∧
     (q.clk = true → ∀ v, PairStep (.prailWrite v) s err []) ∧
     (q.clk = false → s.clock < q.clkOff + 32 → PairStep (.prailWrite false) s err []) ∧
     (q.clk = false → q.rail = false → PairStep (.prailWrite true) s
       { q with rail := true, state := 1, ramp := s.clock + 8192 } [at_ 8192 .railOnComplete]) ∧
     (q.clk = false → q.clkOff + 32 ≤ s.clock → q.rail = true → PairStep (.prailWrite false) s
       { q with rail := false, state := 1, ramp := s.clock + 2048 } [at_ 2048 .railOffComplete]) ∧
     (q.rail = false → q.ramp = s.clock → PairStep .railOffComplete s { q with state := 0, pimb := 0, balance := 0 } []) ∧
     (q.rail = true → q.ramp = s.clock → ∃ t, exec .railOnComplete s = .next t ∧ t.mem = s.mem ∧
       t.getPair s.cur = { q with state := 2 } ∧ (∀ c ∈ pairCores s.cur, t.core c = Core.reset) ∧
       ∀ c, c ∉ pairCores s.cur → t.core c = s.core c) ∧
     (∀ v : DWord, let b := v.toNat % 2 ^ 40
       PairStep (.pretbWrite v) s (if b % 65536 = 0 ∧ b < 2 ^ 30 ∧ b / 2 ^ 27 = s.cur / 16 then
         { q with pretb := BitVec.ofNat 64 b } else err) []) ∧
     (∃ t, exec .pwake s = .next t ∧ t = { s with dies := t.dies, agenda := t.agenda } ∧
       t.getPair s.cur = { q with
         wake := true, wakeAt := s.clock, wakeFrom := if q.wake then q.wakeFrom else s.clock + 1 } ∧ (∀ r, r ≠ s.cur → t.getPair r = s.getPair r) ∧
       ((s.core (4096 + s.cur / 16)).drv.hold = some .wfi →
         ⟨s.clock + 1, rankVisible, none, 4096 + s.cur / 16, .wfiWake⟩ ∈ t.agenda)) ∧
     PairStep .prstatWakeClear s { q with wake := q.wake && decide (q.wakeAt = s.clock) } [] ∧
     PairStep .prstatSeqerrClear s { q with seqerr := false } []) ∧
  (∀ s : State, s.cur < 128 →
     let q := s.getPair s.cur
     let at_ := fun (n : Nat) (i : Instr) => (⟨s.clock + n, rankChange, none, s.cur, i⟩ : Due)
     let may := q.ack = true ∧ q.clk = true ∧ q.state = 2 ∧ q.rbusy = false
     let area := 0x10000000000 + q.pretb.toNat
     let img := s.frontBytes area 32768
     (∀ (l : List Byte) (b m : Word), readRetention l = some (b, m) ↔ l = retentionImage b m) ∧
     (∀ b m : Word, (retentionImage b m).length = 32768 ∧ (retentionImage b m).take 12 =
       leBytes 4 (~~~(b + m)).toNat ++ leBytes 4 b.toNat ++ leBytes 4 m.toNat) ∧
     (may → PairStep .pqctlRsave s { q with rbusy := true, shot := some (q.balance, q.pimb) }
       [at_ 4095 .retentionSaveComplete] ∧
       PairStep .pqctlRrest s { q with rbusy := true, shot := some (0, 0), badImage := false }
       [at_ 4095 .retentionRestoreComplete]) ∧
     (¬ may → ∀ i ∈ [Instr.pqctlRsave, .pqctlRrest], PairStep i s { q with seqerr := true } []) ∧
     (∀ b m, q.shot = some (b, m) → (∃ t, exec .retentionSaveComplete s = .next t ∧ t.cores = s.cores ∧
       t.getPair s.cur = { q with shot := none } ∧ Adds s t (at_ 1 .retentionSaveComplete) ∧
       t.mem.getRange area 32768 = retentionImage b m ∧
       ∀ x, x < area ∨ area + 32768 ≤ x → t.mem.get x = s.mem.get x) ∧
       PairStep .retentionRestoreComplete s
         (match readRetention img with
          | some p => { q with shot := none, balance := p.1, pimb := p.2, badImage := false }
          | none => { q with shot := none, balance := 0, pimb := 0, badImage := true })
         [at_ 1 .retentionRestoreComplete]) ∧
     (q.shot = none → PairStep .retentionSaveComplete s { q with rbusy := false } [] ∧
       PairStep .retentionRestoreComplete s
         { q with rbusy := false, seqerr := q.seqerr || q.badImage, badImage := false } []) ∧
     ∀ (kind : BitVec 8) (place : BitVec 32) (lasting : Bool) (d : Fin 8), s.cur = d.val →
       let pair := bits place 8 5
       let waits := if kind.toNat ≤ 2 then s.placed d pair = true ∧ (s.getPair (16 * d + pair)).retired = false
         else s.testMay d kind place = false
       let old := (s.dies[d].transient.find kind.toNat).getD 0
       let count := if lasting then old else min (old + 1) 0xFFFF
       (waits → ∃ t, exec (.selfTest kind place lasting) s = .next t ∧ t = { s with agenda := t.agenda } ∧
         Adds s t ⟨s.clock + 1, rankWalker, none, d, .selfTest kind place lasting⟩) ∧
       (¬ waits → ∃ t, exec (.selfTest kind place lasting) s = .next t ∧ t.cores = s.cores ∧ t.mem = s.mem ∧
         t.dies[d].selfTest = true ∧ t.dies[d].transient.find kind.toNat = some count ∧
         ⟨s.clock, rankWalker, none, 0, .messagePost ⟨4, 0, 0, kind ++ (if lasting then 1#8 else 0#8) ++
           BitVec.ofNat 16 count ++ place⟩⟩ ∈ t.agenda ∧
         (lasting = true → kind.toNat ≤ 2 → (t.getPair (16 * d + pair)).retired = true ∧
           ((s.getPair (16 * d + pair)).retired = false → t.host.retired = s.host.retired + 1 ∧
             t.host.retiredStore = s.host.retiredStore ++ [(d.val, pair)])) ∧
         (¬ (lasting = true ∧ kind.toNat ≤ 2) → t.host = s.host ∧ ∀ r, t.getPair r = s.getPair r)))

/-! ### Stops and holds (17) -/

/-- R234, R273, R280, R281: the stop pulse of a timetable ends the issue of its cores, its copies and its buckets, and its
record is written once no unit is in flight; the node is then DONE and the host is told. A hold freezes its cores for
8,192 cycles: their time, every step due for the timetable, and a departure that it has proposed or been told of move by as
much; it ends with issue going on. The model's choices: a record's address is rounded down to 64 and nothing is written where
no memory stands (log 52), a hold freezes a core in free code too (log 86), and a record is written in one cycle (log 97). -/
def Obligations.StopsAndHolds : Prop :=
  ∀ (s : State) (nd : Node), s.nodes.find s.cur = some nd →
    let n := s.cur
    let record : Due := ⟨s.clock + 1, rankWalker, none, n, .completionRecordWrite⟩
    (∃ t, exec .stopPulse s = .next t ∧ t.mem = s.mem ∧ record ∈ t.agenda ∧
      (∀ c ∈ s.coresOf n, ∃ k, (t.core c).place.stopAt = some k ∧ k ≤ s.clock) ∧
      (∀ p ∈ t.copies, p.2.node ≠ some n) ∧ ∀ p ∈ t.fabric.buckets, p.2.node ≠ n) ∧
    (nd.state ≠ .done → s.inFlight n = true → ∃ t, exec .completionRecordWrite s = .next t ∧
      t = { s with agenda := t.agenda } ∧ Adds s t record) ∧
    (nd.state ≠ .done → s.inFlight n = false → ∃ t, exec .completionRecordWrite s = .next t ∧
      NodeIs t n (fun md => md.state = .done ∧ md.verdict = nd.verdict) ∧
      ((tierOf (nd.record / 64 * 64)).isSome → t.mem.getRange (nd.record / 64 * 64) 64 = nd.recordBytes s.clock) ∧
      (∀ x, x < nd.record / 64 * 64 ∨ nd.record / 64 * 64 + 64 ≤ x → t.mem.get x = s.mem.get x) ∧
      (nd.holds_ = true → ∀ c ∈ s.coresOf n, Freed (s.core c) (t.core c)) ∧
      ⟨s.clock, rankWalker, none, 0, .messagePost ⟨1, BitVec.ofNat 24 n, BitVec.ofNat 8 nd.verdict,
        BitVec.ofNat 64 nd.record⟩⟩ ∈ t.agenda) ∧
    (nd.state ≠ .done → nd.stopping = none → (s.coresOf n).Nodup → ∃ t, exec .holdBegin s = .next t ∧ t.mem = s.mem ∧
      (∀ c ∈ s.coresOf n,
        (t.core c).drv = (s.core c).drv ∧ (t.core c).pad = (s.core c).pad ∧ (t.core c).mx = (s.core c).mx ∧
        (t.core c).csr = { (s.core c).csr with holdcnt := (s.core c).csr.holdcnt + 1 } ∧
        (t.core c).place = { (s.core c).place with
          hshift := (s.core c).place.hshift + 8192, frozenUntil := s.clock + 8192, heldSince := true }) ∧
      NodeIs t n (fun md => md.holds = nd.holds + 1 ∧ md.verdict = max nd.verdict 1 ∧ md.holdEnd = some (s.clock + 8192) ∧
        (∀ d, nd.dreg = some d → md.dreg = some (if s.clock < d then d + 8192 else d)) ∧
        md.proposals = nd.proposals.map (fun p => ((if s.clock < p.1 then p.1 + 8192 else p.1), p.2))) ∧
      (∀ d ∈ s.agenda, (if d.node = some n ∧ s.clock ≤ d.cycle then { d with cycle := d.cycle + 8192 } else d) ∈ t.agenda) ∧
      ⟨s.clock + 8192, rankGrantBoundary, none, n, .holdEnd⟩ ∈ t.agenda) ∧
    ∃ t, exec .holdEnd s = .next t ∧ t = { s with nodes := t.nodes } ∧ NodeIs t n (fun md => md = { nd with
      holdEnd := if nd.holdEnd = some s.clock then none else nd.holdEnd
      holdAt := if nd.holdAt = some (s.clock - 8192) then none else nd.holdAt
      replay := nd.replay.filter (fun r => r.1 ≠ s.clock - 8192) })

/-! ### The graph walker (14) -/

/-- R231 to R237, R318: a submission reads a node and checks it; one with no dependencies is READY, a bad one ends with
cause 0x60; only a HELD node can be released or cancelled. The walker ends what cannot run, ends at once what is no
kernel, and places a kernel that fits. A message is written to the host's ring if it has room, else it waits. -/
def Obligations.GraphWalker : Prop :=
  ∀ s : State,
    let attempt : Due := ⟨s.clock, rankWalker, none, 0, .placementAttempt⟩
    let record := fun (n : Nat) => (⟨s.clock + 1, rankWalker, none, n, .completionRecordWrite⟩ : Due)
    let ends := fun (t : State) (n : Nat) (nd : Node) (cause : BitVec 8) (v : Nat) => record n ∈ t.agenda ∧
      NodeIs t n (fun md => md.state = .ending ∧ md.verdict = max nd.verdict v ∧
        (nd.report = none → ∃ r, md.report = some r ∧ r.cause = cause))
    (s.host.phase ≠ 5 → ∀ x, ∀ i ∈ [Instr.graphkickSubmit x, .graphkickRelease x, .graphkickCancel x],
      ∃ t, exec i s = .next t ∧ t = s) ∧
    (s.host.phase = 5 → ∀ x : BitVec 24,
      let m := 2 ^ s.host.gn.toNat
      let slot := s.tail % m
      let nd : Node := { Node.bare with
        state := .waiting, words := s.wordsAt (s.host.gbase.toNat + 64 * slot) 16, seq := s.submitted, readyAt := s.clock }
      let ok := nd.ok slot (fun d => (s.nodes.find d).isSome)
      (x.toNat % m + m - s.tail % m) % m = 1 → (∀ md, s.nodes.find slot = some md → md.state = .done) →
      ∃ t, exec (.graphkickSubmit x) s = .next t ∧ t.mem = s.mem ∧ t.cores = s.cores ∧ t.tail = x.toNat % m ∧
        t.submitted = s.submitted + 1 ∧ (ok = false → ends t slot nd 0x60 3) ∧
        (ok = true → nd.deps = [] → attempt ∈ t.agenda ∧
          NodeIs t slot (fun md => md = { nd with state := .ready, readyAt := s.clock }))) ∧
    (s.host.phase = 5 → ∀ (x : BitVec 24) (nd : Node), s.nodes.find x.toNat = some nd → nd.state = .held →
      (∃ t, exec (.graphkickRelease x) s = .next t ∧ attempt ∈ t.agenda ∧
        NodeIs t x.toNat (fun md => md = { nd with state := .ready, readyAt := s.clock })) ∧
      ∃ t, exec (.graphkickCancel x) s = .next t ∧ ends t x.toNat nd 0x65 4) ∧
    (s.selection = [] → ∃ t, exec .placementAttempt s = .next t ∧ t = s) ∧
    (∀ n nd, s.selection = [n] → s.nodes.find n = some nd →
      (nd.type ≠ 0 → ∃ t, exec .placementAttempt s = .next t ∧ record n ∈ t.agenda ∧
        NodeIs t n (fun md => md = { nd with state := .ending })) ∧
      (nd.type = 0 → s.messages.length < 64 →
        (s.placeable n nd = false → ∃ t, exec .placementAttempt s = .next t ∧ ends t n nd 0x61 3) ∧
        (s.placeable n nd = true → s.groupTold n nd = true → nd.saved = [] →
          (∀ c, s.readImage nd = .error c → ∃ t, exec .placementAttempt s = .next t ∧ ends t n nd c 3) ∧
          ∀ k o, s.readImage nd = .ok k → s.originFor n k = some o → ∃ t, exec .placementAttempt s = .next t ∧
            t.mem = s.mem ∧ t.cores = s.cores ∧
            NodeIs t n (fun md => md.state = .loading ∧ md.ox = o.1 ∧ md.oy = o.2 ∧ md.words = k.words) ∧
            (∀ c ∈ k.pcList, ∃ q, t.pcs.find c = some q ∧ q.owner = some n) ∧
            ∃ d ∈ t.agenda, s.clock + 1 ≤ d.cycle ∧ d.who = n ∧ d.instr = .loadComplete))) ∧
    ∀ m : Message,
      (s.host.ringFull = true → ∃ t, exec (.messagePost m) s = .next t ∧ t.mem = s.mem ∧
        t.messages = s.messages ++ [m]) ∧
      (s.host.ringFull = false → s.messages = [] → ∃ t, exec (.messagePost m) s = .next t ∧ t.messages = [] ∧
        t.host = { s.host with mhead := BitVec.ofNat 32 ((s.host.mhead.toNat + 1) % s.host.ringSize) } ∧
        (s.host.miaddr = 0 → t.mem.getRange (0x8000000000000 + s.host.mbase.toNat + 16 * s.host.mhead.toNat) 16 =
          leBytes 8 (m.type.toNat + 2 ^ 8 * m.index.toNat + 2 ^ 32 * m.verdict.toNat) ++ leBytes 8 m.payload.toNat) ∧
        (s.host.miaddr ≠ 0 → t.mem.getRange (0x8000000000000 + s.host.miaddr.toNat / 4 * 4) 4 =
          leBytes 4 s.host.midata.toNat))

/-- R237, R238, R243, R244, R249, R321: a load leaves every core of the region as at a first departure, and the walker proposes
one 1,024 cycles on; another package's proposal is taken in. A save waits for copies stamped before the cut and for
collectives, takes at most 2^19 cycles, frees the cores, changes no memory but the save records, and queues the node again; a
restore lays every context on its core, with PREEMPT set. The model's choices: a record is free bytes and the context is kept
beside it (log 59), a withdrawn copy is started over (log 87), and a save waits for accesses and commands too (log 88). -/
def Obligations.LoadSaveRestore : Prop :=
  ∀ (s : State) (nd : Node), s.nodes.find s.cur = some nd →
    let n := s.cur
    let dreg := (s.clock + 1024 + 63) / 64 * 64
    (nd.state = .loading → nd.dreg = none → ∃ t, exec .loadComplete s = .next t ∧ t.mem = s.mem ∧
      (∀ c ∈ nd.cores, t.core c = s.loadedCore n nd c) ∧ NodeIs t n (fun md => md.state = .loading) ∧
      (nd.npkg = 1 → nd.proposals = [] → NodeIs t n (fun md => md.dreg = some dreg) ∧
        ∀ c ∈ nd.cores, ⟨nd.departAt dreg c, rankVisible, some n, c, .localDeparture⟩ ∈ t.agenda)) ∧
    (∀ d e w, nd.arrived < (s.coresOf n).length → ∃ t, exec (.walkerMessage d e w) s = .next t ∧
      t = { s with nodes := t.nodes } ∧
      NodeIs t n (fun md => md = { nd with proposals := nd.proposals ++ [(nd.proposed d, e, w)] })) ∧
    (∀ d e w own, (s.coresOf n).length ≤ nd.arrived → nd.npkg = 2 → nd.proposals = [] → nd.dreg = some own →
      ∃ t, exec (.walkerMessage d e w) s = .next t ∧ t.mem = s.mem ∧ NodeIs t n (fun md =>
        md.dreg = some (max own (nd.proposed d)) ∧ md.level = min nd.level e ∧ md.proposals = [])) ∧
    (nd.state = .running → nd.stopping = none →
      let settled := (∀ p ∈ s.copies, p.2.node = some n → nd.cut ≤ p.2.due) ∧ (∀ p ∈ s.fabric.buckets, p.2.node ≠ n) ∧
        ∀ c ∈ s.coresOf n, (s.core c).settled = true
      (settled → ∃ t, exec .contextSave s = .next t ∧ t.mem = s.mem ∧ NodeIs t n (fun md => md.state = .saving) ∧
        (∀ c ∈ s.coresOf n, (t.core c).place.resident = none) ∧ ∃ d ∈ t.agenda, s.clock + 1 ≤ d.cycle ∧
          d.cycle ≤ s.clock + 2 ^ 19 ∧ d.who = n ∧ d.instr = .contextSaveComplete) ∧
      (¬ settled → ∃ t, exec .contextSave s = .next t ∧ t = { s with agenda := t.agenda } ∧
        Adds s t ⟨s.clock + 1, rankWalker, none, n, .contextSave⟩)) ∧
    (nd.state = .saving → ∃ t, exec .contextSaveComplete s = .next t ∧
      (∀ x, (∀ r ∈ t.records, x < r.lo ∨ r.hi ≤ x) → t.mem.get x = s.mem.get x) ∧
      (∀ c ∈ s.coresOf n, Freed (s.core c) (t.core c)) ∧ NodeIs t n (fun md => md.state = .ready ∧ md.preempts = nd.preempts + 1 ∧
        md.saved = (s.coresOf n).map (fun c => ⟨c % 128 - 8 * nd.ox, c / 128 - 4 * nd.oy, s.core c⟩))) ∧
    (nd.state = .restoring → nd.leaseWait = true → ∃ t, exec .contextRestoreComplete s = .next t ∧ t.mem = s.mem ∧
      NodeIs t n (fun md => md.state = .ready)) ∧
    (nd.state = .restoring → nd.leaseWait = false → s.coresOf n = [] → nd.relet = [] → nd.saved ≠ [] →
      let at_ := fun (v : Saved) => coreAt (v.x + 8 * nd.ox) (v.y + 4 * nd.oy)
      (nd.saved.map at_).Nodup → (∀ v ∈ nd.saved, v.x < 128 ∧ v.x + 8 * nd.ox < 128) →
      (∀ v ∈ nd.saved, v.context.span = [] ∧ v.context.unpinned = [] ∧ v.context.drv.late = []) →
      ∃ t, exec .contextRestoreComplete s = .next t ∧ t.mem = s.mem ∧ NodeIs t n (fun md => md.state = .running) ∧
        ∀ v ∈ nd.saved, let k := t.core (at_ v)
          k.drv.g = v.context.drv.g ∧ k.drv.p = v.context.drv.p ∧ k.drv.x = v.context.drv.x ∧
          k.drv.pc = v.context.drv.pc ∧ k.drv.hold = none ∧ k.pad = v.context.pad ∧ k.mx = v.context.mx ∧
          k.vec = v.context.vec ∧ k.q = v.context.q ∧ k.eng = v.context.eng ∧
          k.csr = { v.context.csr with
            coreix := nd.coreix (at_ v), region := nd.region, plevel := s.plevel, variant := k.csr.variant
            pointstat := v.context.csr.pointstat ||| 4 } ∧
          k.place.node = some n ∧ k.place.resident = some (s.clock + 1))

/-! ### HBM (11) -/

/-- R203, R204, R206, R208: a command of a timeline that keeps Table 11.7 leaves its mark on its bank and the next entry falls
due; one that breaks a rule stops the timetable with a DRAM fault. A refresh pays the debt by 1 or by a sixteenth; after a hold
the refreshes that the hold has made are skipped, their intervals staying idle. A window opens its slots four cycles apart. -/
def Obligations.DramCommands : Prop :=
  ∀ s : State,
    let q := s.getPc s.cur
    let now := s.clock
    let own := s.ownCommand s.cur
    let refab := Since q.refab 490 now
    let paid := fun (n : Nat) (q : PseudoChannel) => { q with debt := q.debt - n }
    let inRange := fun (n : Nat) => -128 ≤ q.debt - n ∧ q.debt - n ≤ 128
    (∀ b row, DramCommand (.dramAct b row) s (ActKept q b now)
      { q.setBank b (fun k => { k with row := some row, act := some now }) with acts := ((now, b) :: q.acts).take 8 }) ∧
    (∀ b, DramCommand (.dramPre b) s (PreKept q b now ∧ refab)
      (q.setBank b (fun k => { k with row := none, pre := some now }))) ∧
    DramCommand .dramPrea s ((∀ b, b < 16 → PreKept q b now) ∧ refab)
      { q with banks := (List.range 16).map (fun b => (b, { q.bank b with row := none, pre := some now })) } ∧
    (own = true → DramCommand .dramRefab s refab { q with refab := some now } ∧ ∀ b, DramCommand (.dramRefpb b) s refab
      (q.setBank b (fun k => { k with refpb := some now }))) ∧
    (own = false → q.skip = 0 → inRange 16 → DramCommand .dramRefab s refab (paid 16 { q with refab := some now })) ∧
    (own = false → q.skip = 0 → inRange 1 → ∀ b, DramCommand (.dramRefpb b) s refab
      (paid 1 (q.setBank b (fun k => { k with refpb := some now })))) ∧
    (own = false → 0 < q.skip →
      (inRange 16 → DramCommand .dramRefab s True (paid 16 { q with skip := q.skip - 16, refab := some now })) ∧
      (inRange 1 → ∀ b, DramCommand (.dramRefpb b) s True
        (paid 1 (({ q with skip := q.skip - 1 } : PseudoChannel).setBank b (fun k => { k with refpb := some now }))))) ∧
    ∀ slots xid, own = false → ∃ t, exec (.dramWin slots xid) s = .next t ∧ OnlyPc s t q ∧
      (t.getPc s.cur).line = q.line.drop 1 ∧
      ∀ i, i < slots → ⟨now + 4 * i, rankVisible, q.owner, s.cur, .windowSlot xid now⟩ ∈ t.agenda

/-- R205 to R207: a slot moves the unit of the command that it was given to, and is an unbound window when it was given to
none; a command whose units have not all had their slots after 2^20 cycles stops its timetable. The debt grows by one
each 4,096 cycles; between segments the sequencer precharges, as soon as Table 11.7 lets it, and refreshes; an interval
without an open window is a fault; a request to an open window gets its ACT when the window and Table 11.7 allow it, its
column command 20 cycles on, a PRE at 46, and is over at 66. The model's choices: the request's own timing (log 70), the cycle
in which an interval without a window is a fault (log 72), and whom an unbound window names (log 141). -/
def Obligations.DramService : Prop :=
  ∀ s : State,
    let q := s.getPc s.cur
    let now := s.clock
    let given := fun (p : Nat × Copy) => (p.2.slots.find? (fun b => b.pc = s.cur && b.cycle = now)).map (fun b => (p.1, p.2, b))
    (∀ xid w, q.owner = none → ∃ t, exec (.windowSlot xid w) s = .next t ∧ t = s) ∧
    (∀ xid w n, q.owner = some n → s.copies.findSome? given = none → s.shuntAt n s.cur = none →
      s.transfersRun (some n) = true → ∃ t, exec (.windowSlot xid w) s = .next t ∧ t.mem = s.mem ∧ NodeStops s t n 0x30) ∧
    (∀ xid w n id k b, q.owner = some n → s.copies.findSome? given = some (id, k, b) → s.copies.find id = some k →
      s.transfersRun (some n) = true → b.write = false → (s.carried.find k.engine).getD 0 + 64 ≤ 384 →
      let pa := k.slotPa b
      let bank := q.bank (bankOf pa)
      pcOf pa = s.cur → Since bank.act 20 now → Since q.refab 490 now → bank.row = some (rowOf pa) →
      (∀ x, q.slot = some x → x.1 + (if x.2 / 4 = bankOf pa / 4 then 4 else 3) ≤ now) →
      ∃ t, exec (.windowSlot xid w) s = .next t ∧ t.mem = s.mem ∧ t.nodes = s.nodes ∧
        t.copies.find id = some { k with reading := b.unit :: k.reading } ∧ (t.getPc s.cur).slot = some (now, bankOf pa) ∧
        Adds s t ⟨now, rankRead, k.node, id, .copyUnitRead b.unit⟩) ∧
    (∀ k, s.copies.find s.cur = some k → k.srcHbm = true →
      let had := (k.slots.filter (fun b => b.write = false && b.cycle ≤ now)).length
      (k.total ≤ had → k.dstHbm = false → ∃ t, exec .missingWindowTimeout s = .next t ∧ t = s) ∧
      (had < k.total → ∃ t, exec .missingWindowTimeout s = .next t ∧ t.mem = s.mem ∧ t.copies.find s.cur = none ∧
        ∀ n, (s.core k.core).place.node = some n → NodeStops s t n 0x31)) ∧
    (q.running = true →
      (-128 ≤ q.debt + 16 → q.debt + 16 ≤ 128 → ∃ t, exec .refreshDebtTick s = .next t ∧
        OnlyPc s t { q with debt := q.debt + 16 } ∧ Adds s t ⟨now + 4096, rankCheck, q.owner, s.cur, .refreshDebtTick⟩) ∧
      (∀ n, q.owner = some n → 128 < q.debt + 16 → ∃ t, exec .refreshDebtTick s = .next t ∧ NodeStops s t n 0x2B) ∧
      ∀ n, q.owner = some n → ∃ t, exec .openIntervalCheck s = .next t ∧ NodeStops s t n 0x2B) ∧
    (q.running = false → q.owner.isSome = true → s.holdOf s.cur = none → q.serving = none →
      (q.preaAt now ≤ now → ∃ t, exec .sequencerRefresh s = .next t ∧
        OnlyPc s t { q with
          banks := (List.range 16).map (fun b => (b, { q.bank b with row := none, pre := some now }))
          refab := some (now + 20) } ∧
        Adds s t ⟨now + 4096, rankCheck, none, s.cur, .sequencerRefresh⟩) ∧
      (now < q.preaAt now → ∃ t, exec .sequencerRefresh s = .next t ∧ t = { s with agenda := t.agenda } ∧
        Adds s t ⟨q.preaAt now, rankCheck, none, s.cur, .sequencerRefresh⟩)) ∧
    (q.running = true → q.base < now + 574 → ∃ t, exec .sequencerRefresh s = .next t ∧ t = s) ∧
    (q.running = false → ∀ i ∈ [Instr.refreshDebtTick, .openIntervalCheck], ∃ t, exec i s = .next t ∧ t = s) ∧
    ∀ r rest, q.queue = r :: rest →
      let b := bankOf r.pa
      let at_ := fun (c : Nat) => (⟨c, rankRead, none, s.cur, .openWindowRequest⟩ : Due)
      (q.serving = none → 3 ≤ s.host.phase.toNat → q.absent = false → (q.openAt (s.holdOf s.cur) b now).1 = true →
        ∃ t, exec .openWindowRequest s = .next t ∧
          Adds s t ⟨now + 20, s.requestRank r, none, s.cur, .openWindowRequest⟩ ∧ OnlyPc s t
          { q.setBank b (fun k => { k with row := some (rowOf r.pa), act := some now }) with
            acts := ((now, b) :: q.acts).take 8, serving := some (now, b, false) }) ∧
      (∀ a d c, q.serving = some (a, d, c) → now < a + (if c then 46 else 20) →
        ∃ t, exec .openWindowRequest s = .next t ∧ t = s) ∧
      (∀ a d, q.serving = some (a, d, false) → a + 20 ≤ now → r.core < 8190 →
        (∀ x ∈ s.agenda, x.who = s.cur → x.instr ≠ .openWindowRequest) →
        (s.core r.core).acc.find? (fun x => x.id = r.access) = none → pcOf r.pa = s.cur →
        Since (q.bank b).act 20 now → Since q.refab 490 now → (q.bank b).row = some (rowOf r.pa) →
        (∀ x, q.slot = some x → x.1 + (if x.2 / 4 = b / 4 then 4 else 3) ≤ now) →
        ∃ t, exec .openWindowRequest s = .next t ∧ Adds s t (at_ (max (a + 46) (now + 22))) ∧ OnlyPc s t
          { q.setBank b (fun k => { k with read := some now }) with slot := some (now, b), serving := some (a, d, true) }) ∧
      (∀ a d, q.serving = some (a, d, true) → a + 46 ≤ now → now < a + 66 → (q.bank d).row.isSome = true →
        PreKept q d now → Since q.refab 490 now → ∃ t, exec .openWindowRequest s = .next t ∧ Adds s t (at_ (a + 66)) ∧
          OnlyPc s t (q.setBank d (fun k => { k with row := none, pre := some now }))) ∧
      ∀ a d, q.serving = some (a, d, true) → a + 66 ≤ now → ∃ t, exec .openWindowRequest s = .next t ∧
        OnlyPc s t { q with serving := none, queue := rest } ∧ Adds s t (at_ now)

/-! ### Fabric (20) -/

/-- R304 to R308, R316: a join steps the clock by the offset that the timing parent's port has measured, admits the links
within their limits that the other end does not refuse, and ends boot; it does nothing while a timetable is placed. PTP messages
measure a port's offset and delay in half cycles; beyond 24 cycles once joined, and on a loss of lock, every fabric timetable of
the package stops and the host is told. Notices hold or stop a timetable for the cycle that they name; idle flits and Follow_Ups
do nothing, and a reserved flit is only counted. The model's choices: the parent among equal masters, a Delay_Req at each Sync
before the join, and admission by this port's own measurement (log 127), and the numbers 2 and 3 of time messages (log 137). -/
def Obligations.FabricTime : Prop :=
  ∀ s : State,
    let kept := fun (t : State) => t = { s with fabric := { s.fabric with ports := t.fabric.ports } }
    let alarm := fun (t : State) => t.mem = s.mem ∧ t.cores = s.cores ∧
      ⟨s.clock, rankWalker, none, 0, .messagePost ⟨5, 0, 0, BitVec.ofNat 64 s.cur⟩⟩ ∈ t.agenda ∧
      ∀ n nd, s.nodes.find n = some nd → nd.holds_ = true → nd.portList ≠ [] → NodeStops s t n 0x2F
    (∀ (choice : Nat) (after : List (Nat × Int)) (refused : List Nat),
      let step : Int := match s.bestMaster choice with
        | some p => -(((s.getPort p).offset + 1) / 2)
        | none => 0
      (4 ≤ s.host.phase.toNat → (∀ p ∈ s.nodes, p.2.holds_ = false) →
        ∃ t, exec (.fabricJoin choice after refused) s = .next t ∧ t.mem = s.mem ∧
          t.clock = ((s.clock : Int) + step).toNat ∧ t.host = { s.host with phase := 5 } ∧
          ⟨t.clock, rankWalker, none, 0, .placementAttempt⟩ ∈ t.agenda ∧ ∀ i : Fin 24, let p := s.fabric.ports[i]
            let o := ((after.find? (fun x => x.1 = i.val)).map Prod.snd).getD (p.offset + 2 * step)
            t.fabric.ports[i].admitted = (!p.withdrawn && p.delay.any (fun d => decide (d ≤ 2 * 960)) &&
              decide (o.natAbs ≤ 2 * 24) && !refused.contains i.val) ∧
            t.fabric.ports[i].parent = decide (s.bestMaster choice = some i.val) ∧ t.fabric.ports[i].locked = true ∧
            t.fabric.ports[i].offset = o) ∧
      (s.host.phase.toNat < 4 ∨ (∃ p ∈ s.nodes, p.2.holds_ = true) →
        ∃ t, exec (.fabricJoin choice after refused) s = .next t ∧ t = s)) ∧
    (∀ i : Fin 24, s.cur = i.val →
      let p := s.fabric.ports[i]
      let sets := fun (j : Instr) (r : Port) => ∃ t, exec j s = .next t ∧ kept t ∧ t.fabric.ports = s.fabric.ports.set i r
      (∀ rank, sets (.ptpAnnounce rank) { p with master := some rank }) ∧
      (∀ time : Int, sets (.ptpSync time) { p with
        sync := s.clock - time, notices := if s.fabric.joined then p.notices else p.notices ++ [(4, 2, 0)] }) ∧
      sets .ptpDelayReq { p with notices := p.notices ++ [(4, 3, s.clock)] } ∧
      (∀ time : Int, let back := time - p.req
        ∃ t, exec (.ptpDelayResp time) s = .next t ∧
          t = { s with fabric := { s.fabric with ports := t.fabric.ports }, agenda := t.agenda } ∧
          t.fabric.ports = s.fabric.ports.set i { p with delay := some (p.sync + back) } ∧
          Adds s t ⟨s.clock, rankWalker, none, s.cur, .offsetMeasurement (p.sync - back)⟩) ∧
      (∀ o : Int, o.natAbs ≤ 2 * 24 ∨ s.fabric.joined = false → sets (.offsetMeasurement o) { p with offset := o }) ∧
      (∀ o : Int, 2 * 24 < o.natAbs → s.fabric.joined = true → ∃ t, exec (.offsetMeasurement o) s = .next t ∧ alarm t ∧
        t.fabric.ports[i].offset = o) ∧
      ∃ t, exec .lossOfLock s = .next t ∧ alarm t ∧ t.fabric.ports[i].locked = false) ∧
    (∀ i ∈ [Instr.ptpFollowUp, .idleFlit], ∃ t, exec i s = .next t ∧ t = s) ∧
    (∃ t, exec .reservedFlitDrop s = .next t ∧
      t = { s with fabric := { s.fabric with corrected := s.fabric.corrected + 1 } }) ∧
    ∀ (nd : Node) (cycle : Nat), s.nodes.find s.cur = some nd →
      (nd.holdAt = none → let h := max (cycle + nd.hn) (nd.holdEnd.getD 0)
        ∃ t, exec (.holdNotice cycle) s = .next t ∧ t.mem = s.mem ∧ t.cores = s.cores ∧
          NodeIs t s.cur (fun md => md = { nd with holdAt := some h }) ∧
          ⟨h, rankHold, none, s.cur, .holdBegin⟩ ∈ t.agenda) ∧
      (nd.stopping = none → ∃ t, exec (.stopNotice cycle) s = .next t ∧ t.mem = s.mem ∧ t.cores = s.cores ∧
        NodeIs t s.cur (fun md => md = { nd with stopping := some cycle }) ∧
        ⟨max s.clock (cycle + nd.hn), rankHold, none, s.cur, .stopPulse⟩ ∈ t.agenda)

/-- R310, R312 to R315: a bucket starts at its stamp and is a slot miss when its flits are not all sent 2^20 cycles on; a
slot sends the next flits of its group 16 cycles apart; a flit reads its bytes as it leaves and performs 256 cycles
on; a contribution joins its chunk, whose reduction adds the ranks in order; data and the flag word reach their
destinations; for the final write own chunks of an all-gather are read with the cycle's reads, and the bucket retires with it. A
flit of another package is buffered 1,024 cycles from its departure on; a time slot sends a Delay_Req, and a Sync to a child, in
the next guard band. The model's choices: when a reduced chunk may leave (log 55), the order of a bucket's flits (log 75), the
input that a flit of another package is (log 136), and the numbers 1 and 2 of time messages (log 137). -/
def Obligations.Collectives : Prop :=
  ∀ (s : State) (k : Bucket), s.transfersRun (some k.node) = true →
    let at_ := fun (c rank who : Nat) (i : Instr) => (⟨c, rank, some k.node, who, i⟩ : Due)
    (∀ port i nd, s.cur = k.node → s.nodes.find s.cur = some nd →
      let start := s.clock - s.nodeShift s.cur
      let fs := k.inSlot port start 0
      (nd.timeSlot port ≠ some i → nd.slotFor port k.group i = false → bits (nd.slotWord port i) 15 0 = k.group →
        ∃ t, exec (.fabricSlot port i) s = .next t ∧ t = s) ∧
      (∀ p : Fin 24, p.val = port → nd.timeSlot port = some i → nd.holdsPorts = true → start % 2 ^ 20 = 256 * i →
        ∃ t, exec (.fabricSlot port i) s = .next t ∧ t.mem = s.mem ∧ t.cores = s.cores ∧
          t.fabric.ports[p].notices = s.fabric.ports[p].notices ++ [(4, 2, 0)] ++
            (if s.fabric.ports[p].parent then [] else [(4, 1, 0)])) ∧
      (nd.slotFor port k.group i = true → bits (nd.slotWord port i) 15 0 = k.group → start % 2 ^ 20 ≠ 256 * i →
        ∃ t, exec (.fabricSlot port i) s = .next t ∧ t = { s with agenda := t.agenda }) ∧
      ∀ id, nd.slotFor port k.group i = true → start % 2 ^ 20 = 256 * i → s.fabric.buckets.find id = some k →
        s.fabric.buckets.filter (fun p => p.2.node = s.cur && p.2.group = k.group && p.2.started &&
          p.2.stamp + 64 ≤ start && !(p.2.unsent port).isEmpty) = [(id, k)] →
        ∃ t, exec (.fabricSlot port i) s = .next t ∧ t.mem = s.mem ∧ t.cores = s.cores ∧
          (∀ f ∈ fs, at_ (s.clock + 24 + 16 * f.2) rankUnit id (k.flitStep f.1 []) ∈ t.agenda) ∧
          t.fabric.buckets.find id = some { k with
            sent := k.sent.put port ((k.sent.find port).getD 0 + fs.length) }) ∧
    (64 ≤ s.cur → s.fabric.buckets.find s.cur = some k →
      (k.started = true → 2 ≤ k.ranks → k.ranks ≤ 1024 → k.allSent = true → ∃ t, exec .bucketSendTimeout s = .next t ∧ t = s) ∧
      (k.started = true → k.allSent = false → ∃ t, exec .bucketSendTimeout s = .next t ∧ t.mem = s.mem ∧
        NodeStops s t k.node 0x2C) ∧
      (k.started = false → (∃ m ∈ k.members, m.core.isSome) → (∀ p ∈ k.members.zipIdx, k.chunkBad p = false) →
        (∀ r ∈ s.fabric.remote, ¬ (r.node = k.node ∧ r.group = k.group ∧ r.bseq = k.bseq)) →
        ∃ t, exec .bucketSendTimeout s = .next t ∧ t.mem = s.mem ∧ t.cores = s.cores ∧ t.fabric.buckets.find s.cur =
          some { k with started := true, free := false, stamp := s.clock - s.nodeShift k.node }) ∧
      (∀ (g d r : Nat) (f : Flit), d < 65536 → FlitFor k 0 f → f.payload = [] →
        k.port ⟨0, d, f.off.toNat, r⟩ = exchange →
        let p := s.memberBytes k r f.off.toNat (k.flitLen d f.off.toNat)
        ∃ t, exec (.contributionFlit g (d + 65536 * r) f) s = .next t ∧ t.mem = s.mem ∧ t.cores = s.cores ∧
          Adds s t (at_ (s.clock + 256) rankWrite s.cur (k.flitStep ⟨0, d, f.off.toNat, r⟩ p.bytes))) ∧
      (∀ (g d r : Nat) (f : Flit), d < 65536 → FlitFor k 0 f → f.payload ≠ [] → f.bad = false → k.kind ≠ 2 →
        f.off.toNat ∈ k.starts d → f.payload.length = k.flitLen d f.off.toNat →
        let got := (k.got.find d).getD 0 + f.payload.length
        ∃ t, exec (.contributionFlit g (d + 65536 * r) f) s = .next t ∧ t.mem = s.mem ∧ t.cores = s.cores ∧
          t.fabric.buckets.find s.cur = some { k with
            contrib := k.contrib.setRange (2 ^ 32 * r + f.off.toNat) f.payload, got := k.got.put d got } ∧
          (got = (k.ranks - 1) * (k.hi d - k.lo d) →
            Adds s t (at_ (s.clock + 1) rankUnit s.cur (.collectiveReduction d)))) ∧
      (∀ (g d r kind : Nat) (f : Flit) (m : Member) (sp : Span), d < 65536 → FlitFor k kind f → f.payload ≠ [] →
        f.off.toNat ∈ k.starts r → f.payload.length = k.flitLen r f.off.toNat → k.member d = some m → m.dst = some sp →
        ∀ i ∈ (if kind = 1 then [Instr.reducedResultFlit g (d + 65536 * r) f]
            else if kind = 2 then [Instr.gatheredDataFlit g (d + 65536 * r) f] else []),
          ∃ t, exec i s = .next t ∧ t.cores = s.cores ∧ t.fabric = s.fabric ∧
            t.mem = (s.spanWrite sp (m.doff + f.off.toNat) ⟨f.payload, []⟩).mem) ∧
      (∀ (g target : Nat) (f : Flit), FlitFor k 3 f → ∃ t, exec (.flagWordFlit g target f) s = .next t ∧ t.mem = s.mem ∧
        t.fabric.buckets.find s.cur = some { k with
          anf := k.anf || decide (leNat (f.payload.take 4) / 4 % 2 = 1)
          cnfIn := k.cnfIn || decide (leNat (f.payload.take 4) / 2 % 2 = 1), flagIn := true
          flagBad := k.flagBad || f.bad } ∧
        Adds s t (at_ s.clock rankRead s.cur .collectiveFinalWrite)) ∧
      (∀ rank,
        let lo := k.lo rank
        let n := k.hi rank - lo
        let size := if k.fmt = 0 then 4 else 2
        let own := s.memberBytes k rank lo n
        let part := fun (r : Nat) => if r = rank then own.bytes else k.contrib.getRange (2 ^ 32 * r + lo) n
        let out := collSum (collFmt k.fmt) ((List.range k.ranks).map (fun r => elementsOf size (n / size) (part r)))
        ∃ t m, exec (.collectiveReduction rank) s = .next t ∧ t.mem = s.mem ∧ t.cores = s.cores ∧
          t.fabric.buckets.find s.cur = some m ∧ m.result = k.result.setRange lo (out.1.flatMap (leBytes size)) ∧
          m.anf = (k.anf || out.2) ∧ m.ends.find rank = some (s.clock - s.nodeShift k.node + 15 + n / size)) ∧
      ((∀ d ∈ s.agenda, d.who = s.cur → d.instr ≠ .collectiveFinalWrite) →
        (k.ownRead = false → ∃ t m, exec .collectiveFinalWrite s = .next t ∧ t.mem = s.mem ∧ t.cores = s.cores ∧
          t.fabric.buckets.find s.cur = some m ∧ m.ownRead = true ∧ m.result = ownChunks s k ∧ m.members = k.members ∧
          Adds s t (at_ s.clock rankWrite s.cur .collectiveFinalWrite)) ∧
        (k.ownRead = true → ∃ t, exec .collectiveFinalWrite s = .next t ∧ t.mem = finalMemory s k ∧
          t.fabric.buckets = s.fabric.buckets.drop s.cur))) ∧
    ∀ (g target : Nat) (f : Flit), s.cur < 24 → f.zero = 0 → f.bad = false → s.fabric.badNext = [] →
      ∀ p ∈ [(0, Instr.contributionFlit g target f), (1, .reducedResultFlit g target f), (2, .gatheredDataFlit g target f),
          (3, .flagWordFlit g target f)], f.kind.toNat = p.1 → ∃ t, exec p.2 s = .next t ∧ t = { s with agenda := t.agenda } ∧
        Adds s t ⟨s.clock + 1024, if p.1 = 3 then rankRead else rankWrite, s.portNode s.cur, 32 + s.cur, p.2⟩

/-! ### Host and bring-up (20, 23) -/

/-- R198, R225, R317, R318, R336 to R338: the host's accesses join its queue in pieces of at most 64 bytes, and the oldest piece
has a turn of its own, in a free cycle of its depot: a read sees the writes of earlier cycles, a write stands in the front
buffer. The control aperture writes its registers or makes their steps due, and ignores other offsets; a larger ring takes the
messages that wait. An attestation latches the nonce and the boot state, and its report, signed by the key whose public half it
carries, reaches the host before BUSY falls. The bytes of the retirement list that are digested are the model's choice (log 53),
as are the key and the default signer identity (log 4). -/
def Obligations.HostLink : Prop :=
  ∀ s : State,
    let host := fun (i : Instr) (h : HostRegs) => ∃ t, exec i s = .next t ∧ t = { s with host := h }
    let h := s.host
    let turn := Instr.hostMemoryRead 0 0
    let joins := fun (i : Instr) (o : HostOp) (rank : Nat) => ∃ t, exec i s = .next t ∧ t.mem = s.mem ∧ t.cores = s.cores ∧
      t.hostOps = [(s.fresh, o)] ∧ Adds s t ⟨s.clock + 1, rank, none, 0, turn⟩
    (h.phase ≠ 0 → s.hostOps = [] → (∀ d ∈ s.agenda, d.instr ≠ turn) → ∀ pa n, tierOf pa = some .depot → 0 < n →
      n ≤ 64 - pa % 64 → joins (.hostMemoryRead pa n) ⟨pa, false, n, []⟩ rankRead ∧
      ∀ bytes : List Byte, bytes.length = n → joins (.hostMemoryWrite pa bytes) ⟨pa, true, n, bytes⟩ rankStore) ∧
    (h.phase ≠ 0 → ∀ id o, s.hostOps = [(id, o)] → tierOf o.pa = some .depot → s.depotQueue (memDie o.pa) = [] →
      (s.depotFree (memDie o.pa) = false → (∀ d ∈ s.agenda, d.instr ≠ turn) → ∃ t, exec turn s = .next t ∧ t.mem = s.mem ∧
        t.hostOps = s.hostOps ∧ t.replies = s.replies ∧
        Adds s t ⟨s.clock + 1, if o.write then rankStore else rankRead, none, 0, turn⟩) ∧
      (s.depotFree (memDie o.pa) = true → ∃ t, exec turn s = .next t ∧ t.mem = s.mem ∧ t.cores = s.cores ∧ t.hostOps = [] ∧
        (o.write = false → t.replies = (o.pa, ⟨s.loadBytes o.pa o.n, poisonIn s.bad o.pa o.n⟩) :: s.replies) ∧
        (o.write = true → ∃ f ∈ t.front, f.pa = o.pa ∧ f.size = o.bytes.length ∧
          (∀ i, (l : i < o.bytes.length) → f.bytes.get i = o.bytes[i]) ∧
          ∃ q ∈ t.agenda, s.clock ≤ q.cycle ∧ q.who = f.id ∧ q.instr = .storeArrival))) ∧
    (∀ v, let n := (v.extractLsb' 0 5).toNat
      host (.gbaseWrite v) { h with
        gbase := v &&& 0xFFFFFFFFF0000
        gn := if 1 ≤ n ∧ n ≤ 24 ∧ ∀ p ∈ s.nodes, p.2.state = .done then v.setWidth 5 else h.gn }) ∧
    (∀ r ∈ apertureWrites, ∀ v, host (.registerWrite r.1 v) (r.2 h v)) ∧
    (∀ v, ∀ r ∈ apertureSteps v, ∃ t, exec (.registerWrite r.1 v) s = .next t ∧ t = { s with agenda := t.agenda } ∧
      ⟨s.clock, rankVisible, none, r.2.1, r.2.2⟩ ∈ t.agenda) ∧
    (∀ (p : Fin 128) (v : DWord), v.getLsbD 0 = true → ∃ t, exec (.registerWrite (BitVec.ofNat 16 (0x1000 + 8 * p.val)) v) s =
      .next t ∧ t = { s with agenda := t.agenda } ∧ Adds s t ⟨s.clock, rankVisible, none, p.val, .pwake⟩) ∧
    (∀ (off : BitVec 16) (v : DWord), off ∉ apertureOffsets →
      off.toNat < 0x1000 ∨ 0x1400 ≤ off.toNat ∨ off.toNat % 8 ≠ 0 ∨ v.getLsbD 0 = false → host (.registerWrite off v) h) ∧
    (∀ v : DWord, v.extractLsb' 30 2 = 3#2 → host (.registerWrite 0x08 v) h) ∧
    (∀ v : DWord, let ring := { h with mbase := v &&& 0x7FFFFFFFFF000, msize := v.setWidth 4 }
      (s.messages = [] → host (.registerWrite 0x18 v) ring ∧ host (.registerWrite 0x28 v) { h with mtail := v.setWidth 32 }) ∧
      ∀ m, s.messages = [m] → ring.ringFull = false → ∃ t, exec (.registerWrite 0x18 v) s = .next t ∧ t.messages = [] ∧
        t.host = { ring with mhead := BitVec.ofNat 32 ((h.mhead.toNat + 1) % ring.ringSize) }) ∧
    (∀ (i : Fin 4) v, host (.attnonceWrite i v)
      (if h.attbusy then { h with atterr := true } else { h with nonce := h.nonce.set i v })) ∧
    (∀ v, host (.attaddrWrite v)
      (if h.attbusy then { h with atterr := true } else { h with attaddr := v &&& 0x7FFFFFFFFFF00 })) ∧
    host .attctlErrClear { h with atterr := false } ∧
    (h.phase ≠ 5 ∨ h.attbusy = true → host .attestationGo { h with atterr := true }) ∧
    (h.phase = 5 → h.attbusy = false → ∃ t, exec .attestationGo s = .next t ∧ t.mem = s.mem ∧ t.cores = s.cores ∧
      t.host = { h with attbusy := true, latched := h.nonce, latchedBoot := h.bootstat } ∧
      ∃ d ∈ t.agenda, s.clock < d.cycle ∧ d.cycle ≤ s.clock + 2 ^ 24 ∧ d.instr = .attestationReportWrite) ∧
    (h.attbusy = true → ∃ t, exec .attestationReportWrite s = .next t ∧ t.cores = s.cores ∧
      t.host = { h with repcnt := h.repcnt + 1, attbusy := false } ∧
      let body := leBytes 8 Config.devId.toNat ++ leBytes 8 (h.repcnt + 1).toNat ++
        h.latched.toList.flatMap (fun w => leBytes 8 w.toNat) ++
        beBytes 32 (sm3 (h.headers.flatMap id)).toNat ++ beBytes 32 (sm3 (retirementBytes h.retiredStore)).toNat ++
        leBytes 8 h.latchedBoot.toNat ++ List.replicate 8 0 ++ beBytes 64 (sm2Public identityKey).toNat
      t.mem.getRange (0x8000000000000 + h.attaddr.toNat) 256 =
        body ++ beBytes 64 (sm2Sign identityKey (1 + Config.identityNonce (sm3 body).toNat % (sm2n - 1)) body).toNat)

/-- R331 to R335: boot goes through its phases. Three images that verify lead to phase 2 with the signal boxes started at system
level, interrupts off; one that does not stops the device, which only a device reset brings back. Training names the stacks that
work, sets their mode registers and writes one row of each bank of theirs; the self-test retires pairs, and a reset leaves what
it must not lose: fused versions and the retirement list. The model's choices: memory that reads 0 after a reset (log 2), host
memory that is kept (log 112), the entry of a signal-box image (log 54), and what the trained rows hold (log 144). -/
def Obligations.BringUp : Prop :=
  ∀ s : State,
    let fails := fun (i : Instr) (err : BitVec 4) => ∃ t, exec i s = .next t ∧ t.host.phase = 15 ∧ t.host.err = err ∧
      t.inputs = s.inputs ∧ (nextReset s.inputs = none → step t = .fault .bootFailed) ∧
      ∀ a r, nextReset s.inputs = some (a, r) → step t = exec .deviceReset { t with inputs := r, clock := max t.clock a.cycle }
    (s.host.phase = 0 → ∀ images, ∃ t, exec (.imageVerification images) s = .next t ∧ t.cores = s.cores ∧
      t.host = { s.host with phase := 1 } ∧ ∃ d ∈ t.agenda, s.clock < d.cycle ∧ d.instr = .imageVerification images) ∧
    (s.host.phase = 1 → ∀ a b c : List Byte,
      (imageError 1 s.host.minVersion[0].toNat a = none → imageError 2 s.host.minVersion[1].toNat b = none →
        imageError 3 s.host.minVersion[2].toNat c = none → ∃ t, exec (.imageVerification [a, b, c]) s = .next t ∧
          t.mem = s.mem ∧ t.host = { s.host with
            phase := 2, headers := s.host.headers ++ [a.take 256, b.take 256, c.take 256]
            minVersion := s.host.minVersion.set 0 (BitVec.ofNat 32 (imageField a 4 4)), boxImage := imagePayload c } ∧
          ∀ d, d < 8 → (t.core (4096 + d)).priv = true ∧ (t.core (4096 + d)).ie = false ∧
            (t.core (4096 + d)).timed = false ∧ (t.core (4096 + d)).drv.pc = Config.boxEntry (imagePayload c) ∧
            (t.core (4096 + d)).drv.g = Vector.replicate 32 0 ∧
            (t.core (4096 + d)).drv.code = Cells.dense 0 (imagePayload c)) ∧
      ∀ e, imageError 1 s.host.minVersion[0].toNat a = some e → fails (.imageVerification [a, b, c]) e) ∧
    (s.host.phase = 2 → ∀ failed,
      ((∃ n, n < 16 ∧ n ∉ failed) → ∃ t, exec (.hbmTraining failed) s = .next t ∧ t.host.phase = 3 ∧
        (∀ x, (∀ c, c < 1024 → c / 64 ∉ failed →
          let a := 2 ^ 36 * (c / 64) + 2 ^ 30 * (c % 64) + 2 ^ 14 * (Config.trainingRow % 65536)
          x < a ∨ a + 2 ^ 14 ≤ x) → t.mem.get x = s.mem.get x) ∧
        t.host.hbmMode = s.host.hbmMode ||| t.host.hbmok ∧ (∀ n, n < 16 → t.host.hbmok.getLsbD n = decide (n ∉ failed)) ∧
        ∀ n c, n < 16 → n ∈ failed → c < 64 → (t.getPc (64 * n + c)).absent = true) ∧
      ((∀ n, n < 16 → n ∈ failed) → fails (.hbmTraining failed) 3)) ∧
    (s.host.phase = 3 → ∀ failed,
      ((∃ p, p < 128 ∧ p ∉ failed ∧ (s.getPair p).retired = false) → ∃ t, exec (.powerOnSelfTest failed) s = .next t ∧
        t.mem = s.mem ∧ t.host.phase = 4 ∧
        ∀ p, p < 128 → (t.getPair p).retired = ((s.getPair p).retired || decide (p ∈ failed))) ∧
      ((∀ p, p < 128 → p ∈ failed) → fails (.powerOnSelfTest failed) 4)) ∧
    ∃ t, exec .deviceReset s = .next t ∧ t.clock = 0 ∧ t.cores = [] ∧ t.nodes = [] ∧ t.agenda = [] ∧ t.copies = [] ∧
      t.pcs = [] ∧ t.front = [] ∧ t.host = { HostRegs.reset with
        minVersion := s.host.minVersion, retiredStore := s.host.retiredStore
        retired := BitVec.ofNat 16 s.host.retiredStore.length } ∧
      (∀ a, a < 0x8000000000000 → Cells.wf s.mem = true → t.mem.get a = 0) ∧
      (∀ a, 0x8000000000000 ≤ a → Cells.wf s.mem = true → t.mem.get a = s.mem.get a) ∧
      ((∀ e ∈ s.host.retiredStore, e.2 < 16) →
        ∀ p, p < 128 → (t.getPair p).retired = decide ((p / 16, p % 16) ∈ s.host.retiredStore))

/-! ### Words and steps (04, 00) -/

/-- R60 to R69, R71: the words of instructions written out from the formats of Tables 4.1 to 4.9, among them those of
Table 4.10, are decoded to those instructions; a word with a reserved code, a bit in a zero field or a value that the
tables exclude is decoded to none. -/
def Obligations.DecodedWords : Prop :=
  let matrix := Stream.engine .matrix
  let vector := Stream.engine .vector
  (∀ p ∈ [(Stream.driver, (0b00000100001000100001100000000001#32), Instr.sub 1 2 3),
      (.driver, 0x10A00133#32, .ori 5 0 0x133), (.driver, 0x28A27FFD#32, .cmpi 1 2 4 0x7FFD),
      (.driver, 0x68028000#32, .wbpush 5), (.driver, 0x88320110#32, .csrrd 4 0x022),
      (.driver, 0b01001100111001010100000000011000#32, .ldg 7 5 1 24),
      (.driver, 0b00110100110000000000000000000010#32, .br 1 1 2),
      (.engine .load, 0x0000004A#32, .idle 0 74), (.engine .load, 0x33E00000#32, .tkpush 3 0 0),
      (.engine .load, 0b00010100000100100011100000000100#32, .ldring 1 1 2 1 3 0 4),
      (.engine .store, 0b00000000010000010100110010100110#32, .sqnt 0 0 1 2 3 0 1 1 3),
      (matrix, 0x34310240#32, .mmul 3 1 4 2 1), (matrix, 0b00000000000100000000001110000001#32, .mlds 0 0 3 2 1),
      (vector, 0x00346004#32, .vmul 0 0 8 24 0 1 0), (vector, 0x11FC2540#32, .vqnt 1 0 24 9 5 0 0 0)],
    decode p.1 p.2.1 = .ok p.2.2) ∧
  ∀ p ∈ [(Stream.driver, 0x00000000#32, Reject.reservedOpcode), (.driver, 0x04221814#32, .reservedOpcode),
      (.driver, 0x04221840#32, .nonzeroZeroField), (.driver, 0x58000000#32, .excludedField),
      (matrix, 0x03C00000#32, .reservedOpcode), (matrix, 0x00410440#32, .excludedField),
      (.engine .store, 0b00000000010000010100111001100110#32, .excludedField)],
    decode p.1 p.2.1 = .error p.2.2

/-- R60 to R71: the word of an instruction with legal operands is decoded, in a stream that has it, to that instruction
with the same operands; what is decoded is legal and its word is the one read; every legal order of an engine has a
word. -/
def Obligations.DecodeEncode : Prop :=
  (∀ (st : Stream) (i : Instr) (w : Word), i.legalIn st = true → encode i = some w → decode st w = .ok i) ∧
  (∀ (st : Stream) (i : Instr) (w : Word), decode st w = .ok i → encode i = some w ∧ i.legalIn st = true) ∧
  ∀ (e : Eng) (i : Instr), i.legalIn (.engine e) = true → (encode i).isSome = true

/-- R55, R59, R64, R71, R276, R331: a step in which nothing is due before issue runs the instruction that the word of the
first ready stream is decoded to, on the state before it; a word that is none, and a poisoned table word, run as an
illegal one, and a pending interrupt before either. What is due before issue comes first, and when nothing issues and
nothing is due the Station Clock ticks. A device in boot phase 15 has stopped until a device reset. The order of the streams
that are ready in one cycle (log 8) and the ranks below 4, which come before issue (log 34), are the model's choices. -/
def Obligations.StepRunsDecoded : Prop :=
  ∀ s : State,
    (s.host.phase = 15 → (nextReset s.inputs = none → step s = .fault .bootFailed) ∧
      ∀ a r, nextReset s.inputs = some (a, r) →
        step s = exec .deviceReset { s with inputs := r, clock := max s.clock a.cycle }) ∧
    (s.host.phase ≠ 15 → s.arrival = none →
      (∀ d, s.dueNow = some d → d.rank < 4 → step s = exec d.instr { s with agenda := s.agenda.drop 1, cur := d.who }) ∧
      (s.dueNow = none → s.nextStream = none → step s = exec .stationClockTick s) ∧
      ((∀ d, s.dueNow = some d → 4 ≤ d.rank) →
        (∀ c, s.nextStream = some (c, .driver) →
          let k := s.core c
          let w := BitVec.ofNat 32 (k.drv.code.readLE k.drv.pc.toNat 4)
          (k.ie = false ∨ s.interrupt c = none →
            (∀ i, decode .driver w = .ok i → step s = exec i { s with cur := c }) ∧
            (∀ r, decode .driver w = .error r → step s = exec (.illegalInstruction w) { s with cur := c })) ∧
          (k.ie = true → ∀ code, s.interrupt c = some code → step s = exec (.interruptTaken code) { s with cur := c })) ∧
        ∀ c e, s.nextStream = some (c, .engine e) →
          let g := (s.core c).engine e
          let at_ := g.step.toNat + (if g.bank then 1024 else 0)
          let w := g.table.get at_
          (∀ i, g.bad.get at_ = 0 → decode (.engine e) w = .ok i → step s = exec i { s with cur := c, curEng := e }) ∧
          ((g.bad.get at_ ≠ 0 ∨ ∃ r, decode (.engine e) w = .error r) →
            step s = exec (.illegalMicroOrder w) { s with cur := c, curEng := e })))

/-! ### Reset and the canonical form (01, 15, 23) -/

/-- Tables 1.2 to 1.9, 15.4, R12, R13, R16, R19, R22, R23, R25, R331: what the machine holds right after reset. (That
memory reads zero there is the model's choice, log 2.) -/
def Obligations.ResetValues : Prop :=
  let s := State.reset
  s.clock = 0 ∧ s.host.phase = 0 ∧ s.host.err = 0 ∧ s.pgrant.setWidth 3 = 0#3 ∧ s.nodes = [] ∧ s.messages = [] ∧
  Memory.wf s.mem = true ∧ Cells.wf s.bad = true ∧ (∀ a, s.mem.get a = 0) ∧
  (∀ d : Fin 8, s.dies[d].capIl = 16 ∧ s.dies[d].capSrt = 16 ∧ s.dies[d].capInf = 32 ∧ s.dies[d].capSh = 8 ∧
    s.dies[d].capBoost = 0 ∧ s.dies[d].blen = 2 ^ 24 ∧ (∀ n : Fin 8, s.dies[d].slew[n] = 64) ∧
    ∀ p : Fin 16, let q := s.dies[d].pair[p]
      q.clk = true ∧ q.rail = true ∧ q.state = 2 ∧ q.req = false ∧ q.ack = false ∧ q.wake = false ∧ q.rbusy = false ∧
        q.seqerr = false ∧ q.pretb = 0 ∧ q.pimb = 0) ∧
  ∀ c, let k := s.core c
    k.timed = true ∧ k.priv = false ∧ k.ie = false ∧ (∀ r, k.drv.readG r = 0) ∧ (∀ r, k.drv.readX r = 0) ∧
    (∀ r, k.drv.readP r = decide (r = 0)) ∧
    (∀ a ∈ [0x001, 0x002, 0x003, 0x004, 0x005, 0x006, 0x032, 0x040, 0x050, 0x060, 0x062, 0x063, 0x070, 0x071],
      ∀ r ∈ csrTable, r.1 = a → r.2.1 k = 0) ∧ k.csr.ectl = 0x1FF00 ∧ (∀ n : Fin 8, k.csr.ewt[n] = 0) ∧
    (∀ t : Fin 64, k.mx.growth[t] = 0x80) ∧ (∀ x, k.mx.acc.get x = 0) ∧
    (∀ e, (k.engine e).status = .stopped ∧ ∀ n : Fin 8, (k.engine e).ag[n] = ⟨0, 0, 0, 1, 1, 0⟩) ∧
    (∀ r : Fin 16, k.ring[r].slot = 1 ∧ k.ring[r].count = 1 ∧ k.ring[r].base = 0 ∧ k.ring[r].head = 0 ∧
      k.ring[r].tail = 0 ∧ k.ring[r].seqIn = 0 ∧ k.ring[r].seqOut = 0 ∧ k.ring[r].swz = 0) ∧
    k.q.waybill = [] ∧ k.q.param = [] ∧ (∀ n : Fin 4, k.q.vq[n] = [] ∧ k.q.oq[n] = []) ∧ (∀ n : Fin 6, k.q.token[n] = []) ∧
    (∀ x, k.vec.v.get x = 0) ∧ k.vec.rrb = 0 ∧ k.vec.vnf = false ∧ ∀ n : Fin 16, k.ss[n] = 0

/-- Whatever a step does, memory and its poison stay in their one canonical form (the model's form, log 2). -/
def Obligations.MemoryStaysCanonical : Prop :=
  ∀ s t : State, Memory.wf s.mem = true → Cells.wf s.bad = true → step s = .next t →
    Memory.wf t.mem = true ∧ Cells.wf t.bad = true

end
end

