-- ==== Sys2Proof/Laws/State.lean ====
section
/-! SUPPORT. What each update of the state, of a core and of a driver leaves alone: one lemma per field per update. -/

namespace Sys2Proof.Machine

/-! ### Tables -/

@[simp] theorem find_put_same {α : Type} (t : Table α) (k : Nat) (v : α) : (t.put k v).find k = some v := by
  induction t with
  | nil => simp [Table.put, Table.find]
  | cons p r ih =>
    obtain ⟨j, x⟩ := p
    by_cases h : k = j
    · simp [Table.put, Table.find, h]
    · by_cases h2 : k < j <;> simp [Table.put, Table.find, h, h2, ih]

theorem find_put_other {α : Type} (t : Table α) (k m : Nat) (v : α) (h : m ≠ k) :
    (t.put k v).find m = t.find m := by
  induction t with
  | nil => simp [Table.put, Table.find, h]
  | cons p r ih =>
    obtain ⟨j, x⟩ := p
    by_cases h1 : k = j
    · subst h1; simp [Table.put, Table.find, h]
    · by_cases h2 : k < j
      · simp [Table.put, Table.find, h1, h2, h]
      · by_cases h3 : m = j <;> simp [Table.put, Table.find, h1, h2, h3, ih]

/-! ### The state: a core changed, a step placed -/

@[simp] theorem modCore_clock (s : State) (c : Nat) (f : Core → Core) : (s.modCore c f).clock = s.clock := rfl
@[simp] theorem modCore_cur (s : State) (c : Nat) (f : Core → Core) : (s.modCore c f).cur = s.cur := rfl
@[simp] theorem modCore_curEng (s : State) (c : Nat) (f : Core → Core) : (s.modCore c f).curEng = s.curEng := rfl
@[simp] theorem modCore_agenda (s : State) (c : Nat) (f : Core → Core) : (s.modCore c f).agenda = s.agenda := rfl
@[simp] theorem modCore_inputs (s : State) (c : Nat) (f : Core → Core) : (s.modCore c f).inputs = s.inputs := rfl
@[simp] theorem modCore_dies (s : State) (c : Nat) (f : Core → Core) : (s.modCore c f).dies = s.dies := rfl
@[simp] theorem modCore_mem (s : State) (c : Nat) (f : Core → Core) : (s.modCore c f).mem = s.mem := rfl
@[simp] theorem modCore_bad (s : State) (c : Nat) (f : Core → Core) : (s.modCore c f).bad = s.bad := rfl
@[simp] theorem modCore_front (s : State) (c : Nat) (f : Core → Core) : (s.modCore c f).front = s.front := rfl
@[simp] theorem modCore_arrived (s : State) (c : Nat) (f : Core → Core) : (s.modCore c f).arrived = s.arrived := rfl
@[simp] theorem modCore_invs (s : State) (c : Nat) (f : Core → Core) : (s.modCore c f).invs = s.invs := rfl
@[simp] theorem modCore_pins (s : State) (c : Nat) (f : Core → Core) : (s.modCore c f).pins = s.pins := rfl
@[simp] theorem modCore_copies (s : State) (c : Nat) (f : Core → Core) : (s.modCore c f).copies = s.copies := rfl
@[simp] theorem modCore_carried (s : State) (c : Nat) (f : Core → Core) : (s.modCore c f).carried = s.carried := rfl
@[simp] theorem modCore_pcs (s : State) (c : Nat) (f : Core → Core) : (s.modCore c f).pcs = s.pcs := rfl
@[simp] theorem modCore_hostOps (s : State) (c : Nat) (f : Core → Core) : (s.modCore c f).hostOps = s.hostOps := rfl
@[simp] theorem modCore_replies (s : State) (c : Nat) (f : Core → Core) : (s.modCore c f).replies = s.replies := rfl
@[simp] theorem modCore_nodes (s : State) (c : Nat) (f : Core → Core) : (s.modCore c f).nodes = s.nodes := rfl
@[simp] theorem modCore_tail (s : State) (c : Nat) (f : Core → Core) : (s.modCore c f).tail = s.tail := rfl
@[simp] theorem modCore_submitted (s : State) (c : Nat) (f : Core → Core) : (s.modCore c f).submitted = s.submitted := rfl
@[simp] theorem modCore_saveUsed (s : State) (c : Nat) (f : Core → Core) : (s.modCore c f).saveUsed = s.saveUsed := rfl
@[simp] theorem modCore_records (s : State) (c : Nat) (f : Core → Core) : (s.modCore c f).records = s.records := rfl
@[simp] theorem modCore_wroteNow (s : State) (c : Nat) (f : Core → Core) : (s.modCore c f).wroteNow = s.wroteNow := rfl
@[simp] theorem modCore_hostPages (s : State) (c : Nat) (f : Core → Core) : (s.modCore c f).hostPages = s.hostPages := rfl
@[simp] theorem modCore_pgrant (s : State) (c : Nat) (f : Core → Core) : (s.modCore c f).pgrant = s.pgrant := rfl
@[simp] theorem modCore_plevel (s : State) (c : Nat) (f : Core → Core) : (s.modCore c f).plevel = s.plevel := rfl
@[simp] theorem modCore_host (s : State) (c : Nat) (f : Core → Core) : (s.modCore c f).host = s.host := rfl
@[simp] theorem modCore_messages (s : State) (c : Nat) (f : Core → Core) : (s.modCore c f).messages = s.messages := rfl
@[simp] theorem modCore_fabric (s : State) (c : Nat) (f : Core → Core) : (s.modCore c f).fabric = s.fabric := rfl
@[simp] theorem modCore_guardBad (s : State) (c : Nat) (f : Core → Core) : (s.modCore c f).guardBad = s.guardBad := rfl
@[simp] theorem modCore_fresh (s : State) (c : Nat) (f : Core → Core) : (s.modCore c f).fresh = s.fresh := rfl
@[simp] theorem modMe_clock (s : State) (f : Core → Core) : (s.modMe f).clock = s.clock := rfl
@[simp] theorem modMe_cur (s : State) (f : Core → Core) : (s.modMe f).cur = s.cur := rfl
@[simp] theorem modMe_curEng (s : State) (f : Core → Core) : (s.modMe f).curEng = s.curEng := rfl
@[simp] theorem modMe_agenda (s : State) (f : Core → Core) : (s.modMe f).agenda = s.agenda := rfl
@[simp] theorem modMe_inputs (s : State) (f : Core → Core) : (s.modMe f).inputs = s.inputs := rfl
@[simp] theorem modMe_dies (s : State) (f : Core → Core) : (s.modMe f).dies = s.dies := rfl
@[simp] theorem modMe_mem (s : State) (f : Core → Core) : (s.modMe f).mem = s.mem := rfl
@[simp] theorem modMe_bad (s : State) (f : Core → Core) : (s.modMe f).bad = s.bad := rfl
@[simp] theorem modMe_front (s : State) (f : Core → Core) : (s.modMe f).front = s.front := rfl
@[simp] theorem modMe_arrived (s : State) (f : Core → Core) : (s.modMe f).arrived = s.arrived := rfl
@[simp] theorem modMe_invs (s : State) (f : Core → Core) : (s.modMe f).invs = s.invs := rfl
@[simp] theorem modMe_pins (s : State) (f : Core → Core) : (s.modMe f).pins = s.pins := rfl
@[simp] theorem modMe_copies (s : State) (f : Core → Core) : (s.modMe f).copies = s.copies := rfl
@[simp] theorem modMe_carried (s : State) (f : Core → Core) : (s.modMe f).carried = s.carried := rfl
@[simp] theorem modMe_pcs (s : State) (f : Core → Core) : (s.modMe f).pcs = s.pcs := rfl
@[simp] theorem modMe_hostOps (s : State) (f : Core → Core) : (s.modMe f).hostOps = s.hostOps := rfl
@[simp] theorem modMe_replies (s : State) (f : Core → Core) : (s.modMe f).replies = s.replies := rfl
@[simp] theorem modMe_nodes (s : State) (f : Core → Core) : (s.modMe f).nodes = s.nodes := rfl
@[simp] theorem modMe_tail (s : State) (f : Core → Core) : (s.modMe f).tail = s.tail := rfl
@[simp] theorem modMe_submitted (s : State) (f : Core → Core) : (s.modMe f).submitted = s.submitted := rfl
@[simp] theorem modMe_saveUsed (s : State) (f : Core → Core) : (s.modMe f).saveUsed = s.saveUsed := rfl
@[simp] theorem modMe_records (s : State) (f : Core → Core) : (s.modMe f).records = s.records := rfl
@[simp] theorem modMe_wroteNow (s : State) (f : Core → Core) : (s.modMe f).wroteNow = s.wroteNow := rfl
@[simp] theorem modMe_hostPages (s : State) (f : Core → Core) : (s.modMe f).hostPages = s.hostPages := rfl
@[simp] theorem modMe_pgrant (s : State) (f : Core → Core) : (s.modMe f).pgrant = s.pgrant := rfl
@[simp] theorem modMe_plevel (s : State) (f : Core → Core) : (s.modMe f).plevel = s.plevel := rfl
@[simp] theorem modMe_host (s : State) (f : Core → Core) : (s.modMe f).host = s.host := rfl
@[simp] theorem modMe_messages (s : State) (f : Core → Core) : (s.modMe f).messages = s.messages := rfl
@[simp] theorem modMe_fabric (s : State) (f : Core → Core) : (s.modMe f).fabric = s.fabric := rfl
@[simp] theorem modMe_guardBad (s : State) (f : Core → Core) : (s.modMe f).guardBad = s.guardBad := rfl
@[simp] theorem modMe_fresh (s : State) (f : Core → Core) : (s.modMe f).fresh = s.fresh := rfl
@[simp] theorem due_clock (s : State) (c r : Nat) (n : Option Nat) (w : Nat) (i : Instr) : (s.due c r n w i).clock = s.clock := rfl
@[simp] theorem due_cur (s : State) (c r : Nat) (n : Option Nat) (w : Nat) (i : Instr) : (s.due c r n w i).cur = s.cur := rfl
@[simp] theorem due_curEng (s : State) (c r : Nat) (n : Option Nat) (w : Nat) (i : Instr) : (s.due c r n w i).curEng = s.curEng := rfl
@[simp] theorem due_inputs (s : State) (c r : Nat) (n : Option Nat) (w : Nat) (i : Instr) : (s.due c r n w i).inputs = s.inputs := rfl
@[simp] theorem due_cores (s : State) (c r : Nat) (n : Option Nat) (w : Nat) (i : Instr) : (s.due c r n w i).cores = s.cores := rfl
@[simp] theorem due_dies (s : State) (c r : Nat) (n : Option Nat) (w : Nat) (i : Instr) : (s.due c r n w i).dies = s.dies := rfl
@[simp] theorem due_mem (s : State) (c r : Nat) (n : Option Nat) (w : Nat) (i : Instr) : (s.due c r n w i).mem = s.mem := rfl
@[simp] theorem due_bad (s : State) (c r : Nat) (n : Option Nat) (w : Nat) (i : Instr) : (s.due c r n w i).bad = s.bad := rfl
@[simp] theorem due_front (s : State) (c r : Nat) (n : Option Nat) (w : Nat) (i : Instr) : (s.due c r n w i).front = s.front := rfl
@[simp] theorem due_arrived (s : State) (c r : Nat) (n : Option Nat) (w : Nat) (i : Instr) : (s.due c r n w i).arrived = s.arrived := rfl
@[simp] theorem due_invs (s : State) (c r : Nat) (n : Option Nat) (w : Nat) (i : Instr) : (s.due c r n w i).invs = s.invs := rfl
@[simp] theorem due_pins (s : State) (c r : Nat) (n : Option Nat) (w : Nat) (i : Instr) : (s.due c r n w i).pins = s.pins := rfl
@[simp] theorem due_copies (s : State) (c r : Nat) (n : Option Nat) (w : Nat) (i : Instr) : (s.due c r n w i).copies = s.copies := rfl
@[simp] theorem due_carried (s : State) (c r : Nat) (n : Option Nat) (w : Nat) (i : Instr) : (s.due c r n w i).carried = s.carried := rfl
@[simp] theorem due_pcs (s : State) (c r : Nat) (n : Option Nat) (w : Nat) (i : Instr) : (s.due c r n w i).pcs = s.pcs := rfl
@[simp] theorem due_hostOps (s : State) (c r : Nat) (n : Option Nat) (w : Nat) (i : Instr) : (s.due c r n w i).hostOps = s.hostOps := rfl
@[simp] theorem due_replies (s : State) (c r : Nat) (n : Option Nat) (w : Nat) (i : Instr) : (s.due c r n w i).replies = s.replies := rfl
@[simp] theorem due_nodes (s : State) (c r : Nat) (n : Option Nat) (w : Nat) (i : Instr) : (s.due c r n w i).nodes = s.nodes := rfl
@[simp] theorem due_tail (s : State) (c r : Nat) (n : Option Nat) (w : Nat) (i : Instr) : (s.due c r n w i).tail = s.tail := rfl
@[simp] theorem due_submitted (s : State) (c r : Nat) (n : Option Nat) (w : Nat) (i : Instr) : (s.due c r n w i).submitted = s.submitted := rfl
@[simp] theorem due_saveUsed (s : State) (c r : Nat) (n : Option Nat) (w : Nat) (i : Instr) : (s.due c r n w i).saveUsed = s.saveUsed := rfl
@[simp] theorem due_records (s : State) (c r : Nat) (n : Option Nat) (w : Nat) (i : Instr) : (s.due c r n w i).records = s.records := rfl
@[simp] theorem due_wroteNow (s : State) (c r : Nat) (n : Option Nat) (w : Nat) (i : Instr) : (s.due c r n w i).wroteNow = s.wroteNow := rfl
@[simp] theorem due_hostPages (s : State) (c r : Nat) (n : Option Nat) (w : Nat) (i : Instr) : (s.due c r n w i).hostPages = s.hostPages := rfl
@[simp] theorem due_pgrant (s : State) (c r : Nat) (n : Option Nat) (w : Nat) (i : Instr) : (s.due c r n w i).pgrant = s.pgrant := rfl
@[simp] theorem due_plevel (s : State) (c r : Nat) (n : Option Nat) (w : Nat) (i : Instr) : (s.due c r n w i).plevel = s.plevel := rfl
@[simp] theorem due_host (s : State) (c r : Nat) (n : Option Nat) (w : Nat) (i : Instr) : (s.due c r n w i).host = s.host := rfl
@[simp] theorem due_messages (s : State) (c r : Nat) (n : Option Nat) (w : Nat) (i : Instr) : (s.due c r n w i).messages = s.messages := rfl
@[simp] theorem due_fabric (s : State) (c r : Nat) (n : Option Nat) (w : Nat) (i : Instr) : (s.due c r n w i).fabric = s.fabric := rfl
@[simp] theorem due_guardBad (s : State) (c r : Nat) (n : Option Nat) (w : Nat) (i : Instr) : (s.due c r n w i).guardBad = s.guardBad := rfl
@[simp] theorem due_fresh (s : State) (c r : Nat) (n : Option Nat) (w : Nat) (i : Instr) : (s.due c r n w i).fresh = s.fresh := rfl
@[simp] theorem timedAt_clock (s : State) (c n r : Nat) (i : Instr) : (s.timedAt c n r i).clock = s.clock := rfl
@[simp] theorem timedAt_cur (s : State) (c n r : Nat) (i : Instr) : (s.timedAt c n r i).cur = s.cur := rfl
@[simp] theorem timedAt_curEng (s : State) (c n r : Nat) (i : Instr) : (s.timedAt c n r i).curEng = s.curEng := rfl
@[simp] theorem timedAt_inputs (s : State) (c n r : Nat) (i : Instr) : (s.timedAt c n r i).inputs = s.inputs := rfl
@[simp] theorem timedAt_cores (s : State) (c n r : Nat) (i : Instr) : (s.timedAt c n r i).cores = s.cores := rfl
@[simp] theorem timedAt_dies (s : State) (c n r : Nat) (i : Instr) : (s.timedAt c n r i).dies = s.dies := rfl
@[simp] theorem timedAt_mem (s : State) (c n r : Nat) (i : Instr) : (s.timedAt c n r i).mem = s.mem := rfl
@[simp] theorem timedAt_bad (s : State) (c n r : Nat) (i : Instr) : (s.timedAt c n r i).bad = s.bad := rfl
@[simp] theorem timedAt_front (s : State) (c n r : Nat) (i : Instr) : (s.timedAt c n r i).front = s.front := rfl
@[simp] theorem timedAt_arrived (s : State) (c n r : Nat) (i : Instr) : (s.timedAt c n r i).arrived = s.arrived := rfl
@[simp] theorem timedAt_invs (s : State) (c n r : Nat) (i : Instr) : (s.timedAt c n r i).invs = s.invs := rfl
@[simp] theorem timedAt_pins (s : State) (c n r : Nat) (i : Instr) : (s.timedAt c n r i).pins = s.pins := rfl
@[simp] theorem timedAt_copies (s : State) (c n r : Nat) (i : Instr) : (s.timedAt c n r i).copies = s.copies := rfl
@[simp] theorem timedAt_carried (s : State) (c n r : Nat) (i : Instr) : (s.timedAt c n r i).carried = s.carried := rfl
@[simp] theorem timedAt_pcs (s : State) (c n r : Nat) (i : Instr) : (s.timedAt c n r i).pcs = s.pcs := rfl
@[simp] theorem timedAt_hostOps (s : State) (c n r : Nat) (i : Instr) : (s.timedAt c n r i).hostOps = s.hostOps := rfl
@[simp] theorem timedAt_replies (s : State) (c n r : Nat) (i : Instr) : (s.timedAt c n r i).replies = s.replies := rfl
@[simp] theorem timedAt_nodes (s : State) (c n r : Nat) (i : Instr) : (s.timedAt c n r i).nodes = s.nodes := rfl
@[simp] theorem timedAt_tail (s : State) (c n r : Nat) (i : Instr) : (s.timedAt c n r i).tail = s.tail := rfl
@[simp] theorem timedAt_submitted (s : State) (c n r : Nat) (i : Instr) : (s.timedAt c n r i).submitted = s.submitted := rfl
@[simp] theorem timedAt_saveUsed (s : State) (c n r : Nat) (i : Instr) : (s.timedAt c n r i).saveUsed = s.saveUsed := rfl
@[simp] theorem timedAt_records (s : State) (c n r : Nat) (i : Instr) : (s.timedAt c n r i).records = s.records := rfl
@[simp] theorem timedAt_wroteNow (s : State) (c n r : Nat) (i : Instr) : (s.timedAt c n r i).wroteNow = s.wroteNow := rfl
@[simp] theorem timedAt_hostPages (s : State) (c n r : Nat) (i : Instr) : (s.timedAt c n r i).hostPages = s.hostPages := rfl
@[simp] theorem timedAt_pgrant (s : State) (c n r : Nat) (i : Instr) : (s.timedAt c n r i).pgrant = s.pgrant := rfl
@[simp] theorem timedAt_plevel (s : State) (c n r : Nat) (i : Instr) : (s.timedAt c n r i).plevel = s.plevel := rfl
@[simp] theorem timedAt_host (s : State) (c n r : Nat) (i : Instr) : (s.timedAt c n r i).host = s.host := rfl
@[simp] theorem timedAt_messages (s : State) (c n r : Nat) (i : Instr) : (s.timedAt c n r i).messages = s.messages := rfl
@[simp] theorem timedAt_fabric (s : State) (c n r : Nat) (i : Instr) : (s.timedAt c n r i).fabric = s.fabric := rfl
@[simp] theorem timedAt_guardBad (s : State) (c n r : Nat) (i : Instr) : (s.timedAt c n r i).guardBad = s.guardBad := rfl
@[simp] theorem timedAt_fresh (s : State) (c n r : Nat) (i : Instr) : (s.timedAt c n r i).fresh = s.fresh := rfl
@[simp] theorem laterAt_clock (s : State) (n r w : Nat) (i : Instr) : (s.laterAt n r w i).clock = s.clock := rfl
@[simp] theorem laterAt_cur (s : State) (n r w : Nat) (i : Instr) : (s.laterAt n r w i).cur = s.cur := rfl
@[simp] theorem laterAt_curEng (s : State) (n r w : Nat) (i : Instr) : (s.laterAt n r w i).curEng = s.curEng := rfl
@[simp] theorem laterAt_inputs (s : State) (n r w : Nat) (i : Instr) : (s.laterAt n r w i).inputs = s.inputs := rfl
@[simp] theorem laterAt_cores (s : State) (n r w : Nat) (i : Instr) : (s.laterAt n r w i).cores = s.cores := rfl
@[simp] theorem laterAt_dies (s : State) (n r w : Nat) (i : Instr) : (s.laterAt n r w i).dies = s.dies := rfl
@[simp] theorem laterAt_mem (s : State) (n r w : Nat) (i : Instr) : (s.laterAt n r w i).mem = s.mem := rfl
@[simp] theorem laterAt_bad (s : State) (n r w : Nat) (i : Instr) : (s.laterAt n r w i).bad = s.bad := rfl
@[simp] theorem laterAt_front (s : State) (n r w : Nat) (i : Instr) : (s.laterAt n r w i).front = s.front := rfl
@[simp] theorem laterAt_arrived (s : State) (n r w : Nat) (i : Instr) : (s.laterAt n r w i).arrived = s.arrived := rfl
@[simp] theorem laterAt_invs (s : State) (n r w : Nat) (i : Instr) : (s.laterAt n r w i).invs = s.invs := rfl
@[simp] theorem laterAt_pins (s : State) (n r w : Nat) (i : Instr) : (s.laterAt n r w i).pins = s.pins := rfl
@[simp] theorem laterAt_copies (s : State) (n r w : Nat) (i : Instr) : (s.laterAt n r w i).copies = s.copies := rfl
@[simp] theorem laterAt_carried (s : State) (n r w : Nat) (i : Instr) : (s.laterAt n r w i).carried = s.carried := rfl
@[simp] theorem laterAt_pcs (s : State) (n r w : Nat) (i : Instr) : (s.laterAt n r w i).pcs = s.pcs := rfl
@[simp] theorem laterAt_hostOps (s : State) (n r w : Nat) (i : Instr) : (s.laterAt n r w i).hostOps = s.hostOps := rfl
@[simp] theorem laterAt_replies (s : State) (n r w : Nat) (i : Instr) : (s.laterAt n r w i).replies = s.replies := rfl
@[simp] theorem laterAt_nodes (s : State) (n r w : Nat) (i : Instr) : (s.laterAt n r w i).nodes = s.nodes := rfl
@[simp] theorem laterAt_tail (s : State) (n r w : Nat) (i : Instr) : (s.laterAt n r w i).tail = s.tail := rfl
@[simp] theorem laterAt_submitted (s : State) (n r w : Nat) (i : Instr) : (s.laterAt n r w i).submitted = s.submitted := rfl
@[simp] theorem laterAt_saveUsed (s : State) (n r w : Nat) (i : Instr) : (s.laterAt n r w i).saveUsed = s.saveUsed := rfl
@[simp] theorem laterAt_records (s : State) (n r w : Nat) (i : Instr) : (s.laterAt n r w i).records = s.records := rfl
@[simp] theorem laterAt_wroteNow (s : State) (n r w : Nat) (i : Instr) : (s.laterAt n r w i).wroteNow = s.wroteNow := rfl
@[simp] theorem laterAt_hostPages (s : State) (n r w : Nat) (i : Instr) : (s.laterAt n r w i).hostPages = s.hostPages := rfl
@[simp] theorem laterAt_pgrant (s : State) (n r w : Nat) (i : Instr) : (s.laterAt n r w i).pgrant = s.pgrant := rfl
@[simp] theorem laterAt_plevel (s : State) (n r w : Nat) (i : Instr) : (s.laterAt n r w i).plevel = s.plevel := rfl
@[simp] theorem laterAt_host (s : State) (n r w : Nat) (i : Instr) : (s.laterAt n r w i).host = s.host := rfl
@[simp] theorem laterAt_messages (s : State) (n r w : Nat) (i : Instr) : (s.laterAt n r w i).messages = s.messages := rfl
@[simp] theorem laterAt_fabric (s : State) (n r w : Nat) (i : Instr) : (s.laterAt n r w i).fabric = s.fabric := rfl
@[simp] theorem laterAt_guardBad (s : State) (n r w : Nat) (i : Instr) : (s.laterAt n r w i).guardBad = s.guardBad := rfl
@[simp] theorem laterAt_fresh (s : State) (n r w : Nat) (i : Instr) : (s.laterAt n r w i).fresh = s.fresh := rfl
@[simp] theorem soon_clock (s : State) (n r : Nat) (i : Instr) : (s.soon n r i).clock = s.clock := rfl
@[simp] theorem soon_cur (s : State) (n r : Nat) (i : Instr) : (s.soon n r i).cur = s.cur := rfl
@[simp] theorem soon_curEng (s : State) (n r : Nat) (i : Instr) : (s.soon n r i).curEng = s.curEng := rfl
@[simp] theorem soon_inputs (s : State) (n r : Nat) (i : Instr) : (s.soon n r i).inputs = s.inputs := rfl
@[simp] theorem soon_cores (s : State) (n r : Nat) (i : Instr) : (s.soon n r i).cores = s.cores := rfl
@[simp] theorem soon_dies (s : State) (n r : Nat) (i : Instr) : (s.soon n r i).dies = s.dies := rfl
@[simp] theorem soon_mem (s : State) (n r : Nat) (i : Instr) : (s.soon n r i).mem = s.mem := rfl
@[simp] theorem soon_bad (s : State) (n r : Nat) (i : Instr) : (s.soon n r i).bad = s.bad := rfl
@[simp] theorem soon_front (s : State) (n r : Nat) (i : Instr) : (s.soon n r i).front = s.front := rfl
@[simp] theorem soon_arrived (s : State) (n r : Nat) (i : Instr) : (s.soon n r i).arrived = s.arrived := rfl
@[simp] theorem soon_invs (s : State) (n r : Nat) (i : Instr) : (s.soon n r i).invs = s.invs := rfl
@[simp] theorem soon_pins (s : State) (n r : Nat) (i : Instr) : (s.soon n r i).pins = s.pins := rfl
@[simp] theorem soon_copies (s : State) (n r : Nat) (i : Instr) : (s.soon n r i).copies = s.copies := rfl
@[simp] theorem soon_carried (s : State) (n r : Nat) (i : Instr) : (s.soon n r i).carried = s.carried := rfl
@[simp] theorem soon_pcs (s : State) (n r : Nat) (i : Instr) : (s.soon n r i).pcs = s.pcs := rfl
@[simp] theorem soon_hostOps (s : State) (n r : Nat) (i : Instr) : (s.soon n r i).hostOps = s.hostOps := rfl
@[simp] theorem soon_replies (s : State) (n r : Nat) (i : Instr) : (s.soon n r i).replies = s.replies := rfl
@[simp] theorem soon_nodes (s : State) (n r : Nat) (i : Instr) : (s.soon n r i).nodes = s.nodes := rfl
@[simp] theorem soon_tail (s : State) (n r : Nat) (i : Instr) : (s.soon n r i).tail = s.tail := rfl
@[simp] theorem soon_submitted (s : State) (n r : Nat) (i : Instr) : (s.soon n r i).submitted = s.submitted := rfl
@[simp] theorem soon_saveUsed (s : State) (n r : Nat) (i : Instr) : (s.soon n r i).saveUsed = s.saveUsed := rfl
@[simp] theorem soon_records (s : State) (n r : Nat) (i : Instr) : (s.soon n r i).records = s.records := rfl
@[simp] theorem soon_wroteNow (s : State) (n r : Nat) (i : Instr) : (s.soon n r i).wroteNow = s.wroteNow := rfl
@[simp] theorem soon_hostPages (s : State) (n r : Nat) (i : Instr) : (s.soon n r i).hostPages = s.hostPages := rfl
@[simp] theorem soon_pgrant (s : State) (n r : Nat) (i : Instr) : (s.soon n r i).pgrant = s.pgrant := rfl
@[simp] theorem soon_plevel (s : State) (n r : Nat) (i : Instr) : (s.soon n r i).plevel = s.plevel := rfl
@[simp] theorem soon_host (s : State) (n r : Nat) (i : Instr) : (s.soon n r i).host = s.host := rfl
@[simp] theorem soon_messages (s : State) (n r : Nat) (i : Instr) : (s.soon n r i).messages = s.messages := rfl
@[simp] theorem soon_fabric (s : State) (n r : Nat) (i : Instr) : (s.soon n r i).fabric = s.fabric := rfl
@[simp] theorem soon_guardBad (s : State) (n r : Nat) (i : Instr) : (s.soon n r i).guardBad = s.guardBad := rfl
@[simp] theorem soon_fresh (s : State) (n r : Nat) (i : Instr) : (s.soon n r i).fresh = s.fresh := rfl

/-! ### Reading a core after an update -/

@[simp] theorem core_modCore_same (s : State) (c : Nat) (f : Core → Core) : (s.modCore c f).core c = f (s.core c) := by
  simp [State.core, State.modCore]

theorem core_modCore_other (s : State) (c d : Nat) (f : Core → Core) (h : d ≠ c) :
    (s.modCore c f).core d = s.core d := by
  simp [State.core, State.modCore, find_put_other _ _ _ _ h]

@[simp] theorem me_modMe (s : State) (f : Core → Core) : (s.modMe f).me = f s.me := by
  simp [State.me, State.modMe]

@[simp] theorem core_due (s : State) (c r : Nat) (n : Option Nat) (w : Nat) (i : Instr) (d : Nat) :
    (s.due c r n w i).core d = s.core d := rfl
@[simp] theorem core_timedAt (s : State) (c n r : Nat) (i : Instr) (d : Nat) : (s.timedAt c n r i).core d = s.core d := rfl
@[simp] theorem core_laterAt (s : State) (n r w : Nat) (i : Instr) (d : Nat) : (s.laterAt n r w i).core d = s.core d := rfl
@[simp] theorem core_soon (s : State) (n r : Nat) (i : Instr) (d : Nat) : (s.soon n r i).core d = s.core d := rfl
@[simp] theorem me_due (s : State) (c r : Nat) (n : Option Nat) (w : Nat) (i : Instr) : (s.due c r n w i).me = s.me := rfl
@[simp] theorem me_timedAt (s : State) (c n r : Nat) (i : Instr) : (s.timedAt c n r i).me = s.me := rfl
@[simp] theorem me_laterAt (s : State) (n r w : Nat) (i : Instr) : (s.laterAt n r w i).me = s.me := rfl
@[simp] theorem me_soon (s : State) (n r : Nat) (i : Instr) : (s.soon n r i).me = s.me := rfl

/-! ### A core: one part changed -/

@[simp] theorem modDrv_drv (k : Core) (f : Driver → Driver) : (k.modDrv f).drv = f k.drv := rfl
@[simp] theorem modDrv_csr (k : Core) (f : Driver → Driver) : (k.modDrv f).csr = k.csr := rfl
@[simp] theorem modDrv_view (k : Core) (f : Driver → Driver) : (k.modDrv f).view = k.view := rfl
@[simp] theorem modDrv_eng (k : Core) (f : Driver → Driver) : (k.modDrv f).eng = k.eng := rfl
@[simp] theorem modDrv_q (k : Core) (f : Driver → Driver) : (k.modDrv f).q = k.q := rfl
@[simp] theorem modDrv_ring (k : Core) (f : Driver → Driver) : (k.modDrv f).ring = k.ring := rfl
@[simp] theorem modDrv_mx (k : Core) (f : Driver → Driver) : (k.modDrv f).mx = k.mx := rfl
@[simp] theorem modDrv_vec (k : Core) (f : Driver → Driver) : (k.modDrv f).vec = k.vec := rfl
@[simp] theorem modDrv_ss (k : Core) (f : Driver → Driver) : (k.modDrv f).ss = k.ss := rfl
@[simp] theorem modDrv_pad (k : Core) (f : Driver → Driver) : (k.modDrv f).pad = k.pad := rfl
@[simp] theorem modDrv_moves (k : Core) (f : Driver → Driver) : (k.modDrv f).moves = k.moves := rfl
@[simp] theorem modDrv_ops (k : Core) (f : Driver → Driver) : (k.modDrv f).ops = k.ops := rfl
@[simp] theorem modDrv_acc (k : Core) (f : Driver → Driver) : (k.modDrv f).acc = k.acc := rfl
@[simp] theorem modDrv_lease (k : Core) (f : Driver → Driver) : (k.modDrv f).lease = k.lease := rfl
@[simp] theorem modDrv_span (k : Core) (f : Driver → Driver) : (k.modDrv f).span = k.span := rfl
@[simp] theorem modDrv_unpinned (k : Core) (f : Driver → Driver) : (k.modDrv f).unpinned = k.unpinned := rfl
@[simp] theorem modDrv_rows (k : Core) (f : Driver → Driver) : (k.modDrv f).rows = k.rows := rfl
@[simp] theorem modDrv_rowBusy (k : Core) (f : Driver → Driver) : (k.modDrv f).rowBusy = k.rowBusy := rfl
@[simp] theorem modDrv_leased (k : Core) (f : Driver → Driver) : (k.modDrv f).leased = k.leased := rfl
@[simp] theorem modDrv_seqs (k : Core) (f : Driver → Driver) : (k.modDrv f).seqs = k.seqs := rfl
@[simp] theorem modDrv_colls (k : Core) (f : Driver → Driver) : (k.modDrv f).colls = k.colls := rfl
@[simp] theorem modDrv_place (k : Core) (f : Driver → Driver) : (k.modDrv f).place = k.place := rfl
@[simp] theorem modDrv_charge (k : Core) (f : Driver → Driver) : (k.modDrv f).charge = k.charge := rfl
@[simp] theorem modCsr_drv (k : Core) (f : Csrs → Csrs) : (k.modCsr f).drv = k.drv := rfl
@[simp] theorem modCsr_csr (k : Core) (f : Csrs → Csrs) : (k.modCsr f).csr = f k.csr := rfl
@[simp] theorem modCsr_view (k : Core) (f : Csrs → Csrs) : (k.modCsr f).view = k.view := rfl
@[simp] theorem modCsr_eng (k : Core) (f : Csrs → Csrs) : (k.modCsr f).eng = k.eng := rfl
@[simp] theorem modCsr_q (k : Core) (f : Csrs → Csrs) : (k.modCsr f).q = k.q := rfl
@[simp] theorem modCsr_ring (k : Core) (f : Csrs → Csrs) : (k.modCsr f).ring = k.ring := rfl
@[simp] theorem modCsr_mx (k : Core) (f : Csrs → Csrs) : (k.modCsr f).mx = k.mx := rfl
@[simp] theorem modCsr_vec (k : Core) (f : Csrs → Csrs) : (k.modCsr f).vec = k.vec := rfl
@[simp] theorem modCsr_ss (k : Core) (f : Csrs → Csrs) : (k.modCsr f).ss = k.ss := rfl
@[simp] theorem modCsr_pad (k : Core) (f : Csrs → Csrs) : (k.modCsr f).pad = k.pad := rfl
@[simp] theorem modCsr_moves (k : Core) (f : Csrs → Csrs) : (k.modCsr f).moves = k.moves := rfl
@[simp] theorem modCsr_ops (k : Core) (f : Csrs → Csrs) : (k.modCsr f).ops = k.ops := rfl
@[simp] theorem modCsr_acc (k : Core) (f : Csrs → Csrs) : (k.modCsr f).acc = k.acc := rfl
@[simp] theorem modCsr_lease (k : Core) (f : Csrs → Csrs) : (k.modCsr f).lease = k.lease := rfl
@[simp] theorem modCsr_span (k : Core) (f : Csrs → Csrs) : (k.modCsr f).span = k.span := rfl
@[simp] theorem modCsr_unpinned (k : Core) (f : Csrs → Csrs) : (k.modCsr f).unpinned = k.unpinned := rfl
@[simp] theorem modCsr_rows (k : Core) (f : Csrs → Csrs) : (k.modCsr f).rows = k.rows := rfl
@[simp] theorem modCsr_rowBusy (k : Core) (f : Csrs → Csrs) : (k.modCsr f).rowBusy = k.rowBusy := rfl
@[simp] theorem modCsr_leased (k : Core) (f : Csrs → Csrs) : (k.modCsr f).leased = k.leased := rfl
@[simp] theorem modCsr_seqs (k : Core) (f : Csrs → Csrs) : (k.modCsr f).seqs = k.seqs := rfl
@[simp] theorem modCsr_colls (k : Core) (f : Csrs → Csrs) : (k.modCsr f).colls = k.colls := rfl
@[simp] theorem modCsr_place (k : Core) (f : Csrs → Csrs) : (k.modCsr f).place = k.place := rfl
@[simp] theorem modCsr_charge (k : Core) (f : Csrs → Csrs) : (k.modCsr f).charge = k.charge := rfl
@[simp] theorem modMx_drv (k : Core) (f : MatrixStore → MatrixStore) : (k.modMx f).drv = k.drv := rfl
@[simp] theorem modMx_csr (k : Core) (f : MatrixStore → MatrixStore) : (k.modMx f).csr = k.csr := rfl
@[simp] theorem modMx_view (k : Core) (f : MatrixStore → MatrixStore) : (k.modMx f).view = k.view := rfl
@[simp] theorem modMx_eng (k : Core) (f : MatrixStore → MatrixStore) : (k.modMx f).eng = k.eng := rfl
@[simp] theorem modMx_q (k : Core) (f : MatrixStore → MatrixStore) : (k.modMx f).q = k.q := rfl
@[simp] theorem modMx_ring (k : Core) (f : MatrixStore → MatrixStore) : (k.modMx f).ring = k.ring := rfl
@[simp] theorem modMx_mx (k : Core) (f : MatrixStore → MatrixStore) : (k.modMx f).mx = f k.mx := rfl
@[simp] theorem modMx_vec (k : Core) (f : MatrixStore → MatrixStore) : (k.modMx f).vec = k.vec := rfl
@[simp] theorem modMx_ss (k : Core) (f : MatrixStore → MatrixStore) : (k.modMx f).ss = k.ss := rfl
@[simp] theorem modMx_pad (k : Core) (f : MatrixStore → MatrixStore) : (k.modMx f).pad = k.pad := rfl
@[simp] theorem modMx_moves (k : Core) (f : MatrixStore → MatrixStore) : (k.modMx f).moves = k.moves := rfl
@[simp] theorem modMx_ops (k : Core) (f : MatrixStore → MatrixStore) : (k.modMx f).ops = k.ops := rfl
@[simp] theorem modMx_acc (k : Core) (f : MatrixStore → MatrixStore) : (k.modMx f).acc = k.acc := rfl
@[simp] theorem modMx_lease (k : Core) (f : MatrixStore → MatrixStore) : (k.modMx f).lease = k.lease := rfl
@[simp] theorem modMx_span (k : Core) (f : MatrixStore → MatrixStore) : (k.modMx f).span = k.span := rfl
@[simp] theorem modMx_unpinned (k : Core) (f : MatrixStore → MatrixStore) : (k.modMx f).unpinned = k.unpinned := rfl
@[simp] theorem modMx_rows (k : Core) (f : MatrixStore → MatrixStore) : (k.modMx f).rows = k.rows := rfl
@[simp] theorem modMx_rowBusy (k : Core) (f : MatrixStore → MatrixStore) : (k.modMx f).rowBusy = k.rowBusy := rfl
@[simp] theorem modMx_leased (k : Core) (f : MatrixStore → MatrixStore) : (k.modMx f).leased = k.leased := rfl
@[simp] theorem modMx_seqs (k : Core) (f : MatrixStore → MatrixStore) : (k.modMx f).seqs = k.seqs := rfl
@[simp] theorem modMx_colls (k : Core) (f : MatrixStore → MatrixStore) : (k.modMx f).colls = k.colls := rfl
@[simp] theorem modMx_place (k : Core) (f : MatrixStore → MatrixStore) : (k.modMx f).place = k.place := rfl
@[simp] theorem modMx_charge (k : Core) (f : MatrixStore → MatrixStore) : (k.modMx f).charge = k.charge := rfl
@[simp] theorem modVec_drv (k : Core) (f : VectorStore → VectorStore) : (k.modVec f).drv = k.drv := rfl
@[simp] theorem modVec_csr (k : Core) (f : VectorStore → VectorStore) : (k.modVec f).csr = k.csr := rfl
@[simp] theorem modVec_view (k : Core) (f : VectorStore → VectorStore) : (k.modVec f).view = k.view := rfl
@[simp] theorem modVec_eng (k : Core) (f : VectorStore → VectorStore) : (k.modVec f).eng = k.eng := rfl
@[simp] theorem modVec_q (k : Core) (f : VectorStore → VectorStore) : (k.modVec f).q = k.q := rfl
@[simp] theorem modVec_ring (k : Core) (f : VectorStore → VectorStore) : (k.modVec f).ring = k.ring := rfl
@[simp] theorem modVec_mx (k : Core) (f : VectorStore → VectorStore) : (k.modVec f).mx = k.mx := rfl
@[simp] theorem modVec_vec (k : Core) (f : VectorStore → VectorStore) : (k.modVec f).vec = f k.vec := rfl
@[simp] theorem modVec_ss (k : Core) (f : VectorStore → VectorStore) : (k.modVec f).ss = k.ss := rfl
@[simp] theorem modVec_pad (k : Core) (f : VectorStore → VectorStore) : (k.modVec f).pad = k.pad := rfl
@[simp] theorem modVec_moves (k : Core) (f : VectorStore → VectorStore) : (k.modVec f).moves = k.moves := rfl
@[simp] theorem modVec_ops (k : Core) (f : VectorStore → VectorStore) : (k.modVec f).ops = k.ops := rfl
@[simp] theorem modVec_acc (k : Core) (f : VectorStore → VectorStore) : (k.modVec f).acc = k.acc := rfl
@[simp] theorem modVec_lease (k : Core) (f : VectorStore → VectorStore) : (k.modVec f).lease = k.lease := rfl
@[simp] theorem modVec_span (k : Core) (f : VectorStore → VectorStore) : (k.modVec f).span = k.span := rfl
@[simp] theorem modVec_unpinned (k : Core) (f : VectorStore → VectorStore) : (k.modVec f).unpinned = k.unpinned := rfl
@[simp] theorem modVec_rows (k : Core) (f : VectorStore → VectorStore) : (k.modVec f).rows = k.rows := rfl
@[simp] theorem modVec_rowBusy (k : Core) (f : VectorStore → VectorStore) : (k.modVec f).rowBusy = k.rowBusy := rfl
@[simp] theorem modVec_leased (k : Core) (f : VectorStore → VectorStore) : (k.modVec f).leased = k.leased := rfl
@[simp] theorem modVec_seqs (k : Core) (f : VectorStore → VectorStore) : (k.modVec f).seqs = k.seqs := rfl
@[simp] theorem modVec_colls (k : Core) (f : VectorStore → VectorStore) : (k.modVec f).colls = k.colls := rfl
@[simp] theorem modVec_place (k : Core) (f : VectorStore → VectorStore) : (k.modVec f).place = k.place := rfl
@[simp] theorem modVec_charge (k : Core) (f : VectorStore → VectorStore) : (k.modVec f).charge = k.charge := rfl
@[simp] theorem modQ_drv (k : Core) (f : Queues → Queues) : (k.modQ f).drv = k.drv := rfl
@[simp] theorem modQ_csr (k : Core) (f : Queues → Queues) : (k.modQ f).csr = k.csr := rfl
@[simp] theorem modQ_view (k : Core) (f : Queues → Queues) : (k.modQ f).view = k.view := rfl
@[simp] theorem modQ_eng (k : Core) (f : Queues → Queues) : (k.modQ f).eng = k.eng := rfl
@[simp] theorem modQ_q (k : Core) (f : Queues → Queues) : (k.modQ f).q = f k.q := rfl
@[simp] theorem modQ_ring (k : Core) (f : Queues → Queues) : (k.modQ f).ring = k.ring := rfl
@[simp] theorem modQ_mx (k : Core) (f : Queues → Queues) : (k.modQ f).mx = k.mx := rfl
@[simp] theorem modQ_vec (k : Core) (f : Queues → Queues) : (k.modQ f).vec = k.vec := rfl
@[simp] theorem modQ_ss (k : Core) (f : Queues → Queues) : (k.modQ f).ss = k.ss := rfl
@[simp] theorem modQ_pad (k : Core) (f : Queues → Queues) : (k.modQ f).pad = k.pad := rfl
@[simp] theorem modQ_moves (k : Core) (f : Queues → Queues) : (k.modQ f).moves = k.moves := rfl
@[simp] theorem modQ_ops (k : Core) (f : Queues → Queues) : (k.modQ f).ops = k.ops := rfl
@[simp] theorem modQ_acc (k : Core) (f : Queues → Queues) : (k.modQ f).acc = k.acc := rfl
@[simp] theorem modQ_lease (k : Core) (f : Queues → Queues) : (k.modQ f).lease = k.lease := rfl
@[simp] theorem modQ_span (k : Core) (f : Queues → Queues) : (k.modQ f).span = k.span := rfl
@[simp] theorem modQ_unpinned (k : Core) (f : Queues → Queues) : (k.modQ f).unpinned = k.unpinned := rfl
@[simp] theorem modQ_rows (k : Core) (f : Queues → Queues) : (k.modQ f).rows = k.rows := rfl
@[simp] theorem modQ_rowBusy (k : Core) (f : Queues → Queues) : (k.modQ f).rowBusy = k.rowBusy := rfl
@[simp] theorem modQ_leased (k : Core) (f : Queues → Queues) : (k.modQ f).leased = k.leased := rfl
@[simp] theorem modQ_seqs (k : Core) (f : Queues → Queues) : (k.modQ f).seqs = k.seqs := rfl
@[simp] theorem modQ_colls (k : Core) (f : Queues → Queues) : (k.modQ f).colls = k.colls := rfl
@[simp] theorem modQ_place (k : Core) (f : Queues → Queues) : (k.modQ f).place = k.place := rfl
@[simp] theorem modQ_charge (k : Core) (f : Queues → Queues) : (k.modQ f).charge = k.charge := rfl
@[simp] theorem modPad_drv (k : Core) (f : Scratch → Scratch) : (k.modPad f).drv = k.drv := rfl
@[simp] theorem modPad_csr (k : Core) (f : Scratch → Scratch) : (k.modPad f).csr = k.csr := rfl
@[simp] theorem modPad_view (k : Core) (f : Scratch → Scratch) : (k.modPad f).view = k.view := rfl
@[simp] theorem modPad_eng (k : Core) (f : Scratch → Scratch) : (k.modPad f).eng = k.eng := rfl
@[simp] theorem modPad_q (k : Core) (f : Scratch → Scratch) : (k.modPad f).q = k.q := rfl
@[simp] theorem modPad_ring (k : Core) (f : Scratch → Scratch) : (k.modPad f).ring = k.ring := rfl
@[simp] theorem modPad_mx (k : Core) (f : Scratch → Scratch) : (k.modPad f).mx = k.mx := rfl
@[simp] theorem modPad_vec (k : Core) (f : Scratch → Scratch) : (k.modPad f).vec = k.vec := rfl
@[simp] theorem modPad_ss (k : Core) (f : Scratch → Scratch) : (k.modPad f).ss = k.ss := rfl
@[simp] theorem modPad_pad (k : Core) (f : Scratch → Scratch) : (k.modPad f).pad = f k.pad := rfl
@[simp] theorem modPad_moves (k : Core) (f : Scratch → Scratch) : (k.modPad f).moves = k.moves := rfl
@[simp] theorem modPad_ops (k : Core) (f : Scratch → Scratch) : (k.modPad f).ops = k.ops := rfl
@[simp] theorem modPad_acc (k : Core) (f : Scratch → Scratch) : (k.modPad f).acc = k.acc := rfl
@[simp] theorem modPad_lease (k : Core) (f : Scratch → Scratch) : (k.modPad f).lease = k.lease := rfl
@[simp] theorem modPad_span (k : Core) (f : Scratch → Scratch) : (k.modPad f).span = k.span := rfl
@[simp] theorem modPad_unpinned (k : Core) (f : Scratch → Scratch) : (k.modPad f).unpinned = k.unpinned := rfl
@[simp] theorem modPad_rows (k : Core) (f : Scratch → Scratch) : (k.modPad f).rows = k.rows := rfl
@[simp] theorem modPad_rowBusy (k : Core) (f : Scratch → Scratch) : (k.modPad f).rowBusy = k.rowBusy := rfl
@[simp] theorem modPad_leased (k : Core) (f : Scratch → Scratch) : (k.modPad f).leased = k.leased := rfl
@[simp] theorem modPad_seqs (k : Core) (f : Scratch → Scratch) : (k.modPad f).seqs = k.seqs := rfl
@[simp] theorem modPad_colls (k : Core) (f : Scratch → Scratch) : (k.modPad f).colls = k.colls := rfl
@[simp] theorem modPad_place (k : Core) (f : Scratch → Scratch) : (k.modPad f).place = k.place := rfl
@[simp] theorem modPad_charge (k : Core) (f : Scratch → Scratch) : (k.modPad f).charge = k.charge := rfl
@[simp] theorem modPlace_drv (k : Core) (f : Place → Place) : (k.modPlace f).drv = k.drv := rfl
@[simp] theorem modPlace_csr (k : Core) (f : Place → Place) : (k.modPlace f).csr = k.csr := rfl
@[simp] theorem modPlace_view (k : Core) (f : Place → Place) : (k.modPlace f).view = k.view := rfl
@[simp] theorem modPlace_eng (k : Core) (f : Place → Place) : (k.modPlace f).eng = k.eng := rfl
@[simp] theorem modPlace_q (k : Core) (f : Place → Place) : (k.modPlace f).q = k.q := rfl
@[simp] theorem modPlace_ring (k : Core) (f : Place → Place) : (k.modPlace f).ring = k.ring := rfl
@[simp] theorem modPlace_mx (k : Core) (f : Place → Place) : (k.modPlace f).mx = k.mx := rfl
@[simp] theorem modPlace_vec (k : Core) (f : Place → Place) : (k.modPlace f).vec = k.vec := rfl
@[simp] theorem modPlace_ss (k : Core) (f : Place → Place) : (k.modPlace f).ss = k.ss := rfl
@[simp] theorem modPlace_pad (k : Core) (f : Place → Place) : (k.modPlace f).pad = k.pad := rfl
@[simp] theorem modPlace_moves (k : Core) (f : Place → Place) : (k.modPlace f).moves = k.moves := rfl
@[simp] theorem modPlace_ops (k : Core) (f : Place → Place) : (k.modPlace f).ops = k.ops := rfl
@[simp] theorem modPlace_acc (k : Core) (f : Place → Place) : (k.modPlace f).acc = k.acc := rfl
@[simp] theorem modPlace_lease (k : Core) (f : Place → Place) : (k.modPlace f).lease = k.lease := rfl
@[simp] theorem modPlace_span (k : Core) (f : Place → Place) : (k.modPlace f).span = k.span := rfl
@[simp] theorem modPlace_unpinned (k : Core) (f : Place → Place) : (k.modPlace f).unpinned = k.unpinned := rfl
@[simp] theorem modPlace_rows (k : Core) (f : Place → Place) : (k.modPlace f).rows = k.rows := rfl
@[simp] theorem modPlace_rowBusy (k : Core) (f : Place → Place) : (k.modPlace f).rowBusy = k.rowBusy := rfl
@[simp] theorem modPlace_leased (k : Core) (f : Place → Place) : (k.modPlace f).leased = k.leased := rfl
@[simp] theorem modPlace_seqs (k : Core) (f : Place → Place) : (k.modPlace f).seqs = k.seqs := rfl
@[simp] theorem modPlace_colls (k : Core) (f : Place → Place) : (k.modPlace f).colls = k.colls := rfl
@[simp] theorem modPlace_place (k : Core) (f : Place → Place) : (k.modPlace f).place = f k.place := rfl
@[simp] theorem modPlace_charge (k : Core) (f : Place → Place) : (k.modPlace f).charge = k.charge := rfl
@[simp] theorem modEng_drv (k : Core) (e : Eng) (f : Engine → Engine) : (k.modEng e f).drv = k.drv := rfl
@[simp] theorem modEng_csr (k : Core) (e : Eng) (f : Engine → Engine) : (k.modEng e f).csr = k.csr := rfl
@[simp] theorem modEng_view (k : Core) (e : Eng) (f : Engine → Engine) : (k.modEng e f).view = k.view := rfl
@[simp] theorem modEng_q (k : Core) (e : Eng) (f : Engine → Engine) : (k.modEng e f).q = k.q := rfl
@[simp] theorem modEng_ring (k : Core) (e : Eng) (f : Engine → Engine) : (k.modEng e f).ring = k.ring := rfl
@[simp] theorem modEng_mx (k : Core) (e : Eng) (f : Engine → Engine) : (k.modEng e f).mx = k.mx := rfl
@[simp] theorem modEng_vec (k : Core) (e : Eng) (f : Engine → Engine) : (k.modEng e f).vec = k.vec := rfl
@[simp] theorem modEng_ss (k : Core) (e : Eng) (f : Engine → Engine) : (k.modEng e f).ss = k.ss := rfl
@[simp] theorem modEng_pad (k : Core) (e : Eng) (f : Engine → Engine) : (k.modEng e f).pad = k.pad := rfl
@[simp] theorem modEng_moves (k : Core) (e : Eng) (f : Engine → Engine) : (k.modEng e f).moves = k.moves := rfl
@[simp] theorem modEng_ops (k : Core) (e : Eng) (f : Engine → Engine) : (k.modEng e f).ops = k.ops := rfl
@[simp] theorem modEng_acc (k : Core) (e : Eng) (f : Engine → Engine) : (k.modEng e f).acc = k.acc := rfl
@[simp] theorem modEng_lease (k : Core) (e : Eng) (f : Engine → Engine) : (k.modEng e f).lease = k.lease := rfl
@[simp] theorem modEng_span (k : Core) (e : Eng) (f : Engine → Engine) : (k.modEng e f).span = k.span := rfl
@[simp] theorem modEng_unpinned (k : Core) (e : Eng) (f : Engine → Engine) : (k.modEng e f).unpinned = k.unpinned := rfl
@[simp] theorem modEng_rows (k : Core) (e : Eng) (f : Engine → Engine) : (k.modEng e f).rows = k.rows := rfl
@[simp] theorem modEng_rowBusy (k : Core) (e : Eng) (f : Engine → Engine) : (k.modEng e f).rowBusy = k.rowBusy := rfl
@[simp] theorem modEng_leased (k : Core) (e : Eng) (f : Engine → Engine) : (k.modEng e f).leased = k.leased := rfl
@[simp] theorem modEng_seqs (k : Core) (e : Eng) (f : Engine → Engine) : (k.modEng e f).seqs = k.seqs := rfl
@[simp] theorem modEng_colls (k : Core) (e : Eng) (f : Engine → Engine) : (k.modEng e f).colls = k.colls := rfl
@[simp] theorem modEng_place (k : Core) (e : Eng) (f : Engine → Engine) : (k.modEng e f).place = k.place := rfl
@[simp] theorem modEng_charge (k : Core) (e : Eng) (f : Engine → Engine) : (k.modEng e f).charge = k.charge := rfl
@[simp] theorem modRing_drv (k : Core) (r : Nat) (f : Ring → Ring) : (k.modRing r f).drv = k.drv := rfl
@[simp] theorem modRing_csr (k : Core) (r : Nat) (f : Ring → Ring) : (k.modRing r f).csr = k.csr := rfl
@[simp] theorem modRing_view (k : Core) (r : Nat) (f : Ring → Ring) : (k.modRing r f).view = k.view := rfl
@[simp] theorem modRing_eng (k : Core) (r : Nat) (f : Ring → Ring) : (k.modRing r f).eng = k.eng := rfl
@[simp] theorem modRing_q (k : Core) (r : Nat) (f : Ring → Ring) : (k.modRing r f).q = k.q := rfl
@[simp] theorem modRing_mx (k : Core) (r : Nat) (f : Ring → Ring) : (k.modRing r f).mx = k.mx := rfl
@[simp] theorem modRing_vec (k : Core) (r : Nat) (f : Ring → Ring) : (k.modRing r f).vec = k.vec := rfl
@[simp] theorem modRing_ss (k : Core) (r : Nat) (f : Ring → Ring) : (k.modRing r f).ss = k.ss := rfl
@[simp] theorem modRing_pad (k : Core) (r : Nat) (f : Ring → Ring) : (k.modRing r f).pad = k.pad := rfl
@[simp] theorem modRing_moves (k : Core) (r : Nat) (f : Ring → Ring) : (k.modRing r f).moves = k.moves := rfl
@[simp] theorem modRing_ops (k : Core) (r : Nat) (f : Ring → Ring) : (k.modRing r f).ops = k.ops := rfl
@[simp] theorem modRing_acc (k : Core) (r : Nat) (f : Ring → Ring) : (k.modRing r f).acc = k.acc := rfl
@[simp] theorem modRing_lease (k : Core) (r : Nat) (f : Ring → Ring) : (k.modRing r f).lease = k.lease := rfl
@[simp] theorem modRing_span (k : Core) (r : Nat) (f : Ring → Ring) : (k.modRing r f).span = k.span := rfl
@[simp] theorem modRing_unpinned (k : Core) (r : Nat) (f : Ring → Ring) : (k.modRing r f).unpinned = k.unpinned := rfl
@[simp] theorem modRing_rows (k : Core) (r : Nat) (f : Ring → Ring) : (k.modRing r f).rows = k.rows := rfl
@[simp] theorem modRing_rowBusy (k : Core) (r : Nat) (f : Ring → Ring) : (k.modRing r f).rowBusy = k.rowBusy := rfl
@[simp] theorem modRing_leased (k : Core) (r : Nat) (f : Ring → Ring) : (k.modRing r f).leased = k.leased := rfl
@[simp] theorem modRing_seqs (k : Core) (r : Nat) (f : Ring → Ring) : (k.modRing r f).seqs = k.seqs := rfl
@[simp] theorem modRing_colls (k : Core) (r : Nat) (f : Ring → Ring) : (k.modRing r f).colls = k.colls := rfl
@[simp] theorem modRing_place (k : Core) (r : Nat) (f : Ring → Ring) : (k.modRing r f).place = k.place := rfl
@[simp] theorem modRing_charge (k : Core) (r : Nat) (f : Ring → Ring) : (k.modRing r f).charge = k.charge := rfl
@[simp] theorem charged_drv (k : Core) (n c : Nat) : (k.charged n c).drv = k.drv := rfl
@[simp] theorem charged_csr (k : Core) (n c : Nat) : (k.charged n c).csr = k.csr := rfl
@[simp] theorem charged_view (k : Core) (n c : Nat) : (k.charged n c).view = k.view := rfl
@[simp] theorem charged_eng (k : Core) (n c : Nat) : (k.charged n c).eng = k.eng := rfl
@[simp] theorem charged_q (k : Core) (n c : Nat) : (k.charged n c).q = k.q := rfl
@[simp] theorem charged_ring (k : Core) (n c : Nat) : (k.charged n c).ring = k.ring := rfl
@[simp] theorem charged_mx (k : Core) (n c : Nat) : (k.charged n c).mx = k.mx := rfl
@[simp] theorem charged_vec (k : Core) (n c : Nat) : (k.charged n c).vec = k.vec := rfl
@[simp] theorem charged_ss (k : Core) (n c : Nat) : (k.charged n c).ss = k.ss := rfl
@[simp] theorem charged_pad (k : Core) (n c : Nat) : (k.charged n c).pad = k.pad := rfl
@[simp] theorem charged_moves (k : Core) (n c : Nat) : (k.charged n c).moves = k.moves := rfl
@[simp] theorem charged_ops (k : Core) (n c : Nat) : (k.charged n c).ops = k.ops := rfl
@[simp] theorem charged_acc (k : Core) (n c : Nat) : (k.charged n c).acc = k.acc := rfl
@[simp] theorem charged_lease (k : Core) (n c : Nat) : (k.charged n c).lease = k.lease := rfl
@[simp] theorem charged_span (k : Core) (n c : Nat) : (k.charged n c).span = k.span := rfl
@[simp] theorem charged_unpinned (k : Core) (n c : Nat) : (k.charged n c).unpinned = k.unpinned := rfl
@[simp] theorem charged_rows (k : Core) (n c : Nat) : (k.charged n c).rows = k.rows := rfl
@[simp] theorem charged_rowBusy (k : Core) (n c : Nat) : (k.charged n c).rowBusy = k.rowBusy := rfl
@[simp] theorem charged_leased (k : Core) (n c : Nat) : (k.charged n c).leased = k.leased := rfl
@[simp] theorem charged_seqs (k : Core) (n c : Nat) : (k.charged n c).seqs = k.seqs := rfl
@[simp] theorem charged_colls (k : Core) (n c : Nat) : (k.charged n c).colls = k.colls := rfl
@[simp] theorem charged_place (k : Core) (n c : Nat) : (k.charged n c).place = k.place := rfl
@[simp] theorem halt_drv (k : Core) (t : Nat) : (k.halt t).drv = k.drv := rfl
@[simp] theorem halt_csr (k : Core) (t : Nat) : (k.halt t).csr = k.csr := rfl
@[simp] theorem halt_view (k : Core) (t : Nat) : (k.halt t).view = k.view := rfl
@[simp] theorem halt_eng (k : Core) (t : Nat) : (k.halt t).eng = k.eng := rfl
@[simp] theorem halt_q (k : Core) (t : Nat) : (k.halt t).q = k.q := rfl
@[simp] theorem halt_ring (k : Core) (t : Nat) : (k.halt t).ring = k.ring := rfl
@[simp] theorem halt_mx (k : Core) (t : Nat) : (k.halt t).mx = k.mx := rfl
@[simp] theorem halt_vec (k : Core) (t : Nat) : (k.halt t).vec = k.vec := rfl
@[simp] theorem halt_ss (k : Core) (t : Nat) : (k.halt t).ss = k.ss := rfl
@[simp] theorem halt_pad (k : Core) (t : Nat) : (k.halt t).pad = k.pad := rfl
@[simp] theorem halt_moves (k : Core) (t : Nat) : (k.halt t).moves = k.moves := rfl
@[simp] theorem halt_ops (k : Core) (t : Nat) : (k.halt t).ops = k.ops := rfl
@[simp] theorem halt_acc (k : Core) (t : Nat) : (k.halt t).acc = k.acc := rfl
@[simp] theorem halt_lease (k : Core) (t : Nat) : (k.halt t).lease = k.lease := rfl
@[simp] theorem halt_span (k : Core) (t : Nat) : (k.halt t).span = k.span := rfl
@[simp] theorem halt_unpinned (k : Core) (t : Nat) : (k.halt t).unpinned = k.unpinned := rfl
@[simp] theorem halt_rows (k : Core) (t : Nat) : (k.halt t).rows = k.rows := rfl
@[simp] theorem halt_rowBusy (k : Core) (t : Nat) : (k.halt t).rowBusy = k.rowBusy := rfl
@[simp] theorem halt_leased (k : Core) (t : Nat) : (k.halt t).leased = k.leased := rfl
@[simp] theorem halt_seqs (k : Core) (t : Nat) : (k.halt t).seqs = k.seqs := rfl
@[simp] theorem halt_colls (k : Core) (t : Nat) : (k.halt t).colls = k.colls := rfl
@[simp] theorem halt_charge (k : Core) (t : Nat) : (k.halt t).charge = k.charge := rfl

@[simp] theorem engine_modEng_same (k : Core) (e : Eng) (f : Engine → Engine) : (k.modEng e f).engine e = f (k.engine e) := by
  cases e <;> simp [Core.engine, Core.modEng, engIx]

theorem engine_modEng_other (k : Core) (e e' : Eng) (f : Engine → Engine) (h : e' ≠ e) :
    (k.modEng e f).engine e' = k.engine e' := by
  cases e <;> cases e' <;> simp_all [Core.engine, Core.modEng, engIx]

/-! ### The driver -/

@[simp] theorem writeG_p (d : Driver) (r : BitVec 5) (v : DWord) : (d.writeG r v).p = d.p := by unfold Driver.writeG; split <;> rfl
@[simp] theorem writeG_x (d : Driver) (r : BitVec 5) (v : DWord) : (d.writeG r v).x = d.x := by unfold Driver.writeG; split <;> rfl
@[simp] theorem writeG_pc (d : Driver) (r : BitVec 5) (v : DWord) : (d.writeG r v).pc = d.pc := by unfold Driver.writeG; split <;> rfl
@[simp] theorem writeG_code (d : Driver) (r : BitVec 5) (v : DWord) : (d.writeG r v).code = d.code := by unfold Driver.writeG; split <;> rfl
@[simp] theorem writeG_ready (d : Driver) (r : BitVec 5) (v : DWord) : (d.writeG r v).ready = d.ready := by unfold Driver.writeG; split <;> rfl
@[simp] theorem writeG_hold (d : Driver) (r : BitVec 5) (v : DWord) : (d.writeG r v).hold = d.hold := by unfold Driver.writeG; split <;> rfl
@[simp] theorem writeG_owedG (d : Driver) (r : BitVec 5) (v : DWord) : (d.writeG r v).owedG = d.owedG := by unfold Driver.writeG; split <;> rfl
@[simp] theorem writeG_owedX (d : Driver) (r : BitVec 5) (v : DWord) : (d.writeG r v).owedX = d.owedX := by unfold Driver.writeG; split <;> rfl
@[simp] theorem writeG_wroteG (d : Driver) (r : BitVec 5) (v : DWord) : (d.writeG r v).wroteG = d.wroteG := by unfold Driver.writeG; split <;> rfl
@[simp] theorem writeG_wroteX (d : Driver) (r : BitVec 5) (v : DWord) : (d.writeG r v).wroteX = d.wroteX := by unfold Driver.writeG; split <;> rfl
@[simp] theorem writeG_loadFree (d : Driver) (r : BitVec 5) (v : DWord) : (d.writeG r v).loadFree = d.loadFree := by unfold Driver.writeG; split <;> rfl
@[simp] theorem writeG_storeFree (d : Driver) (r : BitVec 5) (v : DWord) : (d.writeG r v).storeFree = d.storeFree := by unfold Driver.writeG; split <;> rfl
@[simp] theorem writeG_markFree (d : Driver) (r : BitVec 5) (v : DWord) : (d.writeG r v).markFree = d.markFree := by unfold Driver.writeG; split <;> rfl
@[simp] theorem writeG_late (d : Driver) (r : BitVec 5) (v : DWord) : (d.writeG r v).late = d.late := by unfold Driver.writeG; split <;> rfl
@[simp] theorem writeG_mismatch (d : Driver) (r : BitVec 5) (v : DWord) : (d.writeG r v).mismatch = d.mismatch := by unfold Driver.writeG; split <;> rfl
@[simp] theorem writeG_entered (d : Driver) (r : BitVec 5) (v : DWord) : (d.writeG r v).entered = d.entered := by unfold Driver.writeG; split <;> rfl
@[simp] theorem writeP_g (d : Driver) (r : BitVec 3) (v : Bool) : (d.writeP r v).g = d.g := by unfold Driver.writeP; split <;> rfl
@[simp] theorem writeP_x (d : Driver) (r : BitVec 3) (v : Bool) : (d.writeP r v).x = d.x := by unfold Driver.writeP; split <;> rfl
@[simp] theorem writeP_pc (d : Driver) (r : BitVec 3) (v : Bool) : (d.writeP r v).pc = d.pc := by unfold Driver.writeP; split <;> rfl
@[simp] theorem writeP_code (d : Driver) (r : BitVec 3) (v : Bool) : (d.writeP r v).code = d.code := by unfold Driver.writeP; split <;> rfl
@[simp] theorem writeP_ready (d : Driver) (r : BitVec 3) (v : Bool) : (d.writeP r v).ready = d.ready := by unfold Driver.writeP; split <;> rfl
@[simp] theorem writeP_hold (d : Driver) (r : BitVec 3) (v : Bool) : (d.writeP r v).hold = d.hold := by unfold Driver.writeP; split <;> rfl
@[simp] theorem writeP_owedG (d : Driver) (r : BitVec 3) (v : Bool) : (d.writeP r v).owedG = d.owedG := by unfold Driver.writeP; split <;> rfl
@[simp] theorem writeP_owedX (d : Driver) (r : BitVec 3) (v : Bool) : (d.writeP r v).owedX = d.owedX := by unfold Driver.writeP; split <;> rfl
@[simp] theorem writeP_wroteG (d : Driver) (r : BitVec 3) (v : Bool) : (d.writeP r v).wroteG = d.wroteG := by unfold Driver.writeP; split <;> rfl
@[simp] theorem writeP_wroteX (d : Driver) (r : BitVec 3) (v : Bool) : (d.writeP r v).wroteX = d.wroteX := by unfold Driver.writeP; split <;> rfl
@[simp] theorem writeP_loadFree (d : Driver) (r : BitVec 3) (v : Bool) : (d.writeP r v).loadFree = d.loadFree := by unfold Driver.writeP; split <;> rfl
@[simp] theorem writeP_storeFree (d : Driver) (r : BitVec 3) (v : Bool) : (d.writeP r v).storeFree = d.storeFree := by unfold Driver.writeP; split <;> rfl
@[simp] theorem writeP_markFree (d : Driver) (r : BitVec 3) (v : Bool) : (d.writeP r v).markFree = d.markFree := by unfold Driver.writeP; split <;> rfl
@[simp] theorem writeP_late (d : Driver) (r : BitVec 3) (v : Bool) : (d.writeP r v).late = d.late := by unfold Driver.writeP; split <;> rfl
@[simp] theorem writeP_mismatch (d : Driver) (r : BitVec 3) (v : Bool) : (d.writeP r v).mismatch = d.mismatch := by unfold Driver.writeP; split <;> rfl
@[simp] theorem writeP_entered (d : Driver) (r : BitVec 3) (v : Bool) : (d.writeP r v).entered = d.entered := by unfold Driver.writeP; split <;> rfl
@[simp] theorem writeX_g (d : Driver) (r : BitVec 5) (v : Word) : (d.writeX r v).g = d.g := rfl
@[simp] theorem writeX_p (d : Driver) (r : BitVec 5) (v : Word) : (d.writeX r v).p = d.p := rfl
@[simp] theorem writeX_pc (d : Driver) (r : BitVec 5) (v : Word) : (d.writeX r v).pc = d.pc := rfl
@[simp] theorem writeX_code (d : Driver) (r : BitVec 5) (v : Word) : (d.writeX r v).code = d.code := rfl
@[simp] theorem writeX_ready (d : Driver) (r : BitVec 5) (v : Word) : (d.writeX r v).ready = d.ready := rfl
@[simp] theorem writeX_hold (d : Driver) (r : BitVec 5) (v : Word) : (d.writeX r v).hold = d.hold := rfl
@[simp] theorem writeX_owedG (d : Driver) (r : BitVec 5) (v : Word) : (d.writeX r v).owedG = d.owedG := rfl
@[simp] theorem writeX_owedX (d : Driver) (r : BitVec 5) (v : Word) : (d.writeX r v).owedX = d.owedX := rfl
@[simp] theorem writeX_wroteG (d : Driver) (r : BitVec 5) (v : Word) : (d.writeX r v).wroteG = d.wroteG := rfl
@[simp] theorem writeX_wroteX (d : Driver) (r : BitVec 5) (v : Word) : (d.writeX r v).wroteX = d.wroteX := rfl
@[simp] theorem writeX_loadFree (d : Driver) (r : BitVec 5) (v : Word) : (d.writeX r v).loadFree = d.loadFree := rfl
@[simp] theorem writeX_storeFree (d : Driver) (r : BitVec 5) (v : Word) : (d.writeX r v).storeFree = d.storeFree := rfl
@[simp] theorem writeX_markFree (d : Driver) (r : BitVec 5) (v : Word) : (d.writeX r v).markFree = d.markFree := rfl
@[simp] theorem writeX_late (d : Driver) (r : BitVec 5) (v : Word) : (d.writeX r v).late = d.late := rfl
@[simp] theorem writeX_mismatch (d : Driver) (r : BitVec 5) (v : Word) : (d.writeX r v).mismatch = d.mismatch := rfl
@[simp] theorem writeX_entered (d : Driver) (r : BitVec 5) (v : Word) : (d.writeX r v).entered = d.entered := rfl

/-- A write to g0 is discarded and g0 reads as zero (R82, R10). -/
@[simp] theorem readG_zero (d : Driver) : d.readG 0 = 0 := rfl

@[simp] theorem readG_writeG_same (d : Driver) (r : BitVec 5) (v : DWord) :
    (d.writeG r v).readG r = if r = 0 then 0 else v := by
  unfold Driver.readG Driver.writeG
  split <;> simp_all

theorem readG_writeG_other (d : Driver) (r q : BitVec 5) (v : DWord) (h : q ≠ r) :
    (d.writeG r v).readG q = d.readG q := by
  have h' : q.toNat ≠ r.toNat := fun e => h (BitVec.eq_of_toNat_eq e)
  unfold Driver.readG Driver.writeG
  split
  · rfl
  · split
    · rfl
    · simp [Ne.symm h']

@[simp] theorem readX_writeX_same (d : Driver) (r : BitVec 5) (v : Word) : (d.writeX r v).readX r = v := by
  simp [Driver.readX, Driver.writeX]

theorem readX_writeX_other (d : Driver) (r q : BitVec 5) (v : Word) (h : q ≠ r) :
    (d.writeX r v).readX q = d.readX q := by
  have h' : q.toNat ≠ r.toNat := fun e => h (BitVec.eq_of_toNat_eq e)
  simp [Driver.readX, Driver.writeX, Ne.symm h']

/-- One bit of a byte replaced, read at that bit and at another. -/
theorem bit_set_same (p : Byte) (r : BitVec 3) (v : Bool) :
    ((p &&& ~~~(1#8 <<< r.toNat)) ||| (if v then 1#8 <<< r.toNat else 0)).getLsbD r.toNat = v := by
  have hr := r.isLt
  cases v
  all_goals simp
  all_goals omega

theorem bit_set_other (p : Byte) (r q : BitVec 3) (v : Bool) (h : q ≠ r) :
    ((p &&& ~~~(1#8 <<< r.toNat)) ||| (if v then 1#8 <<< r.toNat else 0)).getLsbD q.toNat = p.getLsbD q.toNat := by
  have h' : q.toNat ≠ r.toNat := fun e => h (BitVec.eq_of_toNat_eq e)
  have hq := q.isLt
  have hq8 : q.toNat < 8 := by omega
  have hs : q.toNat < r.toNat ∨ ¬ q.toNat - r.toNat = 0 := by omega
  cases v
  · simp [hq8, hs]
  · rcases hs with hs | hs <;> simp [hq8, hs]

/-- A write to p0 is discarded and p0 reads as true (R82, R10). -/
@[simp] theorem readP_writeP_same (d : Driver) (r : BitVec 3) (v : Bool) :
    (d.writeP r v).readP r = (r = 0 || v) := by
  unfold Driver.readP Driver.writeP
  split
  · simp_all
  · simp only [bit_set_same]

theorem readP_writeP_other (d : Driver) (r q : BitVec 3) (v : Bool) (h : q ≠ r) :
    (d.writeP r v).readP q = d.readP q := by
  unfold Driver.readP Driver.writeP
  split
  · rfl
  · simp only [bit_set_other _ _ _ _ h]

end Sys2Proof.Machine
end

