-- ==== Sys2Proof/Laws/Claim.lean ====
section
/-! SUPPORT. The agenda, bank claims and the reading of descriptors: everything that these shared operations can do,
said once. -/

namespace Sys2Proof.Machine

/-! ### The agenda -/

theorem mem_insertDue {d e : Due} {l : List Due} : e ∈ insertDue d l ↔ e = d ∨ e ∈ l := by
  induction l with
  | nil => simp [insertDue]
  | cons a r ih =>
    simp only [insertDue]
    split
    · simp
    · simp only [List.mem_cons, ih]
      tauto

theorem mem_due_self (s : State) (cycle rank : Nat) (n : Option Nat) (who : Nat) (i : Instr) :
    (⟨cycle, rank, n, who, i⟩ : Due) ∈ (s.due cycle rank n who i).agenda := mem_insertDue.2 (Or.inl rfl)

theorem mem_due_old {s : State} {d : Due} (h : d ∈ s.agenda) (cycle rank : Nat) (n : Option Nat) (who : Nat)
    (i : Instr) : d ∈ (s.due cycle rank n who i).agenda := mem_insertDue.2 (Or.inr h)

/-! ### Claims -/

/-- A grant that is asked for: nothing but the agenda differs, nothing leaves it, and the grant stands in it. -/
theorem grantAt_spec (s : State) (c n : Nat) :
    (s.grantAt c n) = { s with agenda := (s.grantAt c n).agenda } ∧ (∀ d ∈ s.agenda, d ∈ (s.grantAt c n).agenda) ∧
      GrantDue (s.grantAt c n) c (s.clock + n) := by
  unfold State.grantAt
  split
  · next h =>
    refine ⟨rfl, fun d h => h, ?_⟩
    simp only [List.any_eq_true, Bool.and_eq_true, decide_eq_true_eq] at h
    obtain ⟨d, hd, ⟨⟨h1, h2⟩, h3⟩, h4⟩ := h
    exact ⟨d, hd, h2, h3, h1, h4⟩
  · exact ⟨rfl, fun d h => mem_due_old h _ _ _ _ _, ⟨_, mem_due_self _ _ _ _ _ _, rfl, rfl, rfl, rfl⟩⟩

/-- A claim of the meaning's core: it waits behind the others, the grant is due, nothing else differs. -/
theorem claimWords_spec (s : State) (n addr len : Nat) (act : Act) :
    OnlyCoreAndAgenda s (s.claimWords s.cur n addr len act) s.cur ∧
    (s.claimWords s.cur n addr len act).me = { s.me with pad := { s.me.pad with claims := s.me.pad.claims ++
      [⟨s.tt + n, 9, addr / 0x10000, (banksOf addr len).1, (banksOf addr len).2, act⟩] } } ∧
    (∀ d ∈ s.agenda, d ∈ (s.claimWords s.cur n addr len act).agenda) ∧
    GrantDue (s.claimWords s.cur n addr len act) s.cur (s.clock + n) := by
  obtain ⟨f, hf, e⟩ : ∃ f : Core → Core, (f s.me = { s.me with pad := { s.me.pad with claims := s.me.pad.claims ++
      [⟨s.tt + n, 9, addr / 0x10000, (banksOf addr len).1, (banksOf addr len).2, act⟩] } }) ∧
      s.claimWords s.cur n addr len act = (s.modCore s.cur f).grantAt s.cur n := ⟨_, rfl, rfl⟩
  rw [e]
  obtain ⟨h1, h2, h3⟩ := grantAt_spec (s.modCore s.cur f) s.cur n
  refine ⟨⟨?_, ?_⟩, ?_, h2, h3⟩
  · rw [h1]; rfl
  · intro e he
    rw [h1]
    exact core_modCore_other s s.cur e f he
  · rw [h1]
    exact (core_modCore_same s s.cur f).trans hf

/-- Claims of a read in groups: they wait in order, a grant is due in the cycle of each, nothing else differs. -/
theorem claimGroups_spec (s : State) (words addr : Nat) (act : Nat → Nat → Nat → Act) :
    OnlyCoreAndAgenda s (s.claimGroups words addr act) s.cur ∧
    (s.claimGroups words addr act).me = { s.me with pad := { s.me.pad with
      claims := s.me.pad.claims ++ (List.range ((words + 7) / 8)).map (groupClaim s.tt words addr act) } } ∧
    (∀ d ∈ s.agenda, d ∈ (s.claimGroups words addr act).agenda) ∧
    ∀ g, g < (words + 7) / 8 → GrantDue (s.claimGroups words addr act) s.cur (s.clock + (1 + g)) := by
  unfold State.claimGroups
  generalize hm : (words + 7) / 8 = m
  clear hm
  induction m with
  | zero => exact ⟨⟨rfl, fun _ _ => rfl⟩, by simp, fun d h => h, by omega⟩
  | succ m ih =>
    rw [List.range_succ, List.foldl_append, List.map_append]
    simp only [List.foldl_cons, List.foldl_nil, List.map_cons, List.map_nil]
    revert ih
    generalize (List.range m).foldl _ s = t
    intro ih
    obtain ⟨⟨a1, a2⟩, a3, a4, a5⟩ := ih
    have hc : t.cur = s.cur := by rw [a1]
    have hk : t.clock = s.clock := by rw [a1]
    have hp : t.tt = s.tt := by
      show t.clock - t.me.place.hshift = _
      rw [a3, hk]; rfl
    obtain ⟨⟨b1, b2⟩, b3, b4, b5⟩ := claimWords_spec t (1 + m) (addr + 32 * m) (4 * min 8 (words - 8 * m))
      (act m (addr + 32 * m) (min 8 (words - 8 * m)))
    revert b1 b2 b3 b4 b5
    generalize State.claimWords t _ _ _ _ _ = u
    intro b1 b2 b3 b4 b5
    rw [hc] at b2 b5
    rw [hk] at b5
    refine ⟨⟨?_, fun e he => (b2 e he).trans (a2 e he)⟩, ?_, fun d h => b4 d (a4 d h), ?_⟩
    · exact b1.trans (congrArg (fun (x : State) => { x with agenda := u.agenda, cores := u.cores }) a1)
    · rw [b3, a3, hp]
      simp [groupClaim]
    · intro g hg
      rcases Nat.lt_succ_iff_lt_or_eq.1 hg with h | h
      · obtain ⟨d, hd, e⟩ := a5 g h
        exact ⟨d, b4 d hd, e⟩
      · subst h
        exact b5

/-! ### Translation -/

theorem onlyDies_trans {s t u : State} (h : t = { s with dies := t.dies }) (k : u = { t with dies := u.dies }) :
    u = { s with dies := u.dies } :=
  k.trans (congrArg (fun (x : State) => { x with dies := u.dies }) h)

/-- Translating changes nothing but a TLB. -/
theorem translate_frame (s : State) (c : Nat) (va : DWord) :
    (s.translate c va).2 = { s with dies := (s.translate c va).2.dies } := by
  unfold State.translate
  dsimp only
  split
  · rfl
  · split <;> rfl

/-- Nor does a translation that an address past the last page misses. -/
theorem translateBelow_frame (s : State) (c n : Nat) :
    (if 2 ^ 55 ≤ n then (none, s) else s.translate c (BitVec.ofNat 64 n)).2 =
      { s with dies := (if 2 ^ 55 ≤ n then (none, s) else s.translate c (BitVec.ofNat 64 n)).2.dies } := by
  split
  · rfl
  · exact translate_frame _ _ _

theorem pinFrames_frame (c va : Nat) (write : Bool) (ps : List Nat) : ∀ (s : State) (fs : List Nat),
    (s.pinFrames c va write ps fs).2 = { s with dies := (s.pinFrames c va write ps fs).2.dies } := by
  induction ps with
  | nil => intro s fs; rfl
  | cons p r ih =>
    intro s fs
    unfold State.pinFrames
    dsimp only
    have h := translateBelow_frame s c (max va (p * 2 ^ 16))
    revert h
    generalize (if 2 ^ 55 ≤ max va (p * 2 ^ 16) then (none, s)
      else s.translate c (BitVec.ofNat 64 (max va (p * 2 ^ 16)))) = t
    intro h
    split
    · exact h
    · repeat' (split; exact h)
      exact onlyDies_trans h (ih _ _)

/-- The walk of an XPIN changes nothing but a TLB. -/
theorem pinRange_frame (s : State) (c va n : Nat) (write : Bool) :
    (s.pinRange c va n write).2 = { s with dies := (s.pinRange c va n write).2.dies } := by
  unfold State.pinRange
  dsimp only
  have h := translateBelow_frame s c va
  revert h
  generalize (if 2 ^ 55 ≤ va then (none, s) else s.translate c (BitVec.ofNat 64 va)) = t
  intro h
  split
  · rfl
  · split
    · exact h
    · split
      · split
        · exact h
        · split <;> exact h
      · split
        · exact h
        · have k := onlyDies_trans h (pinFrames_frame c va write (rangePages va n) _ [])
          split <;> exact k

end Sys2Proof.Machine
end

