-- ==== Sys2Proof/Laws/Decode.lean ====
section
/-! SUPPORT. Lemmas about placing and reading the fields of a word: a placed field reads back, and reads
as zero wherever it does not reach. -/

namespace Sys2Proof

@[simp] theorem fld_or (a b : Word) (lo len : Nat) :
    BitVec.extractLsb' lo len (a ||| b) = BitVec.extractLsb' lo len a ||| BitVec.extractLsb' lo len b := by
  ext i hi; simp

@[simp] theorem fld_put_same (lo : Nat) {n : Nat} (f : BitVec n) (h : lo + n ≤ 32) :
    BitVec.extractLsb' lo n (put lo f) = f := by
  ext i hi
  have h1 : lo + i < 32 := by omega
  simp [put, h1, BitVec.getLsbD_eq_getElem hi]

theorem fld_put_above (lo len at' : Nat) {n : Nat} (f : BitVec n) (h : lo + len ≤ at') :
    BitVec.extractLsb' lo len (put at' f) = 0#len := by
  ext i hi
  have h1 : lo + i < at' := by omega
  simp [put, h1]

theorem fld_put_below (lo len at' : Nat) {n : Nat} (f : BitVec n) (h : at' + n ≤ lo) :
    BitVec.extractLsb' lo len (put at' f) = 0#len := by
  ext i hi
  have h1 : n ≤ lo + i - at' := by omega
  simp [put, BitVec.getLsbD_of_ge _ _ h1]

/-- A word decodes to the instruction whose word it is, if the opcode fields select that instruction and
its operands are legal. -/
theorem decode_ok {st : Stream} {w : Word} {i : Instr} (hc : candidate st w = some i)
    (he : encode i = some w) (hl : i.legalIn st = true) : decode st w = .ok i := by
  simp [decode, hc, he, hl]

/-- What the decoder accepts, it accepts with the word that encodes it: no bit of the word is dropped. -/
theorem encode_of_decode {st : Stream} {w : Word} {i : Instr} (h : decode st w = .ok i) :
    encode i = some w ∧ i.legalIn st = true := by
  unfold decode at h
  split at h
  · cases h
  · split at h
    · cases h
    · split at h <;> cases h
      exact ⟨Classical.not_not.mp ‹_›, ‹_›⟩

end Sys2Proof
end

