-- ==== Sys2Proof/Laws/Driver.lean ====
section
/-! SUPPORT. Everything that the shared operations of the driver can do, said once. -/

namespace Sys2Proof.Machine

/-- An update of the meaning's core touches nothing outside it. -/
theorem onlyCore_modMe (s : State) (f : Core → Core) : OnlyCore s (s.modMe f) s.cur :=
  ⟨rfl, fun _ he => core_modCore_other _ _ _ _ he⟩

/-- An update of the driver, with events charged, touches nothing else. -/
theorem onlyDriver_modMe (s : State) (f : Core → Core)
    (h : f s.me = { s.me with drv := (f s.me).drv, charge := (f s.me).charge }) : OnlyDriver s (s.modMe f) :=
  ⟨onlyCore_modMe s f, by rw [me_modMe]; exact h⟩

/-- What `retireG` does: the g result, the next word, the issue cost, nothing else. -/
theorem answersG_retireG {i : Instr} {s : State} {cost : Nat} {r : BitVec 5} {v : DWord}
    (h : exec i s = .next (s.retireG cost r v)) : AnswersG i s cost r v := by
  refine ⟨_, h, onlyDriver_modMe s (fun k => (k.issued s.tt cost (nextPc k.drv.pc)).result (s.tt + cost) r v) rfl, ?_, ?_, ?_, ?_, ?_⟩
  · simp only [State.retireG, State.retire, me_modMe, Core.result, Core.issued, Core.charged, Core.modDrv, Issued, nextPc]
    unfold Driver.writeG
    split <;> rfl
  · simp only [State.retireG, State.retire, me_modMe, Core.result, modDrv_drv, Core.issued, charged_drv]
    exact readG_writeG_same _ _ _
  · intro q hq
    simp only [State.retireG, State.retire, me_modMe, Core.result, modDrv_drv, Core.issued, charged_drv]
    exact readG_writeG_other _ _ _ _ hq
  · simp [State.retireG, State.retire, Core.result, Core.issued]
  · simp [State.retireG, State.retire, Core.result, Core.issued]

/-- What `retireP` does. -/
theorem answersP_retireP {i : Instr} {s : State} {r : BitVec 3} {v : Bool}
    (h : exec i s = .next (s.retireP r v)) : AnswersP i s r v := by
  refine ⟨_, h, onlyDriver_modMe s (fun k => (k.issued s.tt 1 (nextPc k.drv.pc)).modDrv (·.writeP r v)) rfl, ?_, ?_, ?_, ?_, ?_, ?_⟩
  · simp only [State.retireP, State.retire, me_modMe, Core.issued, Core.charged, Core.modDrv, Issued, nextPc]
    unfold Driver.writeP
    split <;> rfl
  · simp only [State.retireP, State.retire, me_modMe, modDrv_drv, Core.issued, charged_drv]
    exact readP_writeP_same _ _ _
  · intro q hq
    simp only [State.retireP, State.retire, me_modMe, modDrv_drv, Core.issued, charged_drv]
    exact readP_writeP_other _ _ _ _ hq
  · simp [State.retireP, State.retire, Core.issued]
  · simp [State.retireP, State.retire, Core.issued]
  · simp [State.retireP, State.retire, Core.issued]

/-- What a jump with a link or a counter does. -/
theorem answersGoto_jump {i : Instr} {s : State} {cost : Nat} {pc : Half} {r : BitVec 5} {v : DWord}
    (h : exec i s = .next (s.jump cost pc (fun k => k.result (s.tt + cost) r v))) : AnswersGoto i s cost pc r v := by
  refine ⟨_, h, onlyDriver_modMe s (fun k => (k.issued s.tt cost pc).result (s.tt + cost) r v) rfl, ?_, ?_, ?_, ?_, ?_⟩
  · simp only [State.jump, me_modMe, Core.result, Core.issued, Core.charged, Core.modDrv, Issued]
    unfold Driver.writeG
    split <;> rfl
  · simp only [State.jump, me_modMe, Core.result, modDrv_drv, Core.issued, charged_drv]
    exact readG_writeG_same _ _ _
  · intro q hq
    simp only [State.jump, me_modMe, Core.result, modDrv_drv, Core.issued, charged_drv]
    exact readG_writeG_other _ _ _ _ hq
  · simp [State.jump, Core.result, Core.issued]
  · simp [State.jump, Core.result, Core.issued]

/-- What a jump without one does: no register changes. -/
theorem answersGoto_plain {i : Instr} {s : State} {cost : Nat} {pc : Half}
    (h : exec i s = .next (s.jump cost pc id)) : AnswersGoto i s cost pc 0 0 := by
  refine ⟨_, h, onlyDriver_modMe s (fun k => id (k.issued s.tt cost pc)) rfl, ?_, rfl, ?_, ?_, ?_⟩
  · simp [State.jump, Core.issued, Issued, Core.charged, Core.modDrv]
  · intro q hq
    simp only [State.jump, me_modMe, id, Core.issued, charged_drv]
    rfl
  · simp [State.jump, Core.issued]
  · simp [State.jump, Core.issued]

/-- The check of a jump target says what R64 says. -/
theorem targetOk_iff (v : DWord) : targetOk v = true ↔ LegalTarget v := by
  unfold targetOk LegalTarget
  simp only [Bool.and_eq_true, decide_eq_true_eq]
  constructor
  · rintro ⟨h1, h2⟩
    have h3 := congrArg BitVec.toNat h1
    have h4 := congrArg BitVec.toNat h2
    simp [BitVec.extractLsb'_toNat, Nat.shiftRight_eq_div_pow] at h3 h4
    omega
  · rintro ⟨h1, h2⟩
    constructor <;> apply BitVec.eq_of_toNat_eq <;> simp [BitVec.extractLsb'_toNat, Nat.shiftRight_eq_div_pow] <;> omega

/-! ### Exceptions -/

/-- The bits of a status word built from its fields. -/
theorem mkStatus_fields (m p q i j : Bool) :
    (mkStatus m p q i j).getLsbD 0 = m ∧ (mkStatus m p q i j).getLsbD 1 = p ∧ (mkStatus m p q i j).getLsbD 2 = q ∧
      (mkStatus m p q i j).getLsbD 3 = i ∧ (mkStatus m p q i j).getLsbD 4 = j ∧ mkStatus m p q i j >>> 5 = 0 := by
  revert m p q i j; decide

/-- What a delivered fault or trap does where it traps. -/
theorem trapped_deliver (s : State) (cause : BitVec 8) (pc epc : Half) (info va : DWord) (h : TrapsToVector s) :
    Trapped s (s.deliver s.cur cause pc epc info va) (cause.setWidth 64) (epc.setWidth 64) info va := by
  obtain ⟨h1, h2, h3, h4⟩ := h
  have e : s.deliver s.cur cause pc epc info va =
      s.modMe (·.trapFault (s.ttOf s.cur) s.clock cause (epc.setWidth 64) info va) := by
    have h2' : (s.core s.cur).timed = false := h2
    have h3' : (s.core s.cur).priv = false := h3
    have h4' : (s.core s.cur).csr.tvec ≠ noVector := h4
    simp [State.deliver, h1, h2', h3', h4', State.modMe]
  rw [e]
  have f := mkStatus_fields s.me.timed true s.me.priv false s.me.ie
  refine ⟨onlyCore_modMe _ _, ?_, ?_, ?_⟩
  · simp [Core.trapFault, Core.trap, Core.modCsr, Core.modDrv]
  · simp [Core.trapFault, Core.trap, Core.modCsr, Core.modDrv]
  · simp only [me_modMe, Core.trapFault, Core.trap, Core.modCsr, Core.modDrv, Core.timed, Core.priv, Core.ppriv, Core.ie,
      Core.pie] at f ⊢
    exact ⟨f.1, f.2.1, f.2.2.2.1, f.2.2.1, f.2.2.2.2.1, f.2.2.2.2.2, by simp⟩

/-- Events charged to the core before a step change nothing that a trap shows. -/
theorem trapped_charged {s t : State} {n m : Nat} {cause epc info va : DWord}
    (h : Trapped (s.modMe (·.charged n m)) t cause epc info va) : Trapped s t cause epc info va := by
  obtain ⟨⟨h1, h2⟩, h3, h4, h5⟩ := h
  simp only [me_modMe] at h3 h4 h5
  refine ⟨⟨?_, ?_⟩, h3, h4, h5⟩
  · rw [h1]; rfl
  · intro e he
    rw [h2 e he]
    exact core_modCore_other _ _ _ _ he

/-- FAULTINFO of a driver fault: UNIT 0, SUB 0, ADDR alone. -/
theorem faultInfo_driver (n : Nat) (h : n < 2 ^ 52) : faultInfo unitDriver 0 false n = BitVec.ofNat 64 n := by
  apply BitVec.eq_of_toNat_eq
  simp only [faultInfo, unitDriver, BitVec.toNat_append, BitVec.toNat_setWidth, BitVec.toNat_ofNat]
  simp
  rw [Nat.mod_eq_of_lt (by omega : n < 4503599627370496)]

/-! ### Stops -/

@[simp] theorem core_modNode (s : State) (n : Nat) (f : Node → Node) (c : Nat) : (s.modNode n f).core c = s.core c := by
  unfold State.modNode; split <;> rfl
@[simp] theorem clock_modNode (s : State) (n : Nat) (f : Node → Node) : (s.modNode n f).clock = s.clock := by
  unfold State.modNode; split <;> rfl
@[simp] theorem mem_modNode (s : State) (n : Nat) (f : Node → Node) : (s.modNode n f).mem = s.mem := by
  unfold State.modNode; split <;> rfl
@[simp] theorem cur_modNode (s : State) (n : Nat) (f : Node → Node) : (s.modNode n f).cur = s.cur := by
  unfold State.modNode; split <;> rfl
theorem find_modNode_same (s : State) (n : Nat) (f : Node → Node) :
    (s.modNode n f).nodes.find n = (s.nodes.find n).map f := by
  unfold State.modNode
  split
  · next h => simp [h]
  · next nd h => simp [h]

@[simp] theorem core_notify (s : State) (nd : Node) (k a b c : Nat) : (s.notify nd k a b).core c = s.core c := by
  unfold State.notify; split <;> rfl
@[simp] theorem nodes_notify (s : State) (nd : Node) (k a b : Nat) : (s.notify nd k a b).nodes = s.nodes := by
  unfold State.notify; split <;> rfl
@[simp] theorem mem_notify (s : State) (nd : Node) (k a b : Nat) : (s.notify nd k a b).mem = s.mem := by
  unfold State.notify; split <;> rfl
@[simp] theorem cur_notify (s : State) (nd : Node) (k a b : Nat) : (s.notify nd k a b).cur = s.cur := by
  unfold State.notify; split <;> rfl

/-- A stop of a timetable: its cores, memory and other nodes as before, the detection cycle noted once. -/
theorem stopFrom_frame (s : State) (n t : Nat) :
    (∀ c, (s.stopFrom n t).core c = s.core c) ∧ (s.stopFrom n t).mem = s.mem ∧ (s.stopFrom n t).cur = s.cur ∧
    (s.stopFrom n t).nodes.find n = (s.nodes.find n).map (fun nd =>
      if nd.stopping.isSome then nd else { nd with stopping := some t }) := by
  unfold State.stopFrom
  split
  · next h => exact ⟨fun _ => rfl, rfl, rfl, by simp [h]⟩
  · next nd h =>
    split
    · next h2 => exact ⟨fun _ => rfl, rfl, rfl, by simp [h, h2]⟩
    · next h2 =>
      refine ⟨fun c => by simp; rfl, by simp, by simp, ?_⟩
      simp only [due_nodes, nodes_notify, find_put_same, h, Option.map_some, h2, Bool.false_eq_true, if_false]

theorem enter_verdict (nd : Node) (r : Report) : (nd.enter r).verdict = max nd.verdict r.verdict := rfl
theorem enter_stopping (nd : Node) (r : Report) : (nd.enter r).stopping = nd.stopping := rfl
theorem enter_report (nd : Node) (r : Report) (h : nd.report = none) : (nd.enter r).report = some r := by
  simp [Node.enter, h]

/-- A fatal fault of timetable `n`: the node's worst verdict, its stop and its first report. -/
theorem fatalNode_frame (s : State) (n : Nat) (r : Report) :
    (∀ c, (s.fatalNode n r).core c = s.core c) ∧ (s.fatalNode n r).mem = s.mem ∧ (s.fatalNode n r).cur = s.cur ∧
    ∀ nd, s.nodes.find n = some nd → ∃ md, (s.fatalNode n r).nodes.find n = some md ∧
      md.verdict = max nd.verdict r.verdict ∧ md.stopping.isSome ∧ (nd.report = none → md.report = some r) := by
  obtain ⟨h1, h2, h3, h4⟩ := stopFrom_frame (s.modNode n (·.enter r)) n (s.modNode n (·.enter r)).clock
  refine ⟨fun c => (h1 c).trans (core_modNode _ _ _ _), h2.trans (mem_modNode _ _ _), h3.trans (cur_modNode _ _ _), ?_⟩
  intro nd hf
  rw [find_modNode_same, hf, Option.map_some, Option.map_some] at h4
  refine ⟨_, h4, ?_, ?_, ?_⟩
  · split <;> exact enter_verdict _ _
  · split
    · next hs => exact hs
    · rfl
  · intro hr
    split <;> exact enter_report _ _ hr

/-- What a fatal fault of the meaning's core does. -/
theorem stopped_fatal (s : State) (cause : BitVec 8) (verdict : Nat) (info : DWord) (stream : Nat) (site : Half)
    (aux va : DWord) : Stopped s (s.fatal s.cur true cause verdict info stream site aux va) cause verdict := by
  let f : Core → Core := fun k =>
    (k.modCsr (fun r => { r with cause := cause.setWidth 64, epc := site.setWidth 64, faultInfo := info,
                                 faultCyc := BitVec.ofNat 64 s.clock, faultVa := va })).halt s.clock
  have key : ∀ t : State, (∀ c, t.core c = (s.modCore s.cur f).core c) → t.mem = s.mem → t.cur = s.cur →
      (∀ n nd, s.me.place.node = some n → s.nodes.find n = some nd →
        ∃ md, t.nodes.find n = some md ∧ md.verdict = max nd.verdict verdict ∧ md.stopping.isSome ∧
          (nd.report = none → ∃ r, md.report = some r ∧ r.cause = cause ∧ r.cyc = s.clock)) →
      Stopped s t cause verdict := by
    intro t hc hm hu hn
    have me : t.me = f s.me := by
      unfold State.me; rw [hu, hc]; exact core_modCore_same _ _ _
    refine ⟨?_, by rw [me]; rfl, by rw [me]; rfl, by rw [me]; rfl, by rw [me]; rfl, by rw [me]; rfl, hm, hn⟩
    rw [me]
    simp only [f, Core.halt, modCsr_place]
    cases s.me.place.stopAt with
    | none => exact ⟨_, rfl, Nat.le_refl _⟩
    | some k => exact ⟨_, rfl, Nat.min_le_right _ _⟩
  unfold State.fatal
  simp only [if_true]
  split
  · next h =>
    refine key _ (fun _ => rfl) rfl rfl ?_
    intro n nd hn
    rw [State.me, h] at hn
    cases hn
  · next n h =>
    obtain ⟨h1, h2, h3, h4⟩ := fatalNode_frame (s.modCore s.cur f) n
      { verdict := verdict, cause := cause, info := info, cyc := s.clock, site := site,
        stream := BitVec.ofNat 3 stream, core := (s.core s.cur).csr.coreix.setWidth 24, aux := aux }
    refine key _ h1 h2 h3 ?_
    intro m nd hm hf
    rw [State.me, h] at hm
    cases hm
    obtain ⟨md, k1, k2, k3, k4⟩ := h4 nd hf
    exact ⟨md, k1, k2, k3, fun hr => ⟨_, k4 hr, rfl, rfl⟩⟩

end Sys2Proof.Machine
end

