-- ==== Sys2Proof/Laws/PerInstr.lean ====
section
/-! SUPPORT. Encoding, instruction by instruction: in a stream that has an instruction with legal operands, the opcode
fields of its word select that instruction, with every operand read back. -/

namespace Sys2Proof.Laws.Encoding

/-- The decoder's candidate for the word of a legal instruction is that instruction. -/
def Statement (i : Instr) : Prop :=
  ∀ st w, i.legalIn st = true → encode i = some w → candidate st w = some i

/-- An instruction of the driver. -/
theorem inDriver {i : Instr} (he : i.engine = none) (hc : ∀ e, commonOk e i = false)
    (h : ∀ w, encode i = some w → candidateDriver w = some i) : Statement i := by
  intro st w hl hw
  cases st with
  | driver => exact h w hw
  | engine e => simp [Instr.legalIn, he, hc] at hl

/-- An order of one engine. -/
theorem inEngine {i : Instr} (e : Eng) (he : i.engine = some e)
    (h : ∀ w, encode i = some w → candidate (.engine e) w = some i) : Statement i := by
  intro st w hl hw
  cases st with
  | driver => simp [Instr.legalIn, he] at hl
  | engine f =>
    obtain rfl : f = e := by simp [Instr.legalIn, he] at hl; exact hl.2
    exact h w hw

/-- An order of every engine. -/
theorem inEvery {i : Instr} (he : i.engine = none) (hc : i.common = true)
    (h : ∀ w, encode i = some w → ∀ e, candidate (.engine e) w = some i) : Statement i := by
  intro st w hl hw
  cases st with
  | driver => simp [Instr.legalIn, he, hc] at hl
  | engine e => exact h w hw e

/-- A step without a word. -/
theorem noWord {i : Instr} (h : encode i = none) : Statement i := by
  intro st w _ hw
  simp [h] at hw

theorem add : ∀ a b c, Statement (.add a b c) := fun _ _ _ => inDriver rfl (fun _ => rfl) (by
  rintro w ⟨⟩; simp [candidateDriver, decodeMajor01, fld_put_above, fld_put_below])
theorem sub : ∀ a b c, Statement (.sub a b c) := fun _ _ _ => inDriver rfl (fun _ => rfl) (by
  rintro w ⟨⟩; simp [candidateDriver, decodeMajor01, fld_put_above, fld_put_below])
theorem and : ∀ a b c, Statement (.and a b c) := fun _ _ _ => inDriver rfl (fun _ => rfl) (by
  rintro w ⟨⟩; simp [candidateDriver, decodeMajor01, fld_put_above, fld_put_below])
theorem or : ∀ a b c, Statement (.or a b c) := fun _ _ _ => inDriver rfl (fun _ => rfl) (by
  rintro w ⟨⟩; simp [candidateDriver, decodeMajor01, fld_put_above, fld_put_below])
theorem xor : ∀ a b c, Statement (.xor a b c) := fun _ _ _ => inDriver rfl (fun _ => rfl) (by
  rintro w ⟨⟩; simp [candidateDriver, decodeMajor01, fld_put_above, fld_put_below])
theorem andn : ∀ a b c, Statement (.andn a b c) := fun _ _ _ => inDriver rfl (fun _ => rfl) (by
  rintro w ⟨⟩; simp [candidateDriver, decodeMajor01, fld_put_above, fld_put_below])
theorem shl : ∀ a b c, Statement (.shl a b c) := fun _ _ _ => inDriver rfl (fun _ => rfl) (by
  rintro w ⟨⟩; simp [candidateDriver, decodeMajor01, fld_put_above, fld_put_below])
theorem shr : ∀ a b c, Statement (.shr a b c) := fun _ _ _ => inDriver rfl (fun _ => rfl) (by
  rintro w ⟨⟩; simp [candidateDriver, decodeMajor01, fld_put_above, fld_put_below])
theorem sra : ∀ a b c, Statement (.sra a b c) := fun _ _ _ => inDriver rfl (fun _ => rfl) (by
  rintro w ⟨⟩; simp [candidateDriver, decodeMajor01, fld_put_above, fld_put_below])
theorem mul : ∀ a b c, Statement (.mul a b c) := fun _ _ _ => inDriver rfl (fun _ => rfl) (by
  rintro w ⟨⟩; simp [candidateDriver, decodeMajor01, fld_put_above, fld_put_below])
theorem mulh : ∀ a b c, Statement (.mulh a b c) := fun _ _ _ => inDriver rfl (fun _ => rfl) (by
  rintro w ⟨⟩; simp [candidateDriver, decodeMajor01, fld_put_above, fld_put_below])
theorem mulhu : ∀ a b c, Statement (.mulhu a b c) := fun _ _ _ => inDriver rfl (fun _ => rfl) (by
  rintro w ⟨⟩; simp [candidateDriver, decodeMajor01, fld_put_above, fld_put_below])
theorem min : ∀ a b c, Statement (.min a b c) := fun _ _ _ => inDriver rfl (fun _ => rfl) (by
  rintro w ⟨⟩; simp [candidateDriver, decodeMajor01, fld_put_above, fld_put_below])
theorem max : ∀ a b c, Statement (.max a b c) := fun _ _ _ => inDriver rfl (fun _ => rfl) (by
  rintro w ⟨⟩; simp [candidateDriver, decodeMajor01, fld_put_above, fld_put_below])
theorem minu : ∀ a b c, Statement (.minu a b c) := fun _ _ _ => inDriver rfl (fun _ => rfl) (by
  rintro w ⟨⟩; simp [candidateDriver, decodeMajor01, fld_put_above, fld_put_below])
theorem maxu : ∀ a b c, Statement (.maxu a b c) := fun _ _ _ => inDriver rfl (fun _ => rfl) (by
  rintro w ⟨⟩; simp [candidateDriver, decodeMajor01, fld_put_above, fld_put_below])
theorem clz : ∀ a b, Statement (.clz a b) := fun _ _ => inDriver rfl (fun _ => rfl) (by
  rintro w ⟨⟩; simp [candidateDriver, decodeMajor01, fld_put_above, fld_put_below])
theorem popc : ∀ a b, Statement (.popc a b) := fun _ _ => inDriver rfl (fun _ => rfl) (by
  rintro w ⟨⟩; simp [candidateDriver, decodeMajor01, fld_put_above, fld_put_below])
theorem sext : ∀ a b c, Statement (.sext a b c) := fun _ _ _ => inDriver rfl (fun _ => rfl) (by
  rintro w ⟨⟩; simp [candidateDriver, decodeMajor01, fld_put_above, fld_put_below])
theorem zext : ∀ a b c, Statement (.zext a b c) := fun _ _ _ => inDriver rfl (fun _ => rfl) (by
  rintro w ⟨⟩; simp [candidateDriver, decodeMajor01, fld_put_above, fld_put_below])
theorem addi : ∀ a b c, Statement (.addi a b c) := fun _ _ _ => inDriver rfl (fun _ => rfl) (by
  rintro w ⟨⟩; simp [candidateDriver, fld_put_above, fld_put_below])
theorem andi : ∀ a b c, Statement (.andi a b c) := fun _ _ _ => inDriver rfl (fun _ => rfl) (by
  rintro w ⟨⟩; simp [candidateDriver, fld_put_above, fld_put_below])
theorem ori : ∀ a b c, Statement (.ori a b c) := fun _ _ _ => inDriver rfl (fun _ => rfl) (by
  rintro w ⟨⟩; simp [candidateDriver, fld_put_above, fld_put_below])
theorem xori : ∀ a b c, Statement (.xori a b c) := fun _ _ _ => inDriver rfl (fun _ => rfl) (by
  rintro w ⟨⟩; simp [candidateDriver, fld_put_above, fld_put_below])
theorem shli : ∀ a b c, Statement (.shli a b c) := fun _ _ _ => inDriver rfl (fun _ => rfl) (by
  rintro w ⟨⟩; simp [candidateDriver, decodeMajor06, fld_put_above, fld_put_below])
theorem shri : ∀ a b c, Statement (.shri a b c) := fun _ _ _ => inDriver rfl (fun _ => rfl) (by
  rintro w ⟨⟩; simp [candidateDriver, decodeMajor06, fld_put_above, fld_put_below])
theorem srai : ∀ a b c, Statement (.srai a b c) := fun _ _ _ => inDriver rfl (fun _ => rfl) (by
  rintro w ⟨⟩; simp [candidateDriver, decodeMajor06, fld_put_above, fld_put_below])
theorem lih : ∀ a b, Statement (.lih a b) := fun _ _ => inDriver rfl (fun _ => rfl) (by
  rintro w ⟨⟩; simp [candidateDriver, fld_put_above, fld_put_below])
theorem movk : ∀ a b c, Statement (.movk a b c) := fun _ _ _ => inDriver rfl (fun _ => rfl) (by
  rintro w ⟨⟩; simp [candidateDriver, fld_put_above, fld_put_below])
theorem cmp : ∀ a b c d, Statement (.cmp a b c d) := fun _ _ _ _ => inDriver rfl (fun _ => rfl) (by
  rintro w ⟨⟩; simp [candidateDriver, fld_put_above, fld_put_below])
theorem cmpi : ∀ a b c d, Statement (.cmpi a b c d) := fun _ _ _ _ => inDriver rfl (fun _ => rfl) (by
  rintro w ⟨⟩; simp [candidateDriver, fld_put_above, fld_put_below])
theorem plog : ∀ a b c d e, Statement (.plog a b c d e) := fun _ _ _ _ _ => inDriver rfl (fun _ => rfl) (by
  rintro w ⟨⟩; simp [candidateDriver, fld_put_above, fld_put_below])
theorem sel : ∀ a b c d, Statement (.sel a b c d) := fun _ _ _ _ => inDriver rfl (fun _ => rfl) (by
  rintro w ⟨⟩; simp [candidateDriver, decodeMajor0C, fld_put_above, fld_put_below])
theorem br : ∀ a b c, Statement (.br a b c) := fun _ _ _ => inDriver rfl (fun _ => rfl) (by
  rintro w ⟨⟩; simp [candidateDriver, fld_put_above, fld_put_below])
theorem call : ∀ a, Statement (.call a) := fun _ => inDriver rfl (fun _ => rfl) (by
  rintro w ⟨⟩; simp [candidateDriver, fld_put_below])
theorem jr : ∀ a, Statement (.jr a) := fun _ => inDriver rfl (fun _ => rfl) (by
  rintro w ⟨⟩; simp [candidateDriver, decodeMajor0F, fld_put_above, fld_put_below])
theorem jalr : ∀ a, Statement (.jalr a) := fun _ => inDriver rfl (fun _ => rfl) (by
  rintro w ⟨⟩; simp [candidateDriver, decodeMajor0F, fld_put_above, fld_put_below])
theorem dbnz : ∀ a b, Statement (.dbnz a b) := fun _ _ => inDriver rfl (fun _ => rfl) (by
  rintro w ⟨⟩; simp [candidateDriver, fld_put_above, fld_put_below])
theorem lds : ∀ a b c d, Statement (.lds a b c d) := fun _ _ _ _ => inDriver rfl (fun _ => rfl) (by
  rintro w ⟨⟩; simp [candidateDriver, fld_put_above, fld_put_below])
theorem sts : ∀ a b c d, Statement (.sts a b c d) := fun _ _ _ _ => inDriver rfl (fun _ => rfl) (by
  rintro w ⟨⟩; simp [candidateDriver, fld_put_above, fld_put_below])
theorem ldg : ∀ a b c d, Statement (.ldg a b c d) := fun _ _ _ _ => inDriver rfl (fun _ => rfl) (by
  rintro w ⟨⟩; simp [candidateDriver, fld_put_above, fld_put_below])
theorem stg : ∀ a b c d, Statement (.stg a b c d) := fun _ _ _ _ => inDriver rfl (fun _ => rfl) (by
  rintro w ⟨⟩; simp [candidateDriver, fld_put_above, fld_put_below])
theorem amo : ∀ a b c d e f, Statement (.amo a b c d e f) := fun _ _ _ _ _ _ => inDriver rfl (fun _ => rfl) (by
  rintro w ⟨⟩; simp [candidateDriver, fld_put_above, fld_put_below])
theorem fence : ∀ a, Statement (.fence a) := fun _ => inDriver rfl (fun _ => rfl) (by
  rintro w ⟨⟩; simp [candidateDriver, decodeMajor16, fld_put_below])
theorem xfence : ∀ a, Statement (.xfence a) := fun _ => inDriver rfl (fun _ => rfl) (by
  rintro w ⟨⟩; simp [candidateDriver, decodeMajor16, fld_put_below])
theorem ximov : ∀ a b, Statement (.ximov a b) := fun _ _ => inDriver rfl (fun _ => rfl) (by
  rintro w ⟨⟩; simp [candidateDriver, decodeMajor17, fld_put_above, fld_put_below])
theorem xild : ∀ a b c, Statement (.xild a b c) := fun _ _ _ => inDriver rfl (fun _ => rfl) (by
  rintro w ⟨⟩; simp [candidateDriver, decodeMajor17, fld_put_above, fld_put_below])
theorem xird : ∀ a b, Statement (.xird a b) := fun _ _ => inDriver rfl (fun _ => rfl) (by
  rintro w ⟨⟩; simp [candidateDriver, decodeMajor17, fld_put_above, fld_put_below])
theorem stcr : ∀ a, Statement (.stcr a) := fun _ => inDriver rfl (fun _ => rfl) (by
  rintro w ⟨⟩; simp [candidateDriver, decodeMajor18, fld_put_below])
theorem waits : ∀ a, Statement (.waits a) := fun _ => inDriver rfl (fun _ => rfl) (by
  rintro w ⟨⟩; simp [candidateDriver, decodeMajor18, fld_put_below])
theorem depr : ∀ a b, Statement (.depr a b) := fun _ _ => inDriver rfl (fun _ => rfl) (by
  rintro w ⟨⟩; simp [candidateDriver, decodeMajor18, fld_put_above, fld_put_below])
theorem tstart : ∀ a b, Statement (.tstart a b) := fun _ _ => inDriver rfl (fun _ => rfl) (by
  rintro w ⟨⟩; simp [candidateDriver, decodeMajor19, fld_put_above, fld_put_below])
theorem tstop : ∀ a, Statement (.tstop a) := fun _ => inDriver rfl (fun _ => rfl) (by
  rintro w ⟨⟩; simp [candidateDriver, decodeMajor19, fld_put_below])
theorem tbase : ∀ a b, Statement (.tbase a b) := fun _ _ => inDriver rfl (fun _ => rfl) (by
  rintro w ⟨⟩; simp [candidateDriver, decodeMajor19, fld_put_above, fld_put_below])
theorem tload : ∀ a b c, Statement (.tload a b c) := fun _ _ _ => inDriver rfl (fun _ => rfl) (by
  rintro w ⟨⟩; simp [candidateDriver, decodeMajor19, fld_put_above, fld_put_below])
theorem lpset : ∀ a b c, Statement (.lpset a b c) := fun _ _ _ => inDriver rfl (fun _ => rfl) (by
  rintro w ⟨⟩; simp [candidateDriver, decodeMajor19, fld_put_above, fld_put_below])
theorem agset : ∀ a b c, Statement (.agset a b c) := fun _ _ _ => inDriver rfl (fun _ => rfl) (by
  rintro w ⟨⟩; simp [candidateDriver, decodeMajor19, fld_put_above, fld_put_below])
theorem wbpush : ∀ a, Statement (.wbpush a) := fun _ => inDriver rfl (fun _ => rfl) (by
  rintro w ⟨⟩; simp [candidateDriver, decodeMajor1A, fld_put_below])
theorem pqpush : ∀ a, Statement (.pqpush a) := fun _ => inDriver rfl (fun _ => rfl) (by
  rintro w ⟨⟩; simp [candidateDriver, decodeMajor1A, fld_put_below])
theorem rcfg : ∀ a b, Statement (.rcfg a b) := fun _ _ => inDriver rfl (fun _ => rfl) (by
  rintro w ⟨⟩; simp [candidateDriver, decodeMajor1B, fld_put_above, fld_put_below])
theorem rreset : ∀ a, Statement (.rreset a) := fun _ => inDriver rfl (fun _ => rfl) (by
  rintro w ⟨⟩; simp [candidateDriver, decodeMajor1B, fld_put_below])
theorem ssset : ∀ a b, Statement (.ssset a b) := fun _ _ => inDriver rfl (fun _ => rfl) (by
  rintro w ⟨⟩; simp [candidateDriver, decodeMajor1B, fld_put_above, fld_put_below])
theorem xshape : ∀ a b, Statement (.xshape a b) := fun _ _ => inDriver rfl (fun _ => rfl) (by
  rintro w ⟨⟩; simp [candidateDriver, decodeMajor1C, fld_put_above, fld_put_below])
theorem xcopy : ∀ a b c, Statement (.xcopy a b c) := fun _ _ _ => inDriver rfl (fun _ => rfl) (by
  rintro w ⟨⟩; simp [candidateDriver, decodeMajor1C, fld_put_above, fld_put_below])
theorem xgather : ∀ a b c d, Statement (.xgather a b c d) := fun _ _ _ _ => inDriver rfl (fun _ => rfl) (by
  rintro w ⟨⟩; simp [candidateDriver, decodeMajor1C, fld_put_above, fld_put_below])
theorem xscatter : ∀ a b c d, Statement (.xscatter a b c d) := fun _ _ _ _ => inDriver rfl (fun _ => rfl) (by
  rintro w ⟨⟩; simp [candidateDriver, decodeMajor1C, fld_put_above, fld_put_below])
theorem xpin : ∀ a b c d e, Statement (.xpin a b c d e) := fun _ _ _ _ _ => inDriver rfl (fun _ => rfl) (by
  rintro w ⟨⟩; simp [candidateDriver, decodeMajor1C, fld_put_above, fld_put_below])
theorem xunpin : ∀ a b, Statement (.xunpin a b) := fun _ _ => inDriver rfl (fun _ => rfl) (by
  rintro w ⟨⟩; simp [candidateDriver, decodeMajor1C, fld_put_above, fld_put_below])
theorem coll : ∀ a b, Statement (.coll a b) := fun _ _ => inDriver rfl (fun _ => rfl) (by
  rintro w ⟨⟩; simp [candidateDriver, decodeMajor1D, fld_put_above, fld_put_below])
theorem lease : ∀ a, Statement (.lease a) := fun _ => inDriver rfl (fun _ => rfl) (by
  rintro w ⟨⟩; simp [candidateDriver, decodeMajor1E, fld_put_below])
theorem release : ∀ a, Statement (.release a) := fun _ => inDriver rfl (fun _ => rfl) (by
  rintro w ⟨⟩; simp [candidateDriver, decodeMajor1E, fld_put_below])
theorem lquery : ∀ a b, Statement (.lquery a b) := fun _ _ => inDriver rfl (fun _ => rfl) (by
  rintro w ⟨⟩; simp [candidateDriver, decodeMajor1E, fld_put_above, fld_put_below])
theorem ilmask : ∀ a b c, Statement (.ilmask a b c) := fun _ _ _ => inDriver rfl (fun _ => rfl) (by
  rintro w ⟨⟩; simp [candidateDriver, decodeMajor1F, fld_put_above, fld_put_below])
theorem ilsamp : ∀ a b c, Statement (.ilsamp a b c) := fun _ _ _ => inDriver rfl (fun _ => rfl) (by
  rintro w ⟨⟩; simp [candidateDriver, decodeMajor1F, fld_put_above, fld_put_below])
theorem iladv : ∀ a b c, Statement (.iladv a b c) := fun _ _ _ => inDriver rfl (fun _ => rfl) (by
  rintro w ⟨⟩; simp [candidateDriver, decodeMajor1F, fld_put_above, fld_put_below])
theorem ilload : ∀ a b c, Statement (.ilload a b c) := fun _ _ _ => inDriver rfl (fun _ => rfl) (by
  rintro w ⟨⟩; simp [candidateDriver, decodeMajor1F, fld_put_above, fld_put_below])
theorem ilsave : ∀ a b c, Statement (.ilsave a b c) := fun _ _ _ => inDriver rfl (fun _ => rfl) (by
  rintro w ⟨⟩; simp [candidateDriver, decodeMajor1F, fld_put_above, fld_put_below])
theorem srtopk : ∀ a b c, Statement (.srtopk a b c) := fun _ _ _ => inDriver rfl (fun _ => rfl) (by
  rintro w ⟨⟩; simp [candidateDriver, decodeMajor1F, fld_put_above, fld_put_below])
theorem srsort : ∀ a b c, Statement (.srsort a b c) := fun _ _ _ => inDriver rfl (fun _ => rfl) (by
  rintro w ⟨⟩; simp [candidateDriver, decodeMajor1F, fld_put_above, fld_put_below])
theorem infblk : ∀ a b c, Statement (.infblk a b c) := fun _ _ _ => inDriver rfl (fun _ => rfl) (by
  rintro w ⟨⟩; simp [candidateDriver, decodeMajor1F, fld_put_above, fld_put_below])
theorem shgath : ∀ a b c, Statement (.shgath a b c) := fun _ _ _ => inDriver rfl (fun _ => rfl) (by
  rintro w ⟨⟩; simp [candidateDriver, decodeMajor1F, fld_put_above, fld_put_below])
theorem shscat : ∀ a b c, Statement (.shscat a b c) := fun _ _ _ => inDriver rfl (fun _ => rfl) (by
  rintro w ⟨⟩; simp [candidateDriver, decodeMajor1F, fld_put_above, fld_put_below])
theorem shpack : ∀ a b c, Statement (.shpack a b c) := fun _ _ _ => inDriver rfl (fun _ => rfl) (by
  rintro w ⟨⟩; simp [candidateDriver, decodeMajor1F, fld_put_above, fld_put_below])
theorem rwmax : ∀ a b, Statement (.rwmax a b) := fun _ _ => inDriver rfl (fun _ => rfl) (by
  rintro w ⟨⟩; simp [candidateDriver, decodeMajor20, fld_put_above, fld_put_below])
theorem rwexs : ∀ a b, Statement (.rwexs a b) := fun _ _ => inDriver rfl (fun _ => rfl) (by
  rintro w ⟨⟩; simp [candidateDriver, decodeMajor20, fld_put_above, fld_put_below])
theorem rwscl : ∀ a b, Statement (.rwscl a b) := fun _ _ => inDriver rfl (fun _ => rfl) (by
  rintro w ⟨⟩; simp [candidateDriver, decodeMajor20, fld_put_above, fld_put_below])
theorem rwnorm : ∀ a b, Statement (.rwnorm a b) := fun _ _ => inDriver rfl (fun _ => rfl) (by
  rintro w ⟨⟩; simp [candidateDriver, decodeMajor20, fld_put_above, fld_put_below])
theorem trap : ∀ a, Statement (.trap a) := fun _ => inDriver rfl (fun _ => rfl) (by
  rintro w ⟨⟩; simp [candidateDriver, decodeMajor22, fld_put_below])
theorem csrrd : ∀ a b, Statement (.csrrd a b) := fun _ _ => inDriver rfl (fun _ => rfl) (by
  rintro w ⟨⟩; simp [candidateDriver, decodeMajor22, fld_put_above, fld_put_below])
theorem csrwr : ∀ a b, Statement (.csrwr a b) := fun _ _ => inDriver rfl (fun _ => rfl) (by
  rintro w ⟨⟩; simp [candidateDriver, decodeMajor22, fld_put_above, fld_put_below])
theorem csrset : ∀ a b, Statement (.csrset a b) := fun _ _ => inDriver rfl (fun _ => rfl) (by
  rintro w ⟨⟩; simp [candidateDriver, decodeMajor22, fld_put_above, fld_put_below])
theorem csrclr : ∀ a b, Statement (.csrclr a b) := fun _ _ => inDriver rfl (fun _ => rfl) (by
  rintro w ⟨⟩; simp [candidateDriver, decodeMajor22, fld_put_above, fld_put_below])
theorem tlbinv : ∀ a b, Statement (.tlbinv a b) := fun _ _ => inDriver rfl (fun _ => rfl) (by
  rintro w ⟨⟩; simp [candidateDriver, decodeMajor22, fld_put_above, fld_put_below])
theorem idle : ∀ a b, Statement (.idle a b) := fun _ _ => inEvery rfl rfl (by
  rintro w ⟨⟩ e; cases e <;>
    simp [candidate, candidateLoad, candidateMatrix, candidateVector, candidateStore, candidateCommon, fld_put_above,
      fld_put_below])
theorem eloop : ∀ a b c, Statement (.eloop a b c) := fun _ _ _ => inEvery rfl rfl (by
  rintro w ⟨⟩ e; cases e <;>
    simp [candidate, candidateLoad, candidateMatrix, candidateVector, candidateStore, candidateCommon, fld_put_above,
      fld_put_below])
theorem tkpush : ∀ a b c, Statement (.tkpush a b c) := fun _ _ _ => inEvery rfl rfl (by
  rintro w ⟨⟩ e; cases e <;>
    simp [candidate, candidateLoad, candidateMatrix, candidateVector, candidateStore, candidateCommon, fld_put_above,
      fld_put_below])
theorem notify : ∀ a b, Statement (.notify a b) := fun _ _ => inEvery rfl rfl (by
  rintro w ⟨⟩ e; cases e <;>
    simp [candidate, candidateLoad, candidateMatrix, candidateVector, candidateStore, candidateCommon, fld_put_above,
      fld_put_below])
theorem mlds : ∀ a b c d e, Statement (.mlds a b c d e) := fun _ _ _ _ _ => inEngine .matrix rfl (by
  rintro w ⟨⟩; simp [candidate, candidateMatrix, fld_put_above, fld_put_below])
theorem mprom : ∀ a b c d, Statement (.mprom a b c d) := fun _ _ _ _ => inEngine .matrix rfl (by
  rintro w ⟨⟩; simp [candidate, candidateMatrix, fld_put_above, fld_put_below])
theorem mmul : ∀ a b c d e, Statement (.mmul a b c d e) := fun _ _ _ _ _ => inEngine .matrix rfl (by
  rintro w ⟨⟩; simp [candidate, candidateMatrix, fld_put_above, fld_put_below])
theorem mmula : ∀ a b c d e, Statement (.mmula a b c d e) := fun _ _ _ _ _ => inEngine .matrix rfl (by
  rintro w ⟨⟩; simp [candidate, candidateMatrix, fld_put_above, fld_put_below])
theorem maff : ∀ a b c d, Statement (.maff a b c d) := fun _ _ _ _ => inEngine .matrix rfl (by
  rintro w ⟨⟩; simp [candidate, candidateMatrix, fld_put_above, fld_put_below])
theorem mzero : ∀ a b c, Statement (.mzero a b c) := fun _ _ _ => inEngine .matrix rfl (by
  rintro w ⟨⟩; simp [candidate, candidateMatrix, fld_put_above, fld_put_below])
theorem mcopy : ∀ a b c d, Statement (.mcopy a b c d) := fun _ _ _ _ => inEngine .matrix rfl (by
  rintro w ⟨⟩; simp [candidate, candidateMatrix, fld_put_above, fld_put_below])
theorem miter : ∀ a b c d e f, Statement (.miter a b c d e f) := fun _ _ _ _ _ _ => inEngine .matrix rfl (by
  rintro w ⟨⟩; simp [candidate, candidateMatrix, fld_put_above, fld_put_below])
theorem mdrainQueue : ∀ a b c d, Statement (.mdrainQueue a b c d) := fun _ _ _ _ => inEngine .matrix rfl (by
  rintro w ⟨⟩; simp [candidate, candidateMatrix, fld_put_above, fld_put_below])
theorem mdrainRing : ∀ a b c d, Statement (.mdrainRing a b c d) := fun _ _ _ _ => inEngine .matrix rfl (by
  rintro w ⟨⟩; simp [candidate, candidateMatrix, fld_put_above, fld_put_below])
theorem mfill : ∀ a b c d e, Statement (.mfill a b c d e) := fun _ _ _ _ _ => inEngine .matrix rfl (by
  rintro w ⟨⟩; simp [candidate, candidateMatrix, fld_put_above, fld_put_below])
theorem mmark : ∀ a b c, Statement (.mmark a b c) := fun _ _ _ => inEngine .matrix rfl (by
  rintro w ⟨⟩; simp [candidate, candidateMatrix, fld_put_above, fld_put_below])
theorem vadd : ∀ a b c d e f g, Statement (.vadd a b c d e f g) := fun _ _ _ _ _ _ _ => inEngine .vector rfl (by
  rintro w ⟨⟩; simp [candidate, candidateVector, fld_put_above, fld_put_below])
theorem vsub : ∀ a b c d e f g, Statement (.vsub a b c d e f g) := fun _ _ _ _ _ _ _ => inEngine .vector rfl (by
  rintro w ⟨⟩; simp [candidate, candidateVector, fld_put_above, fld_put_below])
theorem vmul : ∀ a b c d e f g, Statement (.vmul a b c d e f g) := fun _ _ _ _ _ _ _ => inEngine .vector rfl (by
  rintro w ⟨⟩; simp [candidate, candidateVector, fld_put_above, fld_put_below])
theorem vmulz : ∀ a b c d e f g, Statement (.vmulz a b c d e f g) := fun _ _ _ _ _ _ _ => inEngine .vector rfl (by
  rintro w ⟨⟩; simp [candidate, candidateVector, fld_put_above, fld_put_below])
theorem vfma : ∀ a b c d e f g, Statement (.vfma a b c d e f g) := fun _ _ _ _ _ _ _ => inEngine .vector rfl (by
  rintro w ⟨⟩; simp [candidate, candidateVector, fld_put_above, fld_put_below])
theorem vfms : ∀ a b c d e f g, Statement (.vfms a b c d e f g) := fun _ _ _ _ _ _ _ => inEngine .vector rfl (by
  rintro w ⟨⟩; simp [candidate, candidateVector, fld_put_above, fld_put_below])
theorem vmin : ∀ a b c d e f g, Statement (.vmin a b c d e f g) := fun _ _ _ _ _ _ _ => inEngine .vector rfl (by
  rintro w ⟨⟩; simp [candidate, candidateVector, fld_put_above, fld_put_below])
theorem vmax : ∀ a b c d e f g, Statement (.vmax a b c d e f g) := fun _ _ _ _ _ _ _ => inEngine .vector rfl (by
  rintro w ⟨⟩; simp [candidate, candidateVector, fld_put_above, fld_put_below])
theorem vexp2 : ∀ a b c d e f, Statement (.vexp2 a b c d e f) := fun _ _ _ _ _ _ => inEngine .vector rfl (by
  rintro w ⟨⟩; simp [candidate, candidateVector, fld_put_above, fld_put_below])
theorem vlog2 : ∀ a b c d e f, Statement (.vlog2 a b c d e f) := fun _ _ _ _ _ _ => inEngine .vector rfl (by
  rintro w ⟨⟩; simp [candidate, candidateVector, fld_put_above, fld_put_below])
theorem vrcp : ∀ a b c d e f, Statement (.vrcp a b c d e f) := fun _ _ _ _ _ _ => inEngine .vector rfl (by
  rintro w ⟨⟩; simp [candidate, candidateVector, fld_put_above, fld_put_below])
theorem vrsq : ∀ a b c d e f, Statement (.vrsq a b c d e f) := fun _ _ _ _ _ _ => inEngine .vector rfl (by
  rintro w ⟨⟩; simp [candidate, candidateVector, fld_put_above, fld_put_below])
theorem vtanh : ∀ a b c d e f, Statement (.vtanh a b c d e f) := fun _ _ _ _ _ _ => inEngine .vector rfl (by
  rintro w ⟨⟩; simp [candidate, candidateVector, fld_put_above, fld_put_below])
theorem vscl : ∀ a b c d e, Statement (.vscl a b c d e) := fun _ _ _ _ _ => inEngine .vector rfl (by
  rintro w ⟨⟩; simp [candidate, candidateVector, fld_put_above, fld_put_below])
theorem vabs : ∀ a b c d e f, Statement (.vabs a b c d e f) := fun _ _ _ _ _ _ => inEngine .vector rfl (by
  rintro w ⟨⟩; simp [candidate, candidateVector, fld_put_above, fld_put_below])
theorem viadd : ∀ a b c d e f g, Statement (.viadd a b c d e f g) := fun _ _ _ _ _ _ _ => inEngine .vector rfl (by
  rintro w ⟨⟩; simp [candidate, candidateVector, fld_put_above, fld_put_below])
theorem visub : ∀ a b c d e f g, Statement (.visub a b c d e f g) := fun _ _ _ _ _ _ _ => inEngine .vector rfl (by
  rintro w ⟨⟩; simp [candidate, candidateVector, fld_put_above, fld_put_below])
theorem vimul : ∀ a b c d e f g, Statement (.vimul a b c d e f g) := fun _ _ _ _ _ _ _ => inEngine .vector rfl (by
  rintro w ⟨⟩; simp [candidate, candidateVector, fld_put_above, fld_put_below])
theorem vand : ∀ a b c d e f g, Statement (.vand a b c d e f g) := fun _ _ _ _ _ _ _ => inEngine .vector rfl (by
  rintro w ⟨⟩; simp [candidate, candidateVector, fld_put_above, fld_put_below])
theorem vor : ∀ a b c d e f g, Statement (.vor a b c d e f g) := fun _ _ _ _ _ _ _ => inEngine .vector rfl (by
  rintro w ⟨⟩; simp [candidate, candidateVector, fld_put_above, fld_put_below])
theorem vxor : ∀ a b c d e f g, Statement (.vxor a b c d e f g) := fun _ _ _ _ _ _ _ => inEngine .vector rfl (by
  rintro w ⟨⟩; simp [candidate, candidateVector, fld_put_above, fld_put_below])
theorem vshl : ∀ a b c d e f g, Statement (.vshl a b c d e f g) := fun _ _ _ _ _ _ _ => inEngine .vector rfl (by
  rintro w ⟨⟩; simp [candidate, candidateVector, fld_put_above, fld_put_below])
theorem vshr : ∀ a b c d e f g, Statement (.vshr a b c d e f g) := fun _ _ _ _ _ _ _ => inEngine .vector rfl (by
  rintro w ⟨⟩; simp [candidate, candidateVector, fld_put_above, fld_put_below])
theorem vsra : ∀ a b c d e f g, Statement (.vsra a b c d e f g) := fun _ _ _ _ _ _ _ => inEngine .vector rfl (by
  rintro w ⟨⟩; simp [candidate, candidateVector, fld_put_above, fld_put_below])
theorem vimin : ∀ a b c d e f g, Statement (.vimin a b c d e f g) := fun _ _ _ _ _ _ _ => inEngine .vector rfl (by
  rintro w ⟨⟩; simp [candidate, candidateVector, fld_put_above, fld_put_below])
theorem vimax : ∀ a b c d e f g, Statement (.vimax a b c d e f g) := fun _ _ _ _ _ _ _ => inEngine .vector rfl (by
  rintro w ⟨⟩; simp [candidate, candidateVector, fld_put_above, fld_put_below])
theorem vcmp : ∀ a b c d e f g, Statement (.vcmp a b c d e f g) := fun _ _ _ _ _ _ _ => inEngine .vector rfl (by
  rintro w ⟨⟩; simp [candidate, candidateVector, fld_put_above, fld_put_below])
theorem vsel : ∀ a b c d e f g, Statement (.vsel a b c d e f g) := fun _ _ _ _ _ _ _ => inEngine .vector rfl (by
  rintro w ⟨⟩; simp [candidate, candidateVector, fld_put_above, fld_put_below])
theorem vmlog : ∀ a b c d e f, Statement (.vmlog a b c d e f) := fun _ _ _ _ _ _ => inEngine .vector rfl (by
  rintro w ⟨⟩; simp [candidate, candidateVector, fld_put_above, fld_put_below])
theorem vcvt : ∀ a b c d e f, Statement (.vcvt a b c d e f) := fun _ _ _ _ _ _ => inEngine .vector rfl (by
  rintro w ⟨⟩; simp [candidate, candidateVector, fld_put_above, fld_put_below])
theorem vqnt : ∀ a b c d e f g h, Statement (.vqnt a b c d e f g h) := fun _ _ _ _ _ _ _ _ => inEngine .vector rfl (by
  rintro w ⟨⟩; simp [candidate, candidateVector, fld_put_above, fld_put_below])
theorem vdqnt : ∀ a b c d e f g, Statement (.vdqnt a b c d e f g) := fun _ _ _ _ _ _ _ => inEngine .vector rfl (by
  rintro w ⟨⟩; simp [candidate, candidateVector, fld_put_above, fld_put_below])
theorem vhad : ∀ a b c d e f g, Statement (.vhad a b c d e f g) := fun _ _ _ _ _ _ _ => inEngine .vector rfl (by
  rintro w ⟨⟩; simp [candidate, candidateVector, fld_put_above, fld_put_below])
theorem vrotr : ∀ a b c d e, Statement (.vrotr a b c d e) := fun _ _ _ _ _ => inEngine .vector rfl (by
  rintro w ⟨⟩; simp [candidate, candidateVector, fld_put_above, fld_put_below])
theorem vrotc : ∀ a b c d e, Statement (.vrotc a b c d e) := fun _ _ _ _ _ => inEngine .vector rfl (by
  rintro w ⟨⟩; simp [candidate, candidateVector, fld_put_above, fld_put_below])
theorem vbcr : ∀ a b c d e, Statement (.vbcr a b c d e) := fun _ _ _ _ _ => inEngine .vector rfl (by
  rintro w ⟨⟩; simp [candidate, candidateVector, fld_put_above, fld_put_below])
theorem vbcc : ∀ a b c d e, Statement (.vbcc a b c d e) := fun _ _ _ _ _ => inEngine .vector rfl (by
  rintro w ⟨⟩; simp [candidate, candidateVector, fld_put_above, fld_put_below])
theorem vredr : ∀ a b c d e, Statement (.vredr a b c d e) := fun _ _ _ _ _ => inEngine .vector rfl (by
  rintro w ⟨⟩; simp [candidate, candidateVector, fld_put_above, fld_put_below])
theorem vredc : ∀ a b c d e, Statement (.vredc a b c d e) := fun _ _ _ _ _ => inEngine .vector rfl (by
  rintro w ⟨⟩; simp [candidate, candidateVector, fld_put_above, fld_put_below])
theorem vmov : ∀ a b c d e f, Statement (.vmov a b c d e f) := fun _ _ _ _ _ _ => inEngine .vector rfl (by
  rintro w ⟨⟩; simp [candidate, candidateVector, fld_put_above, fld_put_below])
theorem vldi : ∀ a b c d, Statement (.vldi a b c d) := fun _ _ _ _ => inEngine .vector rfl (by
  rintro w ⟨⟩; simp [candidate, candidateVector, fld_put_above, fld_put_below])
theorem viota : ∀ a b c d, Statement (.viota a b c d) := fun _ _ _ _ => inEngine .vector rfl (by
  rintro w ⟨⟩; simp [candidate, candidateVector, fld_put_above, fld_put_below])
theorem vloopb : ∀ a b c d e, Statement (.vloopb a b c d e) := fun _ _ _ _ _ => inEngine .vector rfl (by
  rintro w ⟨⟩; simp [candidate, candidateVector, fld_put_above, fld_put_below])
theorem vloope : ∀ a b, Statement (.vloope a b) := fun _ _ => inEngine .vector rfl (by
  rintro w ⟨⟩; simp [candidate, candidateVector, fld_put_above, fld_put_below])
theorem vexit : ∀ a b c, Statement (.vexit a b c) := fun _ _ _ => inEngine .vector rfl (by
  rintro w ⟨⟩; simp [candidate, candidateVector, fld_put_above, fld_put_below])
theorem vflag : ∀ a b, Statement (.vflag a b) := fun _ _ => inEngine .vector rfl (by
  rintro w ⟨⟩; simp [candidate, candidateVector, fld_put_above, fld_put_below])
theorem ldring : ∀ a b c d e f g, Statement (.ldring a b c d e f g) := fun _ _ _ _ _ _ _ => inEngine .load rfl (by
  rintro w ⟨⟩; simp [candidate, candidateLoad, fld_put_above, fld_put_below])
theorem ldq : ∀ a b c d e f g h, Statement (.ldq a b c d e f g h) := fun _ _ _ _ _ _ _ _ => inEngine .load rfl (by
  rintro w ⟨⟩; simp [candidate, candidateLoad, fld_put_above, fld_put_below])
theorem stq : ∀ a b c d e f g h, Statement (.stq a b c d e f g h) := fun _ _ _ _ _ _ _ _ => inEngine .store rfl (by
  rintro w ⟨⟩; simp [candidate, candidateStore, fld_put_above, fld_put_below])
theorem string : ∀ a b c d e f g h i, Statement (.string a b c d e f g h i) := fun _ _ _ _ _ _ _ _ _ => inEngine .store rfl (by
  rintro w ⟨⟩; simp [candidate, candidateStore, fld_put_above, fld_put_below])
theorem supd : ∀ a b c d e f g h, Statement (.supd a b c d e f g h) := fun _ _ _ _ _ _ _ _ => inEngine .store rfl (by
  rintro w ⟨⟩; simp [candidate, candidateStore, fld_put_above, fld_put_below])
theorem sqnt : ∀ a b c d e f g h i, Statement (.sqnt a b c d e f g h i) := fun _ _ _ _ _ _ _ _ _ => inEngine .store rfl (by
  rintro w ⟨⟩; simp [candidate, candidateStore, fld_put_above, fld_put_below])
theorem driverWriteEffect : ∀ a, Statement (.driverWriteEffect a) := fun _ => noWord rfl
theorem guardCompare : ∀ a b, Statement (.guardCompare a b) := fun _ _ => noWord rfl
theorem engineStart : ∀ a, Statement (.engineStart a) := fun _ => noWord rfl
theorem ringSlotRelease : ∀ a b, Statement (.ringSlotRelease a b) := fun _ _ => noWord rfl
theorem matrixUnitVisible : ∀ a b, Statement (.matrixUnitVisible a b) := fun _ _ => noWord rfl
theorem tileWriteVisible : ∀ a, Statement (.tileWriteVisible a) := fun _ => noWord rfl
theorem vectorWriteVisible : ∀ a, Statement (.vectorWriteVisible a) := fun _ => noWord rfl
theorem mdrainEntryPush : ∀ a b c, Statement (.mdrainEntryPush a b c) := fun _ _ _ => noWord rfl
theorem mdrainSlotPush : ∀ a, Statement (.mdrainSlotPush a) := fun _ => noWord rfl
theorem mdrainComplete : ∀ a, Statement (.mdrainComplete a) := fun _ => noWord rfl
theorem beatRead : ∀ a b c, Statement (.beatRead a b c) := fun _ _ _ => noWord rfl
theorem beatWrite : ∀ a b c, Statement (.beatWrite a b c) := fun _ _ _ => noWord rfl
theorem ldringSlotPush : ∀ a, Statement (.ldringSlotPush a) := fun _ => noWord rfl
theorem ldqEntryPush : ∀ a, Statement (.ldqEntryPush a) := fun _ => noWord rfl
theorem ldsResultWrite : ∀ a b c, Statement (.ldsResultWrite a b c) := fun _ _ _ => noWord rfl
theorem stsPerform : ∀ a b c, Statement (.stsPerform a b c) := fun _ _ _ => noWord rfl
theorem descriptorGroupRead : ∀ a b c d, Statement (.descriptorGroupRead a b c d) := fun _ _ _ _ => noWord rfl
theorem ldgPerform : ∀ a, Statement (.ldgPerform a) := fun _ => noWord rfl
theorem amoPerform : ∀ a, Statement (.amoPerform a) := fun _ => noWord rfl
theorem loadResultWrite : ∀ a b, Statement (.loadResultWrite a b) := fun _ _ => noWord rfl
theorem interruptTaken : ∀ a, Statement (.interruptTaken a) := fun _ => noWord rfl
theorem copyUnitRead : ∀ a, Statement (.copyUnitRead a) := fun _ => noWord rfl
theorem copyUnitWrite : ∀ a, Statement (.copyUnitWrite a) := fun _ => noWord rfl
theorem warmupEnd : ∀ a, Statement (.warmupEnd a) := fun _ => noWord rfl
theorem boostExpiry : ∀ a, Statement (.boostExpiry a) := fun _ => noWord rfl
theorem leasedCommandStart : ∀ a, Statement (.leasedCommandStart a) := fun _ => noWord rfl
theorem leasedCommandComplete : ∀ a, Statement (.leasedCommandComplete a) := fun _ => noWord rfl
theorem rowResultPerform : ∀ a b, Statement (.rowResultPerform a b) := fun _ _ => noWord rfl
theorem windowOverrun : ∀ a b c, Statement (.windowOverrun a b c) := fun _ _ _ => noWord rfl
theorem selfTest : ∀ a b c, Statement (.selfTest a b c) := fun _ _ _ => noWord rfl
theorem graphkickSubmit : ∀ a, Statement (.graphkickSubmit a) := fun _ => noWord rfl
theorem graphkickRelease : ∀ a, Statement (.graphkickRelease a) := fun _ => noWord rfl
theorem graphkickCancel : ∀ a, Statement (.graphkickCancel a) := fun _ => noWord rfl
theorem messagePost : ∀ a, Statement (.messagePost a) := fun _ => noWord rfl
theorem dramAct : ∀ a b, Statement (.dramAct a b) := fun _ _ => noWord rfl
theorem dramPre : ∀ a, Statement (.dramPre a) := fun _ => noWord rfl
theorem dramRefpb : ∀ a, Statement (.dramRefpb a) := fun _ => noWord rfl
theorem dramWin : ∀ a b, Statement (.dramWin a b) := fun _ _ => noWord rfl
theorem windowSlot : ∀ a b, Statement (.windowSlot a b) := fun _ _ => noWord rfl
theorem fabricJoin : ∀ a b c, Statement (.fabricJoin a b c) := fun _ _ _ => noWord rfl
theorem ptpAnnounce : ∀ a, Statement (.ptpAnnounce a) := fun _ => noWord rfl
theorem ptpSync : ∀ a, Statement (.ptpSync a) := fun _ => noWord rfl
theorem ptpDelayResp : ∀ a, Statement (.ptpDelayResp a) := fun _ => noWord rfl
theorem offsetMeasurement : ∀ a, Statement (.offsetMeasurement a) := fun _ => noWord rfl
theorem fabricSlot : ∀ a b, Statement (.fabricSlot a b) := fun _ _ => noWord rfl
theorem contributionFlit : ∀ a b c, Statement (.contributionFlit a b c) := fun _ _ _ => noWord rfl
theorem reducedResultFlit : ∀ a b c, Statement (.reducedResultFlit a b c) := fun _ _ _ => noWord rfl
theorem gatheredDataFlit : ∀ a b c, Statement (.gatheredDataFlit a b c) := fun _ _ _ => noWord rfl
theorem flagWordFlit : ∀ a b c, Statement (.flagWordFlit a b c) := fun _ _ _ => noWord rfl
theorem holdNotice : ∀ a, Statement (.holdNotice a) := fun _ => noWord rfl
theorem stopNotice : ∀ a, Statement (.stopNotice a) := fun _ => noWord rfl
theorem walkerMessage : ∀ a b c, Statement (.walkerMessage a b c) := fun _ _ _ => noWord rfl
theorem collectiveReduction : ∀ a, Statement (.collectiveReduction a) := fun _ => noWord rfl
theorem hostMemoryRead : ∀ a b, Statement (.hostMemoryRead a b) := fun _ _ => noWord rfl
theorem hostMemoryWrite : ∀ a b, Statement (.hostMemoryWrite a b) := fun _ _ => noWord rfl
theorem gbaseWrite : ∀ a, Statement (.gbaseWrite a) := fun _ => noWord rfl
theorem registerWrite : ∀ a b, Statement (.registerWrite a b) := fun _ _ => noWord rfl
theorem attnonceWrite : ∀ a b, Statement (.attnonceWrite a b) := fun _ _ => noWord rfl
theorem attaddrWrite : ∀ a, Statement (.attaddrWrite a) := fun _ => noWord rfl
theorem pqctlReq : ∀ a, Statement (.pqctlReq a) := fun _ => noWord rfl
theorem pclkWrite : ∀ a, Statement (.pclkWrite a) := fun _ => noWord rfl
theorem prailWrite : ∀ a, Statement (.prailWrite a) := fun _ => noWord rfl
theorem pretbWrite : ∀ a, Statement (.pretbWrite a) := fun _ => noWord rfl
theorem pgrantWrite : ∀ a, Statement (.pgrantWrite a) := fun _ => noWord rfl
theorem sbslewWrite : ∀ a b, Statement (.sbslewWrite a b) := fun _ _ => noWord rfl
theorem sbcapWrite : ∀ a, Statement (.sbcapWrite a) := fun _ => noWord rfl
theorem imageVerification : ∀ a, Statement (.imageVerification a) := fun _ => noWord rfl
theorem hbmTraining : ∀ a, Statement (.hbmTraining a) := fun _ => noWord rfl
theorem powerOnSelfTest : ∀ a, Statement (.powerOnSelfTest a) := fun _ => noWord rfl
theorem illegalInstruction : ∀ a, Statement (.illegalInstruction a) := fun _ => noWord rfl
theorem illegalMicroOrder : ∀ a, Statement (.illegalMicroOrder a) := fun _ => noWord rfl
theorem ret : Statement .ret := inDriver rfl (fun _ => rfl) (by
  rintro w ⟨⟩; simp [candidateDriver, decodeMajor0F])
theorem mark : Statement .mark := inDriver rfl (fun _ => rfl) (by
  rintro w ⟨⟩; simp [candidateDriver, decodeMajor16])
theorem point : Statement .point := inDriver rfl (fun _ => rfl) (by
  rintro w ⟨⟩; simp [candidateDriver, decodeMajor21])
theorem depart : Statement .depart := inDriver rfl (fun _ => rfl) (by
  rintro w ⟨⟩; simp [candidateDriver, decodeMajor21])
theorem exit : Statement .exit := inDriver rfl (fun _ => rfl) (by
  rintro w ⟨⟩; simp [candidateDriver, decodeMajor21])
theorem nop : Statement .nop := inDriver rfl (fun _ => rfl) (by
  rintro w ⟨⟩; simp [candidateDriver, decodeMajor22])
theorem eret : Statement .eret := inDriver rfl (fun _ => rfl) (by
  rintro w ⟨⟩; simp [candidateDriver, decodeMajor22])
theorem halt : Statement .halt := inDriver rfl (fun _ => rfl) (by
  rintro w ⟨⟩; simp [candidateDriver, decodeMajor22])
theorem wfi : Statement .wfi := inDriver rfl (fun _ => rfl) (by
  rintro w ⟨⟩; simp [candidateDriver, decodeMajor22])
theorem stationClockTick : Statement .stationClockTick := noWord rfl
theorem combinerFire : Statement .combinerFire := noWord rfl
theorem bankClaimGrant : Statement .bankClaimGrant := noWord rfl
theorem storeArrival : Statement .storeArrival := noWord rfl
theorem fenceComplete : Statement .fenceComplete := noWord rfl
theorem xfenceComplete : Statement .xfenceComplete := noWord rfl
theorem waitsExpiry : Statement .waitsExpiry := noWord rfl
theorem wfiWake : Statement .wfiWake := noWord rfl
theorem hostTierCopyWrite : Statement .hostTierCopyWrite := noWord rfl
theorem xpinComplete : Statement .xpinComplete := noWord rfl
theorem tlbinvComplete : Statement .tlbinvComplete := noWord rfl
theorem leaseGrant : Statement .leaseGrant := noWord rfl
theorem leaseWaitExpiry : Statement .leaseWaitExpiry := noWord rfl
theorem thermalTrip : Statement .thermalTrip := noWord rfl
theorem powerAlarm : Statement .powerAlarm := noWord rfl
theorem grantBoundary : Statement .grantBoundary := noWord rfl
theorem slewWindowCheck : Statement .slewWindowCheck := noWord rfl
theorem balancerWindow : Statement .balancerWindow := noWord rfl
theorem stopPulse : Statement .stopPulse := noWord rfl
theorem completionRecordWrite : Statement .completionRecordWrite := noWord rfl
theorem holdBegin : Statement .holdBegin := noWord rfl
theorem holdEnd : Statement .holdEnd := noWord rfl
theorem placementAttempt : Statement .placementAttempt := noWord rfl
theorem loadComplete : Statement .loadComplete := noWord rfl
theorem localDeparture : Statement .localDeparture := noWord rfl
theorem contextSave : Statement .contextSave := noWord rfl
theorem contextSaveComplete : Statement .contextSaveComplete := noWord rfl
theorem contextRestoreComplete : Statement .contextRestoreComplete := noWord rfl
theorem dramPrea : Statement .dramPrea := noWord rfl
theorem dramRefab : Statement .dramRefab := noWord rfl
theorem missingWindowTimeout : Statement .missingWindowTimeout := noWord rfl
theorem refreshDebtTick : Statement .refreshDebtTick := noWord rfl
theorem sequencerRefresh : Statement .sequencerRefresh := noWord rfl
theorem openIntervalCheck : Statement .openIntervalCheck := noWord rfl
theorem openWindowRequest : Statement .openWindowRequest := noWord rfl
theorem ptpDelayReq : Statement .ptpDelayReq := noWord rfl
theorem ptpFollowUp : Statement .ptpFollowUp := noWord rfl
theorem idleFlit : Statement .idleFlit := noWord rfl
theorem reservedFlitDrop : Statement .reservedFlitDrop := noWord rfl
theorem collectiveFinalWrite : Statement .collectiveFinalWrite := noWord rfl
theorem bucketSendTimeout : Statement .bucketSendTimeout := noWord rfl
theorem attestationGo : Statement .attestationGo := noWord rfl
theorem attctlErrClear : Statement .attctlErrClear := noWord rfl
theorem attestationReportWrite : Statement .attestationReportWrite := noWord rfl
theorem pqctlRsave : Statement .pqctlRsave := noWord rfl
theorem pqctlRrest : Statement .pqctlRrest := noWord rfl
theorem prstatWakeClear : Statement .prstatWakeClear := noWord rfl
theorem prstatSeqerrClear : Statement .prstatSeqerrClear := noWord rfl
theorem pwake : Statement .pwake := noWord rfl
theorem quiesceAck : Statement .quiesceAck := noWord rfl
theorem railOffComplete : Statement .railOffComplete := noWord rfl
theorem railOnComplete : Statement .railOnComplete := noWord rfl
theorem retentionSaveComplete : Statement .retentionSaveComplete := noWord rfl
theorem retentionRestoreComplete : Statement .retentionRestoreComplete := noWord rfl
theorem deviceReset : Statement .deviceReset := noWord rfl
theorem lossOfLock : Statement .lossOfLock := noWord rfl

end Sys2Proof.Laws.Encoding
end

