-- ==== Sys2Proof/Laws/Store.lean ====
section
/-! SUPPORT. Cells and memory: every operation keeps the one canonical form, and what a read gives after a write. -/

namespace Sys2Proof

variable {w : Nat}

/-! ### The canonical form is kept -/

theorem wfFrom_weaken {m : Cells w} {lo lo' : Nat} (h : m.wfFrom lo = true) (hl : lo' ≤ lo) : m.wfFrom lo' = true := by
  cases m with
  | nil => rfl
  | cons p r =>
    obtain ⟨k, v⟩ := p
    simp only [BitVec.ofNat_eq_ofNat, Cells.wfFrom, Bool.and_eq_true, decide_eq_true_eq] at h ⊢
    exact ⟨⟨by omega, h.1.2⟩, h.2⟩

theorem wfFrom_above {m : Cells w} {lo a : Nat} (h : m.wfFrom lo = true) : (m.above a).wfFrom a = true := by
  induction m generalizing lo with
  | nil => rfl
  | cons p r ih =>
    obtain ⟨k, v⟩ := p
    simp only [BitVec.ofNat_eq_ofNat, Cells.wfFrom, Bool.and_eq_true, decide_eq_true_eq] at h
    by_cases hk : k < a
    · simp only [Cells.above, hk, if_true]; exact ih h.2
    · simp only [BitVec.ofNat_eq_ofNat, Cells.above, hk, if_false, Cells.wfFrom, Bool.and_eq_true, decide_eq_true_eq]
      exact ⟨⟨by omega, h.1.2⟩, h.2⟩

theorem wfFrom_set {m : Cells w} {lo a : Nat} (v : BitVec w) (h : m.wfFrom lo = true) (ha : lo ≤ a) :
    (m.set a v).wfFrom lo = true := by
  induction m generalizing lo with
  | nil => by_cases hv : v = 0#w <;> simp [Cells.set, Cells.wfFrom, hv, ha]
  | cons p r ih =>
    obtain ⟨k, x⟩ := p
    simp only [BitVec.ofNat_eq_ofNat, Cells.wfFrom, Bool.and_eq_true, decide_eq_true_eq] at h
    obtain ⟨⟨h1, h2⟩, h3⟩ := h
    by_cases hak : a < k
    · by_cases hv : v = 0#w
      · simp [Cells.set, hak, hv, Cells.wfFrom, h1, h2, h3]
      · simp only [BitVec.ofNat_eq_ofNat, Cells.set, hak, hv, if_true, if_false, Cells.wfFrom, Bool.and_eq_true, decide_eq_true_eq]
        exact ⟨⟨ha, hv⟩, ⟨⟨by omega, h2⟩, h3⟩⟩
    · by_cases he : a = k
      · by_cases hv : v = 0#w
        · simp only [BitVec.ofNat_eq_ofNat, Cells.set, he, hv, if_true, if_false, Nat.lt_irrefl]
          exact wfFrom_weaken (wfFrom_above h3) (by omega)
        · subst he
          simp only [BitVec.ofNat_eq_ofNat, Cells.set, hv, if_true, if_false, Nat.lt_irrefl, Cells.wfFrom, Bool.and_eq_true,
            decide_eq_true_eq]
          exact ⟨⟨h1, hv⟩, h3⟩
      · simp only [BitVec.ofNat_eq_ofNat, Cells.set, hak, he, if_false, Cells.wfFrom, Bool.and_eq_true, decide_eq_true_eq]
        exact ⟨⟨h1, h2⟩, ih h3 (by omega)⟩

/-- A write of one cell keeps the canonical form. -/
theorem wf_set (m : Cells w) (a : Nat) (v : BitVec w) (h : m.wf = true) : (m.set a v).wf = true :=
  wfFrom_set v h (Nat.zero_le a)

theorem wfFrom_dense (a : Nat) (vs : List (BitVec w)) {r : Cells w} (h : r.wfFrom (a + vs.length) = true) :
    (Cells.dense a vs ++ r).wfFrom a = true := by
  induction vs generalizing a with
  | nil => simpa [Cells.dense] using h
  | cons v t ih =>
    have h' : r.wfFrom (a + 1 + t.length) = true := by
      rw [List.length_cons] at h; rw [Nat.add_right_comm]; exact h
    by_cases hv : v = 0#w
    · simp only [BitVec.ofNat_eq_ofNat, Cells.dense, hv, if_true]; exact wfFrom_weaken (ih (a + 1) h') (by omega)
    · simp only [BitVec.ofNat_eq_ofNat, Cells.dense, hv, if_false, List.cons_append, Cells.wfFrom, Bool.and_eq_true, decide_eq_true_eq]
      exact ⟨⟨Nat.le_refl a, hv⟩, ih (a + 1) h'⟩

theorem wfFrom_below {m r : Cells w} {lo a : Nat} (h : m.wfFrom lo = true) (hr : r.wfFrom a = true) (hl : lo ≤ a) :
    (m.below a ++ r).wfFrom lo = true := by
  induction m generalizing lo with
  | nil => simpa [Cells.below] using wfFrom_weaken hr hl
  | cons p q ih =>
    obtain ⟨k, v⟩ := p
    simp only [BitVec.ofNat_eq_ofNat, Cells.wfFrom, Bool.and_eq_true, decide_eq_true_eq] at h
    by_cases hk : k < a
    · simp only [BitVec.ofNat_eq_ofNat, Cells.below, hk, if_true, List.cons_append, Cells.wfFrom, Bool.and_eq_true, decide_eq_true_eq]
      exact ⟨h.1, ih h.2 hk⟩
    · simp only [Cells.below, hk, if_false, List.nil_append]; exact wfFrom_weaken hr hl

/-- A write of consecutive cells keeps the canonical form. -/
theorem wf_setRange (m : Cells w) (a : Nat) (vs : List (BitVec w)) (h : m.wf = true) : (m.setRange a vs).wf = true :=
  wfFrom_below h (wfFrom_dense a vs (wfFrom_above h)) (Nat.zero_le a)

/-- Several writes, one after another, keep the canonical form. -/
theorem wf_setMany (m : Cells w) (vs : List (Nat × BitVec w)) (h : m.wf = true) : (m.setMany vs).wf = true := by
  unfold Cells.setMany
  induction vs generalizing m with
  | nil => exact h
  | cons p r ih => exact ih _ (wf_set m p.1 p.2 h)

/-- A write of little-endian bytes keeps the canonical form. -/
theorem wf_writeLE (m : Memory) (a n v : Nat) (h : m.wf = true) : Cells.wf (m.writeLE a n v) = true :=
  wf_setRange m a _ h

/-! ### What a read gives -/

/-- The first cell listed has a number of at least `a`, or none is listed. -/
def StartsFrom (a : Nat) (m : Cells w) : Prop := ∀ k v r, m = (k, v) :: r → a ≤ k

theorem get_lt {m : Cells w} {lo a : Nat} (h : StartsFrom lo m) (ha : a < lo) : m.get a = 0 := by
  cases m with
  | nil => rfl
  | cons p r =>
    obtain ⟨k, v⟩ := p
    have := h k v r rfl
    simp only [BitVec.ofNat_eq_ofNat, Cells.get, if_pos (show a < k by omega)]

theorem startsFrom_above (m : Cells w) (a : Nat) : StartsFrom a (m.above a) := by
  induction m with
  | nil => intro k v r h; cases h
  | cons p q ih =>
    obtain ⟨j, x⟩ := p
    by_cases hj : j < a
    · simpa only [Cells.above, hj, if_true] using ih
    · intro k v r h
      simp only [Cells.above, hj, if_false] at h
      cases h; omega

theorem startsFrom_dense (a : Nat) (vs : List (BitVec w)) {r : Cells w} (h : StartsFrom (a + vs.length) r) :
    StartsFrom a (Cells.dense a vs ++ r) := by
  induction vs generalizing a with
  | nil => simpa [Cells.dense] using h
  | cons v t ih =>
    have h' : StartsFrom (a + 1 + t.length) r := by
      rw [List.length_cons] at h; rw [Nat.add_right_comm]; exact h
    by_cases hv : v = 0#w
    · intro k x q hq
      simp only [BitVec.ofNat_eq_ofNat, Cells.dense, hv, if_true] at hq
      exact Nat.le_of_succ_le (ih (a + 1) h' k x q hq)
    · intro k x q hq
      simp only [BitVec.ofNat_eq_ofNat, Cells.dense, hv, if_false, List.cons_append, List.cons.injEq, Prod.mk.injEq] at hq
      exact Nat.le_of_eq hq.1.1

theorem get_above {m : Cells w} {a b : Nat} (hb : a ≤ b) : (m.above a).get b = m.get b := by
  induction m with
  | nil => rfl
  | cons p q ih =>
    obtain ⟨k, v⟩ := p
    by_cases hk : k < a
    · simp only [BitVec.ofNat_eq_ofNat, Cells.above, hk, if_true, ih, Cells.get]
      simp [show ¬ b < k by omega, show b ≠ k by omega]
    · simp [Cells.above, hk]

/-- A cell reads as it was written. -/
@[simp] theorem get_set_same (m : Cells w) (a : Nat) (v : BitVec w) : (m.set a v).get a = v := by
  induction m with
  | nil => by_cases hv : v = 0#w <;> simp [Cells.set, Cells.get, hv]
  | cons p r ih =>
    obtain ⟨k, x⟩ := p
    by_cases hak : a < k
    · by_cases hv : v = 0#w <;> simp [Cells.set, Cells.get, hak, hv]
    · by_cases he : a = k
      · by_cases hv : v = 0#w
        · subst he; simp only [BitVec.ofNat_eq_ofNat, Cells.set, hv, if_true, if_false, Nat.lt_irrefl]
          exact get_lt (startsFrom_above r (a + 1)) (by omega)
        · subst he; simp [Cells.set, Cells.get, hv]
      · simp only [BitVec.ofNat_eq_ofNat, Cells.set, Cells.get, hak, he, if_false]; exact ih

/-- A write leaves every other cell alone. -/
theorem get_set_other (m : Cells w) (a b : Nat) (v : BitVec w) (hb : b ≠ a) : (m.set a v).get b = m.get b := by
  induction m with
  | nil =>
    by_cases hv : v = 0#w
    · simp [Cells.set, hv]
    · by_cases h1 : b < a <;> simp [Cells.set, Cells.get, hv, h1, hb]
  | cons p r ih =>
    obtain ⟨k, x⟩ := p
    by_cases hak : a < k
    · by_cases hv : v = 0#w
      · simp [Cells.set, hak, hv]
      · by_cases h1 : b < a
        · simp [Cells.set, Cells.get, hak, hv, h1, show b < k by omega]
        · simp [Cells.set, Cells.get, hak, hv, h1, hb]
    · by_cases he : a = k
      · subst he
        by_cases hv : v = 0#w
        · simp only [BitVec.ofNat_eq_ofNat, Cells.set, hv, if_true, if_false, Nat.lt_irrefl, Cells.get, hb]
          by_cases h1 : b < a
          · simp only [h1, if_true]; exact get_lt (startsFrom_above r (a + 1)) (by omega)
          · simp only [h1, if_false]; exact get_above (by omega)
        · by_cases h1 : b < a <;> simp [Cells.set, Cells.get, hv, h1, hb]
      · simp only [BitVec.ofNat_eq_ofNat, Cells.set, Cells.get, hak, he, if_false, ih]

theorem get_set (m : Cells w) (a b : Nat) (v : BitVec w) : (m.set a v).get b = if b = a then v else m.get b := by
  by_cases hb : b = a
  · subst hb; simp
  · simp [hb, get_set_other m a b v hb]

theorem get_below_append {m r : Cells w} {a b : Nat} (hr : StartsFrom a r) :
    (m.below a ++ r).get b = if b < a then m.get b else r.get b := by
  induction m with
  | nil =>
    by_cases hb : b < a
    · simp only [BitVec.ofNat_eq_ofNat, Cells.below, List.nil_append, hb, if_true, Cells.get]; exact get_lt hr hb
    · simp [Cells.below, hb]
  | cons p q ih =>
    obtain ⟨k, v⟩ := p
    by_cases hk : k < a
    · simp only [BitVec.ofNat_eq_ofNat, Cells.below, hk, if_true, List.cons_append, Cells.get, ih]
      by_cases h1 : b < k
      · simp [h1, show b < a by omega]
      · by_cases h2 : b = k
        · simp [h2, hk]
        · simp [h1, h2]
    · simp only [Cells.below, hk, if_false, List.nil_append]
      by_cases hb : b < a
      · simp only [BitVec.ofNat_eq_ofNat, hb, if_true, Cells.get, if_pos (show b < k by omega)]; exact get_lt hr hb
      · simp [hb]

theorem get_dense (a b : Nat) (vs : List (BitVec w)) {r : Cells w} (h : StartsFrom (a + vs.length) r) (ha : a ≤ b) :
    (Cells.dense a vs ++ r).get b = if h : b - a < vs.length then vs[b - a] else r.get b := by
  induction vs generalizing a with
  | nil => simp [Cells.dense]
  | cons v t ih =>
    have h' : StartsFrom (a + 1 + t.length) r := by
      rw [List.length_cons] at h; rw [Nat.add_right_comm]; exact h
    by_cases he : b = a
    · subst he
      by_cases hv : v = 0#w
      · simp only [BitVec.ofNat_eq_ofNat, Cells.dense, hv, if_true]
        rw [get_lt (startsFrom_dense (b + 1) t h') (by omega)]
        simp
      · simp [Cells.dense, hv, Cells.get]
    · have hb : b - a = (b - (a + 1)) + 1 := by omega
      have hrest : (Cells.dense (a + 1) t ++ r).get b = if h : b - a < (v :: t).length then (v :: t)[b - a] else r.get b := by
        rw [ih (a + 1) h' (by omega)]
        by_cases hlt : b - (a + 1) < t.length
        · have : b - a < (v :: t).length := by rw [List.length_cons]; omega
          simp only [hlt, this, dif_pos]; simp only [hb, List.getElem_cons_succ]
        · have : ¬ b - a < (v :: t).length := by rw [List.length_cons]; omega
          simp only [hlt, this, dif_neg, not_false_iff]
      by_cases hv : v = 0#w
      · simp only [BitVec.ofNat_eq_ofNat, Cells.dense, hv, if_true]; rw [hrest]; simp [hv]
      · simp only [BitVec.ofNat_eq_ofNat, Cells.dense, hv, if_false, List.cons_append, Cells.get, show ¬ b < a by omega, he]
        exact hrest

/-- What consecutive writes leave: the values written in their cells, every other cell as before. -/
theorem get_setRange (m : Cells w) (a b : Nat) (vs : List (BitVec w)) :
    (m.setRange a vs).get b =
      if hb : a ≤ b ∧ b - a < vs.length then vs[b - a]'hb.2 else m.get b := by
  unfold Cells.setRange
  rw [get_below_append (startsFrom_dense a vs (startsFrom_above _ _))]
  by_cases h1 : b < a
  · simp [h1, show ¬ a ≤ b by omega]
  · rw [if_neg h1, get_dense a b vs (startsFrom_above _ _) (by omega)]
    by_cases h2 : b - a < vs.length
    · simp [h2, show a ≤ b by omega]
    · simp only [h2, dif_neg, not_false_iff, and_false]
      exact get_above (by omega)

/-- Cells set one after another: a cell not named reads as before. -/
theorem get_setMany_other (m : Cells w) (vs : List (Nat × BitVec w)) (b : Nat) (h : ∀ p ∈ vs, p.1 ≠ b) :
    (m.setMany vs).get b = m.get b := by
  unfold Cells.setMany
  induction vs generalizing m with
  | nil => rfl
  | cons p r ih =>
    rw [List.foldl_cons, ih _ (fun q hq => h q (List.mem_cons_of_mem _ hq))]
    exact get_set_other _ _ _ _ (fun he => h p (List.mem_cons_self ..) he.symm)

@[simp] theorem length_run (m : Cells w) (a n : Nat) : (Cells.run m a n).length = n := by
  induction n generalizing m a with
  | zero => cases m <;> rfl
  | succ n ih =>
    cases m with
    | nil => simp [Cells.run, ih]
    | cons p r =>
      obtain ⟨k, v⟩ := p
      by_cases hk : k = a <;> simp [Cells.run, hk, ih]

@[simp] theorem length_getRange (m : Cells w) (a n : Nat) : (m.getRange a n).length = n := length_run _ _ _

theorem getElem_run {m : Cells w} {a : Nat} (n i : Nat) (h : StartsFrom a m) (hi : i < n) :
    (Cells.run m a n)[i]'(by simpa using hi) = m.get (a + i) := by
  induction n generalizing m a i with
  | zero => omega
  | succ n ih =>
    cases m with
    | nil =>
      cases i with
      | zero => simp [Cells.run, Cells.get]
      | succ i =>
        have := ih (m := ([] : Cells w)) (a := a + 1) i (fun _ _ _ he => nomatch he) (by omega)
        simp only [BitVec.ofNat_eq_ofNat, Cells.run, List.getElem_cons_succ]
        rw [this]; rfl
    | cons p r =>
      obtain ⟨k, v⟩ := p
      have h0 : a ≤ k := h k v r rfl
      by_cases hk : k = a
      · subst hk
        cases i with
        | zero => simp [Cells.run, Cells.get]
        | succ i =>
          have := ih (m := Cells.above r (k + 1)) (a := k + 1) i (startsFrom_above _ _) (by omega)
          simp only [BitVec.ofNat_eq_ofNat, Cells.run, if_true, List.getElem_cons_succ]
          rw [this, get_above (by omega)]
          simp [Cells.get, show ¬ k + (i + 1) < k by omega, show k + 1 + i = k + (i + 1) by omega]
      · cases i with
        | zero => simp [Cells.run, hk, Cells.get, show a < k by omega]
        | succ i =>
          have hw : StartsFrom (a + 1) ((k, v) :: r) := by
            intro j x q hq; cases hq; omega
          have := ih (m := (k, v) :: r) (a := a + 1) i hw (by omega)
          simp only [BitVec.ofNat_eq_ofNat, Cells.run, hk, if_false, List.getElem_cons_succ]
          rw [this]
          congr 1; omega

/-- Byte i of a range read is the cell there. -/
theorem getElem_getRange (m : Cells w) (a n i : Nat) (hi : i < n) :
    (m.getRange a n)[i]'(by simpa using hi) = m.get (a + i) := by
  unfold Cells.getRange
  rw [getElem_run n i (startsFrom_above _ _) hi, get_above (by omega)]

/-- A range read is its cells, one after another. -/
theorem getRange_eq (m : Cells w) (a n : Nat) : m.getRange a n = (List.range n).map (fun i => m.get (a + i)) := by
  apply List.ext_getElem (by simp)
  intro i h1 h2
  rw [getElem_getRange _ _ _ _ (by simpa using h2)]
  simp

/-- A range reads back as it was written. -/
theorem getRange_setRange (m : Cells w) (a : Nat) (vs : List (BitVec w)) : (m.setRange a vs).getRange a vs.length = vs := by
  apply List.ext_getElem (by simp)
  intro i h1 h2
  rw [getElem_getRange _ _ _ _ h2, get_setRange]
  simp [h2]

@[simp] theorem length_leBytes (n v : Nat) : (leBytes n v).length = n := by
  induction n generalizing v with
  | zero => rfl
  | succ n ih => simp [leBytes, ih]

theorem leNat_leBytes (n v : Nat) : leNat (leBytes n v) = v % 256 ^ n := by
  induction n generalizing v with
  | zero => simp [leBytes, leNat, Nat.mod_one]
  | succ n ih =>
    simp only [leBytes, leNat, ih, BitVec.toNat_ofNat]
    have hp : 256 ^ (n + 1) = 256 * 256 ^ n := by rw [Nat.pow_succ, Nat.mul_comm]
    rw [hp, Nat.mod_mul]

/-- Little-endian bytes read back as the number written. -/
theorem readLE_writeLE (m : Memory) (a n v : Nat) : (m.writeLE a n v).readLE a n = v % 256 ^ n := by
  have := getRange_setRange m a (leBytes n v)
  rw [length_leBytes] at this
  rw [Memory.readLE, Memory.writeLE, this, leNat_leBytes]

/-- A range apart from the bytes written reads as before. -/
theorem getRange_setRange_apart (m : Cells w) (a b n : Nat) (vs : List (BitVec w))
    (hb : b + n ≤ a ∨ a + vs.length ≤ b) : (m.setRange a vs).getRange b n = m.getRange b n := by
  apply List.ext_getElem (by simp)
  intro i h1 h2
  have hi : i < n := by simpa using h2
  rw [getElem_getRange _ _ _ _ hi, getElem_getRange _ _ _ _ hi, get_setRange]
  rw [dif_neg]
  omega

theorem startsFrom_of_wf {m : Cells w} {lo : Nat} (h : m.wfFrom lo = true) : StartsFrom lo m := by
  intro k v r he
  subst he
  simp only [BitVec.ofNat_eq_ofNat, Cells.wfFrom, Bool.and_eq_true, decide_eq_true_eq] at h
  exact h.1.1

/-- Equal memories are equal data: cells in the canonical form that read alike are the same list. -/
theorem ext_of_wf {m n : Cells w} {lo : Nat} (hm : m.wfFrom lo = true) (hn : n.wfFrom lo = true)
    (h : ∀ a, m.get a = n.get a) : m = n := by
  induction m generalizing n lo with
  | nil =>
    cases n with
    | nil => rfl
    | cons p r =>
      obtain ⟨k, v⟩ := p
      simp only [BitVec.ofNat_eq_ofNat, Cells.wfFrom, Bool.and_eq_true, decide_eq_true_eq] at hn
      exact absurd (by simpa [Cells.get] using (h k).symm) hn.1.2
  | cons p r ih =>
    obtain ⟨k, v⟩ := p
    have hm0 := hm
    simp only [BitVec.ofNat_eq_ofNat, Cells.wfFrom, Bool.and_eq_true, decide_eq_true_eq] at hm
    cases n with
    | nil => exact absurd (by simpa [Cells.get] using h k) hm.1.2
    | cons q t =>
      obtain ⟨j, x⟩ := q
      have hn0 := hn
      simp only [BitVec.ofNat_eq_ofNat, Cells.wfFrom, Bool.and_eq_true, decide_eq_true_eq] at hn
      have hkj : k = j := by
        by_contra hne
        rcases Nat.lt_or_gt_of_ne hne with hl | hl
        · exact hm.1.2 (by simpa [Cells.get, hl] using h k)
        · exact hn.1.2 (by simpa [Cells.get, hl] using (h j).symm)
      subst hkj
      have hv : v = x := by simpa [Cells.get] using h k
      subst hv
      rw [ih hm.2 hn.2]
      intro a
      by_cases ha : a < k + 1
      · rw [get_lt (startsFrom_of_wf hm.2) ha, get_lt (startsFrom_of_wf hn.2) ha]
      · have := h a
        simpa [Cells.get, show ¬ a < k by omega, show a ≠ k by omega] using this

end Sys2Proof
end

