-- ==== Sys2Proof/Tests/Slice0.lean ====
section
/-! SUPPORT. Tests: ill-formed terms that the checks refuse, words written out from the encoding tables, single steps
with results worked out from the spec, and for each statement a state and operands that meet its hypotheses. -/

namespace Sys2Proof.Tests

open Sys2Proof.Machine

/-! ### States -/

/-- A state in which core 0 is `k`, of a node that runs. -/
def one (k : Core) : State :=
  { State.reset with host := { HostRegs.reset with phase := 5 }, cores := [(0, k)], nodes := [(0, Node.bare)] }
/-- A core that runs a timetable, in timed mode; in free mode at user level; in free mode at system level. -/
def timed : Core := { Core.reset with place := { Place.reset with node := some 0 } }
def free : Core := timed.modCsr (fun c => { c with status := 0, tvec := 0x40 })
def sys : Core := free.modCsr (fun c => { c with status := 2 })
/-- The signal box of die 0, at system level with interrupts on. -/
def box (f : Core → Core) : State :=
  { State.reset with
    cores := [(4096, f (Core.reset.modCsr (fun c => { c with status := 0xA })))], cur := 4096 }
/-- A g register set. -/
def withG (k : Core) (r : BitVec 5) (v : DWord) : Core := k.modDrv (·.writeG r v)
/-- An engine in which the meaning runs. -/
def engineOf (e : Eng) (k : Core) : State := { one k with curEng := e }

/-! ### Ill-formed operands -/

theorem test_illformed_driver :
    [Instr.sext 1 2 3, .zext 1 2 3, .cmp 1 6 0 0, .cmpi 1 7 0 0, .fence 0, .xfence 0, .xild 1 1 31, .tstart 0 4,
      .tbase 0 4, .tstop 4, .tload 0 0 4, .lpset 0 4 0, .lpset 0 0 2, .agset 0 1 0, .agset 0 0 8, .rcfg 0 16, .rreset 16,
      .ssset 0 16].all (fun i => !i.wellFormed) = true := by decide

theorem test_illformed_orders :
    [Instr.eloop 0 2 1, .eloop 0 0 0, .tkpush 0 0 5, .mmula 0 0 3 3 0, .miter 0 0 61 0 0 3, .miter 0 0 4 6 0 3,
      .vadd 0 0 28 0 0 0 0, .vadd 0 0 0 0 0 0 2, .vadd 0 0 0 0 0 0 1, .viadd 0 0 0 0 28 0 0, .vexp2 0 0 0 0 0 1,
      .vcmp 0 0 0 0 0 0 0, .vmlog 0 0 0 0 0 0, .vmlog 0 0 1 8 0 0, .vscl 0 0 28 0 0, .vcvt 0 0 0 0 5 0,
      .vqnt 0 0 0 0 0 6 0 0, .vhad 0 0 0 0 0 2 0, .vrotr 0 0 0 0 64, .vbcr 0 0 0 0 16, .vldi 0 0 28 0, .vloopb 0 0 0 0 1,
      .vloopb 0 0 1 3 0, .vloopb 0 0 1 0 0, .vloopb 0 0 1 1 1, .ldq 0 0 4 0 0 0 4 0, .ldq 0 0 0 0 0 0 7 0,
      .stq 0 0 0 0 0 0 6 0, .string 0 0 0 0 0 0 0 5 0, .supd 0 0 4 0 0 0 7 0, .sqnt 0 0 0 0 6 0 0 0 0,
      .sqnt 0 0 0 0 0 0 0 1 0].all (fun i => !i.wellFormed) = true := by decide

theorem test_illegal_stream : Instr.legalIn (.engine .vector) (.tkpush 0 2 3) = false ∧
    Instr.legalIn (.engine .load) (.tkpush 0 0 1) = false ∧ Instr.legalIn .driver (.tkpush 0 0 0) = false ∧
    Instr.legalIn (.engine .load) (.add 1 2 3) = false := by decide

/-! ### Words (Tables 4.1 to 4.10) -/

/-- CR, CI, CC, PLOG: opcode, registers, immediate or function, by Table 4.1. -/
theorem test_decode_integer :
    decode .driver (0b00000100001000100001100000000000#32) = .ok (.add 1 2 3) ∧
    decode .driver (0b00000100001000100001100000001011#32) = .ok (.mulhu 1 2 3) ∧
    decode .driver (0b00011000101001101000000000000111#32) = .ok (.srai 5 6 7) ∧
    decode .driver (0b00100000101110000001001000110100#32) = .ok (.movk 5 3 0x1234) ∧
    decode .driver (0b00100101001100010000110000000000#32) = .ok (.cmp 2 3 2 3) ∧
    decode .driver (0b00101100101001110100000000000000#32) = .ok (.plog 1 2 3 2 1) ∧
    decode .driver (0b00110000001000100001101000000000#32) = .ok (.sel 1 2 3 2) := by decide

/-- CB, CM, CA, CX, CSR. -/
theorem test_decode_control :
    decode .driver (0b00110101110000000000000000000101#32) = .ok (.br 3 1 5) ∧
    decode .driver (0b00111000001111111111111111111111#32) = .ok (.call 0x3FFFFF) ∧
    decode .driver (0b00111100000001010000000000000010#32) = .ok (.jalr 5) ∧
    decode .driver (0b01000100001000101100000000000001#32) = .ok (.lds 1 2 3 1) ∧
    decode .driver (0b01010100001000100001111111000010#32) = .ok (.amo 1 2 3 7 1 1) ∧
    decode .driver (0b01100000000100001000000000000000#32) = .ok (.waits 1) ∧
    decode .driver (0b01100100001100001000100001100000#32) = .ok (.tload 1 2 3) ∧
    decode .driver (0b10001000010000001000000010000000#32) = .ok (.csrwr 1 0x010) := by decide

theorem test_decode_units :
    decode .driver (0b01110000000100001000100000000001#32) = .ok (.xcopy 1 2 1) ∧
    decode .driver (0b01110100000000001000100000000000#32) = .ok (.coll 1 2) ∧
    decode .driver (0b01111000000000001000000000000000#32) = .ok (.lease 1) ∧
    decode .driver (0b01111101100100001000100000000011#32) = .ok (.shscat 1 2 3) ∧
    decode .driver (0b10000000001100001000100000000000#32) = .ok (.rwnorm 1 2) ∧
    decode .driver (0b10000100000100000000000000000000#32) = .ok .depart := by decide

/-- The lines of Table 4.10. -/
theorem test_decode_worked :
    decode .driver 0x10A00133#32 = .ok (.ori 5 0 0x133) ∧ decode .driver 0x28A27FFD#32 = .ok (.cmpi 1 2 4 0x7FFD) ∧
    decode .driver 0x68028000#32 = .ok (.wbpush 5) ∧ decode .driver 0x88320110#32 = .ok (.csrrd 4 0x022) ∧
    decode (.engine .store) 0x0000004A#32 = .ok (.idle 0 74) ∧ decode (.engine .load) 0x33E00000#32 = .ok (.tkpush 3 0 0) ∧
    decode (.engine .matrix) 0x34310240#32 = .ok (.mmul 3 1 4 2 1) ∧
    decode (.engine .vector) 0x00346004#32 = .ok (.vmul 0 0 8 24 0 1 0) ∧
    decode (.engine .vector) 0x11FC2540#32 = .ok (.vqnt 1 0 24 9 5 0 0 0) := by decide

/-- The bodies of Tables 4.7 and 4.8, and the V-I and V-0 bodies of Table 4.9. -/
theorem test_decode_orders :
    decode (.engine .matrix) (0b00000000100100010100001100010000#32) = .ok (.mdrainRing 0 0 5 3) ∧
    decode (.engine .matrix) (0b00000000100100010100000000000011#32) = .ok (.mdrainQueue 0 0 5 3) ∧
    decode (.engine .load) (0b00000000001000010100110001001111#32) = .ok (.ldq 0 0 1 2 1 1 4 15) ∧
    decode (.engine .store) (0b00000000001001100010001001110000#32) = .ok (.string 0 0 6 1 0 0 2 7 0) ∧
    decode (.engine .vector) (0b00000010101100010000000000000011#32) = .ok (.vloopb 0 0 2 0 3) ∧
    decode (.engine .vector) (0b00000010110100000000000000001000#32) = .ok (.vexit 0 0 2) := by decide

theorem test_decode_reserved :
    decode .driver 0#32 = .error .reservedOpcode ∧ decode .driver 0x8C000000#32 = .error .reservedOpcode ∧
    decode .driver 0x04000014#32 = .error .reservedOpcode ∧ decode .driver 0x04000040#32 = .error .nonzeroZeroField ∧
    decode (.engine .matrix) 0x00C00000#32 = .error .reservedOpcode := by decide

/-- The table's numbering: a driver word and an order are found in their streams. -/
theorem test_table_word : decodeTableWord 32 0x10A00133 = some (.ori 5 0 0x133) ∧
    decodeTableWord 32 0x00310240 = some (.mmul 0 0 4 2 1) := by decide

/-! ### Single steps -/

/-- What `f` says of the state after a meaning. -/
def after {α : Type} (i : Instr) (s : State) (f : State → α) : Option α :=
  match exec i s with
  | .next t => some (f t)
  | _ => none

/-- R84: addition wraps, and a write to g0 is discarded. -/
theorem test_add_wraps :
    after (.add 1 2 3) (one (withG (withG timed 2 (-1)) 3 2)) (fun t => t.readG 1) = some 1 ∧
    after (.add 0 2 3) (one (withG (withG timed 2 (-1)) 3 2)) (fun t => t.readG 0) = some 0 := by decide

/-- R84: the high half of a signed product, and a shift by 63. -/
theorem test_mulh_sra :
    after (.mulh 1 2 2) (one (withG timed 2 (-1))) (fun t => t.readG 1) = some 0 ∧
    after (.mulhu 1 2 2) (one (withG timed 2 (-1))) (fun t => t.readG 1) = some (-2) ∧
    after (.sra 1 2 3) (one (withG (withG timed 2 (1 <<< 63)) 3 127)) (fun t => t.readG 1) = some (-1) := by decide

/-- R90: a call links the next word, whose address does not wrap; the offset counts words and the PC wraps at 64 KiB. -/
theorem test_call_wraps :
    after (.call 0x3FFFFF) (one timed) (fun t => (t.me.drv.pc, t.readG 31)) = some (0xFFFC, 4) ∧
    after (.call 1) (one (timed.modDrv (fun d => { d with pc := 0xFFFC }))) (fun t => (t.me.drv.pc, t.readG 31)) =
      some (0, 0x10000) := by decide

/-- R131: TRAP in free mode: CAUSE, EPC of the trap itself, FAULTINFO its number, the handler at TVEC. -/
theorem test_trap :
    after (.trap 7) (one free) (fun t => (t.me.csr.cause, t.me.csr.epc, t.me.csr.faultInfo, t.me.drv.pc, t.me.priv)) =
      some (0x0E, 0, 7, 0x40, true) := by decide

/-- R9: ERET puts back the saved level. -/
theorem test_eret :
    after .eret (one (sys.modCsr (fun c => { c with status := 0x16, epc := 0x104 }))) (fun t => (t.me.csr.status, t.me.drv.pc)) =
      some (0xA, 0x104) := by decide

/-- R25: a tick. -/
theorem test_tick : after .stationClockTick (one timed) (fun t => t.clock) = some 1 := by decide

/-- R92, R194: STS claims its bank for the next cycle; R95: it writes its low bytes. -/
theorem test_sts_performs :
    after (.stsPerform 0x101 2 0xABCDEF) (one timed) (fun t => (t.me.pad.mem.get 0x101, t.me.pad.mem.get 0x102,
      t.me.pad.mem.get 0x103)) = some (0xEF, 0xCD, 0) := by decide

/-- Table 2.8 and R43: the exact values of the special functions at 0 and 1, and the largest finite sum overflows. -/
theorem test_float :
    fadd 0x7F7FFFFF#32 0x7F7FFFFF#32 = 0x7F800000#32 ∧ fmul 0x3FC00000#32 0x40000000#32 = 0x40400000#32 ∧
    ffma 0x3F800000#32 0x3F800000#32 0xBF800000#32 = 0#32 := by decide

/-- R204, Table 11.7: a second ACT of a bank inside tRC is row 3; one 66 cycles on and closed for 20 keeps the rules. -/
theorem test_act_rules :
    let q := PseudoChannel.reset.setBank 2 (fun k => { k with act := some 100, pre := some 146 })
    q.actRule 2 165 = some 1 ∧ q.actRule 2 166 = none := by decide

/-- Log 9: the word stands where the next step fetches it. -/
theorem test_fetch :
    (match step (State.reset.withFetchWord 32 0x10A00133) with
      | .next t => some ((t.core 0).drv.readG 5, (t.core 0).drv.pc)
      | _ => none) = some (0x133, 4) := by decide

theorem reset_inv : Memory.wf State.reset.mem = true ∧ Cells.wf State.reset.bad = true := by decide

/-! ### States that meet the hypotheses of the statements -/

theorem traps_free : TrapsToVector (one free) := by unfold TrapsToVector; decide

theorem witness_BranchResults :
    ((one free).me.drv.readP 0 = true ↔ (0 : BitVec 1) = 0) ∧ ((one free).me.drv.readP 0 = true ↔ (1 : BitVec 1) = 1) ∧
    (one free).readG 1 ≠ 1 ∧ (one (withG free 1 1)).readG 1 = 1 ∧ LegalTarget ((one free).readG 1) := by
  unfold LegalTarget; decide

theorem witness_Exceptions :
    TrapsToVector (one (withG (withG free 1 2) 31 0x10000)) ∧ ¬ LegalTarget ((one (withG free 1 2)).readG 1) ∧
    ¬ LegalTarget ((one (withG free 31 0x10000)).readG 31) ∧ isBox (one timed).cur = false ∧ (one timed).me.timed = true ∧
    (one sys).me.timed = false ∧ (one sys).me.priv = true := by
  unfold TrapsToVector LegalTarget; decide

/-- A data trap that waits, and a lease-wait pre-emption that does. -/
def lateLease : LateTrap := ⟨0x20, 0, 5, true⟩
def lateTrap : LateTrap := ⟨0x20, 0x7F8, 5, false⟩
def trapping (k : Core) : Core := k.modDrv (fun d => { d with late := [lateTrap] })

theorem witness_ReturnAndHalt :
    (one sys).me.priv = true ∧ isBox (one sys).cur = false ∧ (box id).me.priv = true ∧ isBox (box id).cur = true ∧
    (one sys).me.drv.late = [] ∧ (box trapping).me.drv.late = [lateTrap] ∧ (box trapping).me.priv = true ∧
    (box (·.modDrv (fun d => { d with late := [lateLease] }))).me.drv.late = [lateLease] := by decide

theorem witness_WaitsAndUntimed :
    (one free).me.timed = false ∧ ((one free).readG 1).toNat ≤ (one free).clock + 1 ∧
    (one free).clock + 1 < ((one (withG free 1 2)).readG 1).toNat ∧
    (let s := one (free.modDrv (fun d => { d with hold := some (.waits 0) }));
      s.me.drv.hold = some (.waits 0) ∧ (0 : DWord).toNat ≤ s.clock ∧ s.me.drv.late = []) ∧
    isBox (one timed).cur = false ∧ (one timed).me.timed = true := by decide

/-- A box whose die has an alarm pending; a core whose timetable is pre-empted. -/
def alarmed (f : Core → Core) : State :=
  let s := box f
  { s with dies := s.dies.set 0 { Die.reset with alarm := true } }
def preempted : State := { one sys with nodes := [(0, { Node.bare with latched := true })] }

theorem witness_Interrupts :
    (box id).me.timed = false ∧ isBox (box id).cur = true ∧ (box id).interrupt (box id).cur = none ∧
    (alarmed id).interrupt (alarmed id).cur ≠ none ∧ (alarmed id).me.timed = false ∧
    ((one free).me.priv && (one free).preempting (one free).cur) = false ∧
    (preempted.me.priv && preempted.preempting preempted.cur) = true ∧ preempted.me.timed = false ∧
    (let s := alarmed (·.modDrv (fun d => { d with hold := some .wfi }));
      s.me.drv.hold = some .wfi ∧ s.interrupt s.cur ≠ none ∧ s.me.drv.late = []) ∧ isBox (box id).cur = true ∧ (box id).me.ie = true := by decide

theorem witness_RegisterReads :
    (one sys).me.priv = true ∧ (one free).me.priv = false ∧ TrapsToVector (one free) ∧
    (∃ r ∈ csrTable, r.2.2 (one free).me = none) ∧ (∃ r ∈ csrTable, r.2.2 (one free).me = some 0) ∧
    (box id).cur = 4096 + (0 : Fin 8).val ∧ (box id).me.priv = true := by
  refine ⟨by decide, by decide, traps_free, ⟨_, List.mem_cons_of_mem _ (List.mem_cons_of_mem _ (List.mem_cons_of_mem _
    (List.mem_cons_of_mem _ (List.mem_cons_of_mem _ (List.mem_cons_of_mem _ (List.mem_cons_self)))))), rfl⟩,
    ⟨_, List.mem_cons_of_mem _ (List.mem_cons_self), rfl⟩, by decide, by decide⟩

theorem witness_RegisterWrites :
    isBox (one sys).cur = false ∧ (one sys).me.priv = true ∧ GuardAgrees (one sys) ∧ TrapsToVector (one free) ∧
    GuardAgrees (one free) ∧ (5 : BitVec 5) ≠ 0 ∧
    (∃ m ∈ csrWriteMask, m.1 ≠ 0x050) ∧
    (let s := box (withG · 1 0x21);
      s.cur = 4096 + (0 : Fin 8).val ∧ s.me.priv = true ∧ GuardAgrees s ∧ (s.readG 1).getLsbD 4 = false) ∧
    (let s := box (withG · 1 0x30); (s.readG 1).getLsbD 5 = true ∧ (s.readG 1).getLsbD 4 = true) := by
  refine ⟨by decide, by decide, rfl, traps_free, rfl, by decide, ⟨_, List.mem_cons_self, by decide⟩, ⟨by decide, by decide, rfl, by decide⟩,
    by decide⟩

theorem witness_PadAndIndexIssue :
    (let s := one (withG free 1 0xBFFF8);
      let ad := (s.readG 1 + ((1 : BitVec 14).signExtend 64 <<< 2)).toNat;
      ad % 4 = 0 ∧ ad < 0xC0000 ∧ isBox s.cur = false) ∧
    (let s := one (withG free 1 0xC0000);
      TrapsToVector s ∧ (s.readG 1).toNat % 4 = 0 ∧ 0xC0000 ≤ (s.readG 1).toNat) ∧
    (let s := one (withG free 1 2);
      TrapsToVector s ∧ (s.readG 1).toNat % 4 ≠ 0) ∧
    (let s := one (withG free 1 0xBFFFC);
      (s.readG 1).toNat + 4 * ((0 : BitVec 5).toNat + 1) ≤ 0xC0000 ∧ 0xC0000 < (s.readG 1).toNat + 4 * ((1 : BitVec 5).toNat + 1)) := by
  unfold TrapsToVector; decide

/-- A core with one claim at its arbiter, and banks assigned. -/
def claiming (act : Act) (until_ : Nat) : State :=
  one { timed with pad := { timed.pad with claims := [⟨0, 9, 0, 1, 0, act⟩], assigned := [⟨0, 1, until_⟩] } }

theorem witness_ArbiterAndPadResults :
    (∀ q ∈ (one timed).me.pad.claims, (one timed).tt < q.asked) ∧
    (let s := claiming (.load false 1 0 8 1 0) 0;
      s.me.pad.claims = [⟨0, 9, 0, 1, 0, .load false 1 0 8 1 0⟩] ∧ 0 ≤ s.tt ∧
        (∀ a ∈ s.me.pad.assigned, s.tt < a.until_ → (a.block = 0 → a.banks &&& 1#8 = 0)) ∧ s.me.pad.poison 0 8 = []) ∧
    (let s := claiming (.store 0 8 5) 1;
      ¬ ∀ a ∈ s.me.pad.assigned, s.tt < a.until_ → (a.block = 0 → a.banks &&& 1#8 = 0)) ∧
    [(1 : DWord), 2].length = 2 ∧ 30 + 2 ≤ 32 := by decide

/-- Page tables at the start of the depot: ASID 0, one page of 64 KiB for address 0, the same frame. -/
def pages (flags : Nat) : Memory :=
  [(0, 0x10000000000 + 0x10001), (8, 0x10000000000 + 0x20001), (16, 0x10000000000 + 0x30001),
    (24, 0x10000000000 + 0x40000 + flags)].foldl (fun m p => Memory.writeLE m (0x10000000000 + 0x2000 * p.1) 8 p.2) []
def mapped (flags : Nat) (k : Core) : State :=
  let s := one k
  { s with mem := pages flags, host := { s.host with roottab := 0x10000000000 } }

/-- An access of the meaning's core. -/
def access (id : Nat) (k : AccessKind) (pa : Nat) (v : DWord) : Access :=
  ⟨id, k, 0, 0, pa, 8, 3, v, 0, 0, 0, false, false, false, false, 0, none, []⟩
def accessing (l : List Access) : State := one { free with acc := l }

/-- Of the cores of `one k`, core 0 is `k` and the others are as after reset. -/
theorem core_one (k : Core) (c : Nat) : (one k).core c = if c = 0 then k else Core.reset := by
  by_cases h : c = 0 <;> simp [one, State.core, Table.find, h]

/-- Nothing waits behind another access where no access has left a replay queue. -/
theorem nothing_behind (l : List Access) (a : Access) (h : ∀ b ∈ l, b.behind = none) : NothingBehind (accessing l) a := by
  intro c b hb
  rw [accessing, core_one] at hb
  by_cases hc : c = 0
  · simp [hc] at hb; simp [h b hb]
  · simp [hc, Core.reset] at hb

theorem witness_UntimedIssue :
    (∃ p, ((mapped 7 free).translate (mapped 7 free).cur 0).1 = some p ∧ accessFault (some p) 0 8 true = none ∧
      p.mig = false ∧ ((mapped 7 free).translate (mapped 7 free).cur 0).2.invalidating (mapped 7 free).cur 0 p = false) ∧
    (mapped 7 free).me.timed = false ∧ GuardAgrees (mapped 7 free) ∧
    (∃ p, ((mapped 0x47 free).translate (mapped 0x47 free).cur 0).1 = some p ∧ accessFault (some p) 0 8 true = none ∧
      p.mig = true) ∧
    coreDie (mapped 0x47 free).cur = (0 : Fin 8).val ∧ (mapped 0x47 free).dies[(0 : Fin 8)].replay.length < 64 ∧
    (mapped 7 free).fenceDone 0 = true ∧ (accessing [access 0 .load 0 0]).fenceDone 0 = false ∧
    TrapsToVector (one free) ∧ ((one free).translate (one free).cur 0).1 = none := by
  refine ⟨⟨⟨0x10000040000, false, true, false, false, false⟩, ?_⟩, by decide, rfl,
    ⟨⟨0x10000040000, false, true, false, true, false⟩, ?_⟩, by decide, by decide, by decide, by decide, traps_free, ?_⟩
  · decide
  · decide
  · decide

theorem witness_UntimedPerforms :
    (let s := accessing [access 0 .store 0x10000000000 5, access 1 .load 0x10000000000 0];
      Performs s (access 1 .load 0x10000000000 0) ∧ Performs s (access 0 .store 0x10000000000 5) ∧
      DepotServes s (access 1 .load 0x10000000000 0) ∧ DepotServes s (access 0 .store 0x10000000000 5) ∧
      (storesMet s (access 1 .load 0x10000000000 0)).getLast? = some (access 0 .store 0x10000000000 5)) ∧
    (let s := accessing [access 0 .load 0x1003FFFFFF8 0];
      Performs s (access 0 .load 0x1003FFFFFF8 0) ∧ (storesMet s (access 0 .load 0x1003FFFFFF8 0)).getLast? = none ∧
      s.frontBad 0x1003FFFFFF8 8 = false) ∧
    (let s := accessing [access 0 .amo 0x10000000000 5];
      Performs s (access 0 .amo 0x10000000000 5) ∧ DepotServes s (access 0 .amo 0x10000000000 5) ∧
      s.frontBad 0x10000000000 8 = false) ∧
    tierOf 0x10000000000 = some .depot ∧ tierOf 0x1003FFFFFF8 = some .depot ∧
    amoNew 0 8 1 2 3 = some 3 ∧ amoNew 7 8 1 2 3 = none := by
  unfold Performs Waits InTurn DepotServes; decide

theorem witness_UntimedPerforms_behind :
    NothingBehind (accessing [access 0 .store 0x10000000000 5, access 1 .load 0x10000000000 0]) (access 0 .store 0x10000000000 5) :=
  nothing_behind _ _ (by decide)

theorem witness_UntimedCompletes :
    (let s := accessing [access 0 .load 0xFFFFFFFFF8 0];
      Performs s (access 0 .load 0xFFFFFFFFF8 0) ∧ tierOf 0xFFFFFFFFF8 = some .hbm) ∧
    (let s := accessing [access 0 .load 0 0, access 1 .amo 0 0];
      s.me.acc.find? (fun b => b.id = (access 1 .amo 0 0).id) = some (access 1 .amo 0 0) ∧
      Waits s (access 1 .amo 0 0) ∧ ¬ InTurn s (access 1 .amo 0 0)) ∧
    (let a := access 0 .load 0x10000000000 0;
      let s := { accessing [a] with dies := State.reset.dies.set 0 { Die.reset with waiting := [(0, 7)] } };
      let t := { s with cores := s.cores ++ [(7, { free with acc := [access 7 .load 0x10000000000 0] })],
                        dies := State.reset.dies.set 0 { Die.reset with waiting := [(7, 7)] } };
      Performs t a ∧ tierOf a.pa = some .depot ∧ ¬ DepotServes t a ∧ memDie a.pa = (0 : Fin 8).val) ∧
    (access 1 .amo 0 0).reg = (3 : BitVec 5).toNat ∧
    (let s := { accessing [] with front := [⟨0, 0, 0, [], 8, [3], 0⟩] };
      s.front.find? (fun g => g.id = s.cur) = some ⟨0, 0, 0, [], 8, [3], 0⟩) := by
  unfold Performs Waits InTurn DepotServes; decide

theorem witness_Fences :
    (∀ a ∈ (one free).me.acc, a.performed = true ∨ a.kind = .mark) ∧ (one free).me.timed = false ∧
    ¬ (∀ a ∈ (accessing [access 0 .load 0 0]).me.acc, a.performed = true ∨ a.kind = .mark) ∧
    (∀ f ∈ (one free).front, f.core ≠ (one free).cur) ∧
    (∀ c ∈ (one free).copies, c.2.core = (one free).cur → c.2.onHost = false) ∧
    ¬ (∀ f ∈ [(⟨0, 0, 0, [], 8, [], 0⟩ : Front)], f.core ≠ (one free).cur) ∧ (one free).me.drv.late = [] ∧
    (one (free.modDrv (fun d => { d with hold := some (.fence 3) }))).me.drv.hold = some (.fence 3) ∧
    (one (free.modDrv (fun d => { d with hold := some (.xfence 3) }))).me.drv.hold = some (.xfence 3) := by decide

theorem witness_Fences_trap :
    ∀ h ∈ [Hold.fence 3, .xfence 3], let s := one (trapping (free.modDrv (fun d => { d with hold := some h })));
      TrapsToVector s ∧ s.me.drv.late = [lateTrap] ∧ s.me.drv.hold = some h ∧ s.me.acc = [] ∧ s.front = [] ∧ s.copies = [] := by
  unfold TrapsToVector; decide

def fullQueues : Core :=
  { timed with q := { timed.q with waybill := List.replicate 15 ⟨0, false⟩, waybillIn := 1,
                                   param := List.replicate 16 ⟨0, false⟩ } }

theorem witness_DriverWriteIssue :
    (let s := one (withG timed 1 0xFFFFFF);
      isBox s.cur = false ∧ s.guardBad.contains s.cur = false ∧ (s.readG 1).toNat < 2 ^ 24 ∧ s.me.timed = true ∧
      s.tt + 8 ≤ s.me.csr.depart.toNat + (s.readG 1).toNat ∧ (s.me.engine .load).status = .stopped) ∧
    ((one (withG free 1 1023)).readG 1).toNat < 1024 ∧ (one (withG free 1 1023)).me.timed = false ∧
    ((one (withG free 1 65535)).readG 1).toNat < 65536 ∧ ((one (withG free 1 0xFFFFFFFF)).readG 1).toNat < 2 ^ 32 ∧
    (one timed).me.q.waybill.length + (one timed).me.q.waybillIn < 16 ∧
    (one timed).me.q.param.length + (one timed).me.q.paramIn < 16 ∧
    ringOperandOk 0x10100000 = true ∧ (one fullQueues).me.timed = true ∧
    16 ≤ (one fullQueues).me.q.waybill.length + (one fullQueues).me.q.waybillIn ∧
    16 ≤ (one fullQueues).me.q.param.length + (one fullQueues).me.q.paramIn := by decide

theorem witness_DriverWriteEffects :
    (one timed).tt ≤ 8 ∧ (∃ ws : List Word, ws.length ≤ 1024 ∧ ws.length = 1024) ∧ isBox (one timed).cur = false ∧
    isBox (box id).cur = true ∧ coreDie (box id).cur = (0 : Fin 8).val ∧
    ((one timed).me.engine .load).status = .stopped ∧
    ((timed.modEng .load (fun g => { g with status := .running, start := 3 })).engine .load).status = .running ∧
    ((timed.modEng .store (fun g => { g with status := .armed, start := 0 })).engine .store).start = (one timed).tt := by
  exact ⟨by decide, ⟨List.replicate 1024 0, Nat.le_of_eq List.length_replicate, List.length_replicate⟩, by decide,
    by decide, by decide, by decide, by decide, by decide⟩

theorem witness_GuardAndIllegalOrders :
    (let s := { one sys with guardBad := [0] };
      s.guardBad.contains s.cur = true ∧ isBox s.cur = false ∧ s.me.priv = true ∧
      s.me.q.waybill.length + s.me.q.waybillIn < 16 ∧ s.me.q.param.length + s.me.q.paramIn < 16) ∧
    (0x10, (one timed).tt) ∉ (one timed).me.drv.mismatch ∧
    (let s := one (timed.modDrv (fun d => { d with mismatch := [(0x10, 0)] })); (0x10, s.tt) ∈ s.me.drv.mismatch) := by decide

theorem witness_Descriptors :
    isBox (one timed).cur = false ∧ (one timed).guardBad.contains (one timed).cur = false ∧
    (let s := one (withG (withG timed 1 0xBFFFC) 2 1); 1 ≤ (s.readG 2).toNat ∧ (s.readG 2).toNat ≤ 1024 ∧
      (s.readG 1).toNat % 4 = 0 ∧ (s.readG 1).toNat + 4 * (s.readG 2).toNat ≤ 0xC0000) ∧
    (0xBFFF0 % 16 = 0 ∧ 0xBFFF0 + 4 * 4 ≤ 0xC0000) ∧ (0xBFFC0 % 64 = 0 ∧ 0xBFFC0 + 4 * 16 ≤ 0xC0000) ∧
    (let y : DWord := 0x80000000000BFFC0;
      y.getLsbD 63 = true ∧ y.extractLsb' 48 15 = 0 ∧ y.extractLsb' 20 12 = 0 ∧
      (y.extractLsb' 0 20).toNat % 64 = 0 ∧ (y.extractLsb' 0 20).toNat + 4 * 16 ≤ 0xC0000) ∧
    (0xBFFE0 % 32 = 0 ∧ 0xBFFE0 + 4 * 8 ≤ 0xC0000) ∧ (one timed).me.rowTaken (one timed).tt = false ∧
    (∀ o ∈ [0x00, 0x01, 0x02, 0x03, 0x04, 0x08, 0x09, 0x10, 0x18, 0x19, 0x1A], ∃ y, leasedOperandOk o y = true) := by
  refine ⟨by decide, by decide, by decide, by decide, by decide, by decide, by decide, by decide, ?_⟩
  exact fun o h => ⟨if o = 0 then 0 else 1, by revert o; decide⟩

/-- A descriptor read of the meaning's core, in free mode, whose last group is due: the words that have come, and operands. -/
def read (i : Instr) (need : Nat) (ws : List Word) (va vb : DWord) : DescOp :=
  ⟨4, i, 0, 0, 0x40, va, vb, 0, [0x80], false, need, need - 1, Cells.setRange [] 0 ws, [], true, false⟩
def reading (o : DescOp) (f : Core → Core) : State :=
  one (f { free.modDrv (fun d => { d with hold := some (.descriptor 4) }) with ops := [(4, o)] })
/-- A shape of one row of 32 bytes from the scratchpad to itself (Table 6.5), its first and its last eight words; its CHK. -/
def shapeLow : List Word := [0, 0x100, 0, 0, 32, 0x00010001, 0, 0]
def shapeHigh : List Word := List.replicate 8 0
/-- The word lists with the last group in place. -/
def filled (o : DescOp) (group : Nat) (ws : List Word) : DescOp :=
  { o with words := o.words.setRange (8 * group) ws, got := o.got + 1 }

theorem witness_DescriptorEffects :
    (let o := read (.xshape 1 2) 2 shapeLow 0 0;
      let s := reading o id;
      let p := filled o 1 shapeHigh;
      s.me.ops.find 4 = some o ∧ o.id = 4 ∧ s.me.drv.late = [] ∧ s.me.leasedBefore o = false ∧ o.need ≤ o.got + 1 ∧
      o.void = false ∧ s.shapeOk s.cur (p.list 16) = true ∧ s.me.drv.wroteG[(2 : BitVec 5).toNat] ≤ s.tt) ∧
    (let o := { read (.xshape 1 2) 2 [] 0 0 with got := 0 }; (reading o id).me.leasedBefore o = false ∧ o.got + 1 < o.need) ∧
    (let o := read (.srtopk 1 2 3) 1 [] 0 1;
      let first := { o with id := 3, issue := 0 };
      let s := reading { o with issue := 4 } (fun k => { k with ops := (3, first) :: k.ops });
      s.me.leasedBefore { o with issue := 4 } = true) ∧
    (let o := read (.agset 1 2 3) 1 [] 0 0;
      let p := filled o 0 [0xBFFE0, 0x20, 0xFFFE0, 0x00010001, 0, 0, 0, 0];
      (agenOf (p.words.get 0) (p.words.get 1) (p.words.get 2) (p.words.get 3)).isSome = true ∧
      vecGet ((reading o id).me.engine (engOf (2 : BitVec 5).toNat)).agSet 0 (3 : BitVec 5).toNat ≤ o.issue) ∧
    (let o := read (.tload 1 2 0) 1 [] 0 2;
      let p := filled o 0 [0x0000004A, 0x33E00000, 0, 0, 0, 0, 0, 0];
      (reading o id).me.tloads (engOf (0 : BitVec 5).toNat) = [(4, o)] ∧
      firstBad (engOf (0 : BitVec 5).toNat) (p.words.getRange 0 o.vb.toNat) 0 [] = none ∧ (reading o id).agenda = []) ∧
    (∀ f ∈ [(0, Instr.xcopy 1 2 0), (1, .xgather 1 2 3 0), (2, .xscatter 1 2 3 0)],
      let o := read f.2 2 shapeLow 32 0x8000012000000040;
      let s := reading o id;
      let p := filled o 1 shapeHigh;
      shapeChk (p.list 16) = o.vb.extractLsb' 32 16 ∧ s.shapeOk s.cur (p.list 16) = true ∧ p.words.get 5 = 0x00010001 ∧
      o.vd.toNat + 32 ≤ o.va.toNat ∧ ∃ k, s.copyOf p f.1 o.free = .ok k ∧ s.copyFault k (!o.free) = none ∧
        s.buffered k.engine < 64) ∧
    (let o := read (.rwmax 1 2) 1 [] 0 0;
      ∃ r, rowOp o.instr = some 0 ∧
        rowCmdOf ((filled o 0 [0, 0, 0, 0x00010040, 0x100, 0, 0, 0]).words.getRange 0 8) 0 (o.vb.setWidth 32) o.issue = .ok r) ∧
    (let o := read (.srtopk 1 2 3) 1 [] 0 1;
      let s := reading o (fun k => { k with lease := k.lease.set 7 (some ⟨1, 0, 0, true, false, false, false, 0⟩) });
      let w : List Word := [7, 0, 0, 1, 0, 0, 0, 0];
      (filled o 0 w).words.getRange 0 8 = w ∧ leasedOp o.instr = some (8, (3 : BitVec 5)) ∧ leasedDescOk 8 w = true ∧
      (∃ l, s.me.leaseAt (descSlot w) = some l ∧ l.kind.toNat = leasedKind 8 ∧
        s.engineOut s.cur (leasedKind 8) l.inst = false ∧ s.engineBusyTo s.cur (leasedKind 8) l.inst ≤ o.issue + s.me.place.hshift) ∧
      (o.xs.getD 0 0).getLsbD (descSlot w) = true ∧
      ∀ x ∈ leasedSides 8 w o.vb.toNat, s.me.leasedSideFault (coreDie s.cur) x = none) ∧
    (let o := read (.coll 1 2) 1 [] 32 0;
      let s := reading o (fun k => { k with span := [(0, ⟨true, 0, 0x10000, false, [0x10000040000]⟩)] });
      let w : List Word := [0, 0, 0, 0, 256, 9, 0, 0];
      (filled o 0 w).words.getRange 0 8 = w ∧ s.me.place.node = some 0 ∧ collDescOk w = true ∧ o.vb.toNat + 32 ≤ o.va.toNat ∧
      s.fabric.groups = [] ∧ s.fabric.buckets = [] ∧
      let sides := collSides (bits (w.getD 3 0) 25 24) (w.getD 4 0).toNat none;
      collSpanOk (s.me.spanAt 0) (0 + sides.1.1) sides.1.2 false = true ∧ collSpanOk (s.me.spanAt 0) (0 + sides.2.1) sides.2.2 true = true ∧
      collSpanOk (s.me.spanAt 0) 0 4 true = true) := by
  refine ⟨by decide, by decide, by decide, by decide, by decide, ?_, ⟨_, rfl, rfl⟩, ?_, by decide⟩
  · simp only [List.mem_cons, List.not_mem_nil, or_false]
    rintro f (rfl | rfl | rfl) <;> exact ⟨by decide, by decide, by decide, by decide, _, rfl, by decide, by decide⟩
  · exact ⟨by decide, by decide, by decide, ⟨_, rfl, by decide, by decide, by decide⟩, by decide, by decide⟩

/-- A page pinned by nobody's timetable; an invalidation that waits for it. -/
def invalidating (p : List Pin) : State :=
  { one (sys.modDrv (fun d => { d with hold := some .tlbinv })) with pins := p, invs := [(0, 0, 0)] }
/-- A core at an XPIN that has issued, over pages as given. -/
def pinning (flags : Nat) (len : DWord) : State :=
  mapped flags ((withG free 2 len).modDrv (fun d => { d with pc := 4, hold := some .pin, code := Memory.writeLE [] 0 4 0x70408862 }))

theorem witness_TranslationAndPins :
    (one sys).me.timed = false ∧ (one sys).me.priv = true ∧ ((one (withG sys 2 0x1FFF)).readG 2).toNat < 2 ^ 13 ∧
    (∀ p ∈ (one sys).pins, p.has 0 0 = true → p.owner = none ∨ p.owner ≠ (one sys).me.place.node) ∧
    (∀ q ∈ (one sys).invs, q.1 ≠ (one sys).cur) ∧ ((⟨0, 0, false, none⟩ : Pin).has 0 0 = true) ∧
    (let s := invalidating [];
      s.invs.find? (fun q => q.1 = s.cur) = some (s.cur, 0, 0) ∧ s.pins.any (fun p => p.has 0 0) = false ∧
      (s.rootOfAsid 0).bind (fun r => s.walk r 0) = none) ∧
    isBox (one free).cur = false ∧ (one free).me.spanAt 63 = none ∧ (2 ^ 29 : Nat) ≤ 2 ^ 29 ∧
    (let s := pinning 7 0x10000;
      s.me.drv.hold = some .pin ∧
      decode .driver (BitVec.ofNat 32 (s.me.drv.code.readLE (s.me.drv.pc - 4).toNat 4)) = .ok (.xpin 1 2 3 1 0) ∧
      (s.pinRange s.cur (s.readG 1).toNat (s.readG 2).toNat true).1 = .ok ⟨true, 0, 0x10000, false, [0x10000040000]⟩ ∧
      s.me.unpinned = [] ∧ s.me.walk = [] ∧ s.me.drv.late = []) ∧
    (let s := mapped 7 { (pinning 7 0x10000).me with walk := [0x140000000] };
      s.me.drv.hold = some .pin ∧ s.me.walk = 0x140000000 :: [] ∧ tierOf 0x140000000 = some .hbm) ∧
    (let s := pinning 3 0x10000; (s.pinRange s.cur (s.readG 1).toNat (s.readG 2).toNat true).1 = .missing 0) ∧
    (let s := pinning 0x47 0x10000; (s.pinRange s.cur (s.readG 1).toNat (s.readG 2).toNat true).1 = .wait) ∧
    (let s := mapped 7 { free with span := [(3, ⟨true, 0, 0x10000, false, [0x10000040000]⟩)] };
      s.me.spanAt 3 = some ⟨true, 0, 0x10000, false, [0x10000040000]⟩ ∧ s.me.unpinned = [] ∧
      s.spanNamed s.cur 3 ⟨true, 0, 0x10000, false, [0x10000040000]⟩ = false) := by decide

theorem witness_XpinOverPages :
    (let s := { mapped 0 ((withG (withG free 1 0x1FFF0000) 2 0x20000).modDrv (fun d => { d with hold := some .pin })) with
        mem := Memory.writeLE (pages 0) 0x10000020000 8 7 };
      (s.pinRange s.cur (s.readG 1).toNat (s.readG 2).toNat true).1 = .operand) := by decide

/-- A core that waits for a lease in the queue of its die. -/
def queued (w : LeaseWait) (p : Place) : State :=
  let s := one { free.modDrv (fun d => { d with hold := some .lease }) with place := { p with node := some 0 } }
  { s with dies := s.dies.set 0 { Die.reset with waits := [w], capBoost := 7 }, clock := 100 }

theorem witness_LeaseInstructions :
    isBox (one (withG free 1 0x300)).cur = false ∧ (one (withG free 1 0x304)).me.timed = false ∧
    leaseWordOk ((one (withG free 1 0x003)).readG 1) = true ∧ leaseWordOk ((one (withG free 1 0x774)).readG 1) = true ∧
    (one free).me.leaseAt 7 = none ∧
    (let s := one { free with lease := free.lease.set 7 (some ⟨0, 0, 3, true, false, false, false, 0⟩) };
      (s.me.leaseAt 7).isSome = true ∧ coreDie s.cur = (0 : Fin 8).val) := by decide

/-- A core that holds an interlocking engine with progress not saved. -/
def holding : State :=
  let s := one { free with lease := free.lease.set 2 (some ⟨0, 0, 0, true, false, false, false, 0⟩),
                           seqs := [(2, ⟨0, false, 0, 1, 0, [], true⟩)] }
  { s with dies := s.dies.set 0 { Die.reset with granted := [⟨0, 0, 0, 0, 2, false⟩] } }

theorem witness_LeaseGrantsAndLimits :
    (∀ w ∈ [(⟨0, 7, 3, 0, 0, 0⟩ : LeaseWait), ⟨0, 0, 4, 7, 0, 0⟩],
      let s := queued w Place.reset;
      coreDie s.cur = (0 : Fin 8).val ∧ s.me.drv.hold = some .lease ∧ s.me.drv.late = [] ∧ w.slot < 8 ∧
      s.dies[(0 : Fin 8)].waits.find? (fun w => w.core = s.cur && firstOfKind s.dies[(0 : Fin 8)].waits w && s.canGrant 0 w) = some w) ∧
    (∃ l, holding.me.leaseAt 2 = some l ∧ l.kind ≠ 4) ∧
    (let nd := { Node.bare with points := [⟨0, 0, Vector.replicate 4 0, 0, 64⟩], saveUnits := 1, words := List.replicate 16 0x21 };
      let s := { queued ⟨0, 0, 3, 0, 0, 0⟩ { Place.reset with point := some 0 } with nodes := [(0, nd)] };
      s.dies[(0 : Fin 8)].waits.find? (fun w => w.core = s.cur && w.since + s.waitLimit s.cur ≤ s.clock) =
        some ⟨0, 0, 3, 0, 0, 0⟩ ∧ s.me.place.node = some 0 ∧ s.nodes.find 0 = some nd ∧ nd.state ≠ .restoring ∧
      nd.stopping = none ∧ nd.leaseWait = false ∧ s.poolRoom 0 nd = false ∧ nd.report = none ∧
      let r := { s with host := { s.host with svsize := 1 } };
      r.poolRoom 0 nd = true ∧ (r.coresOf 0).Nodup ∧ 0 ∈ r.coresOf 0 ∧ (r.core 0).timed = false ∧ (r.core 0).priv = false ∧
      (r.core 0).csr.tvec ≠ 0xFFFFFFFF ∧ (r.core 0).drv.amoFence = false) ∧
    (holding.cur = (0 : Fin 8).val ∧
      holding.dies[(0 : Fin 8)].granted.filter (fun g => g.kind.toNat < 4) = [⟨0, 0, 0, 0, 2, false⟩] ∧
      (holding.core 0).leaseAt 2 = some ⟨0, 0, 0, true, false, false, false, 0⟩ ∧ (holding.core 0).leased = [] ∧
      (holding.core 0).place.node = some 0 ∧ holding.nodes.find 0 = some Node.bare ∧
      (holding.core 0).seqs.find 2 = some ⟨0, false, 0, 1, 0, [], true⟩) := by
  refine ⟨by decide, ⟨_, rfl, by decide⟩, by decide, by decide⟩

/-- A core whose engine has a loop counter of 3. -/
def counted (e : Eng) : State := engineOf e (timed.modEng e (fun g => { g with lc := g.lc.set 0 3 }))

theorem witness_CommonOrders :
    MayIssue (counted .matrix) .matrix false 0 (counted .matrix).me.q ∧
    0 < (vecGet ((counted .matrix).me.engine .matrix).lc 0 (0 : BitVec 2).toNat).toNat ∧
    (vecGet ((counted .matrix).me.engine .matrix).lc 0 (1 : BitVec 2).toNat).toNat = 0 ∧
    (5 : BitVec 3).toNat < 6 ∧ (vecGet (counted .matrix).me.q.token [] 5).length + 0 < 8 ∧
    8 ≤ (vecGet (timed.q.token.set 5 (List.replicate 8 0)) [] 5).length ∧ (counted .load).curEng = .load ∧
    (match (counted .load).me.q.popTokens (counted .load).tt (kFifos .load 1) with
      | .error _ => true
      | .ok _ => false) = true := by
  unfold MayIssue; decide

/-! ### Vector orders -/

theorem clean_register (v : VectorStore) (h : v.bad = []) (p e : Nat) : (v.operand p).isBad e = false := by
  simp [VOperand.isBad, VectorStore.operand, h]

/-- A vector engine ready to issue; one with an entry in each inbound queue. -/
def ready : State := engineOf .vector timed
theorem ready_mayIssue : MayIssue ready .vector true 0 ready.me.q := by unfold MayIssue; decide

/-- Registers 7 and 23 as two sources. -/
theorem ready_sources (a b : BitVec 5) (m : BitVec 2) (ha : a.toNat < 24) (hb : b.toNat < 24) :
    readSources ready.me.vec ready.me.q [(a, m.getLsbD 1), (b, m.getLsbD 0)] =
      some ([ready.me.vec.operand (physReg 0 a.toNat), ready.me.vec.operand (physReg 0 b.toNat)], ready.me.q) := by
  simp [readSources, readSource, ha, hb]; exact ⟨rfl, rfl⟩

/-- Elements and sources that `VectorComputes` asks for, at the highest register and at the head of a queue. -/
def vectorReady (s : State) (q0 : Queues) (srcs : List (BitVec 5 × Bool)) (p : Nat) : Prop :=
  MayIssue s .vector true 0 q0 ∧ ∃ es xs q, s.me.vec.active p = some es ∧ readSources s.me.vec q0 srcs = some (xs, q) ∧
    ∀ x ∈ xs, ∀ e, x.isBad e = false

theorem ready_two (a b : BitVec 5) (m : BitVec 2) (ha : a.toNat < 24) (hb : b.toNat < 24) :
    vectorReady ready ready.me.q [(a, m.getLsbD 1), (b, m.getLsbD 0)] 0 :=
  ⟨ready_mayIssue, _, _, _, rfl, ready_sources a b m ha hb, by
    simp only [List.mem_cons, List.not_mem_nil, or_false]
    rintro x (rfl | rfl) e <;> exact clean_register _ rfl _ _⟩

theorem ready_one (a : BitVec 5) (m : Bool) (ha : a.toNat < 24) : vectorReady ready ready.me.q [(a, m)] 0 :=
  ⟨ready_mayIssue, _, _, _, rfl, by simp [readSources, readSource, ha]; exact ⟨rfl, rfl⟩, by
    simp only [List.mem_cons, List.not_mem_nil, or_false]
    rintro x rfl e; exact clean_register _ rfl _ _⟩

theorem ready_none : vectorReady ready ready.me.q [] 0 :=
  ⟨ready_mayIssue, _, [], _, rfl, rfl, by simp⟩

/-- A queue entry as a source, popped or only looked at. -/
def inbound : State := engineOf .vector { timed with q := { timed.q with vq := timed.q.vq.set 3 [⟨[], []⟩] } }

/-- A stage that is not active suppresses an order. -/
def staged : State :=
  engineOf .vector { timed with vec := { timed.vec with vloop := some ⟨1, 2, 3, 1, none⟩ } }

theorem witness_VectorFloat : vectorReady ready ready.me.q [(7, (3 : BitVec 2).getLsbD 1), (23, (3 : BitVec 2).getLsbD 0)] 0 ∧
    (∀ e, (ready.me.vec.operand (physReg ready.me.vec.rrb 23)).isBad e = false) ∧ (23 : BitVec 5).toNat < 24 ∧
    (readSources inbound.me.vec inbound.me.q [(27, true), (27, false)]).isSome = true ∧
    staged.me.vec.active 7 = none ∧ MayIssue staged .vector true 0 staged.me.q :=
  ⟨ready_two 7 23 3 (by decide) (by decide), clean_register _ rfl _, by decide, rfl, rfl, by unfold MayIssue; decide⟩

theorem witness_VectorUnary : vectorReady ready ready.me.q [(23, (1 : BitVec 1) = 1)] 0 ∧
    vectorReady ready ready.me.q [(0, false)] 0 :=
  ⟨ready_one 23 true (by decide), ready_one 0 false (by decide)⟩

theorem witness_VectorInteger : vectorReady ready ready.me.q [(0, (3 : BitVec 2).getLsbD 1), (23, (3 : BitVec 2).getLsbD 0)] 0 ∧
    ((23 : BitVec 5).toNat < 24) ∧ ¬ ((24 : BitVec 5).toNat < 24) :=
  ⟨ready_two 0 23 3 (by decide) (by decide), by decide, by decide⟩

theorem witness_VectorMovesAndMasks : vectorReady ready ready.me.q [(0, false), (23, false)] 0 ∧
    vectorReady ready ready.me.q [] 0 ∧ (15 : BitVec 10).toNat < 16 ∧ (63 : BitVec 10).toNat < 64 ∧
    (∃ xs q, readSources ready.me.vec ready.me.q [(0, false), (23, false)] = some (xs, q) ∧ ∀ x ∈ xs, x.bad = []) :=
  ⟨ready_two 0 23 0 (by decide) (by decide), ready_none, by decide, by decide, _, _, ready_sources 0 23 0 (by decide) (by decide), by
    simp only [List.mem_cons, List.not_mem_nil, or_false]
    rintro x (rfl | rfl) <;> rfl⟩

theorem witness_VectorConversions : MayIssue ready .vector true 0 ready.me.q ∧ (23 : BitVec 5).toNat < 24 ∧ ready.me.vec.bad = [] ∧
    (ready.me.vec.operand (physReg 0 23)).checkBad 3 ⟨true, true, false, 0⟩ = false ∧
    (ready.me.vec.operand (physReg 0 23)).checkBad 7 ⟨true, true, false, 0⟩ = true :=
  ⟨ready_mayIssue, by decide, rfl, by decide, by decide +kernel⟩

/-- A vector engine in a loop whose body ends at step 3. -/
def looping (sp : Byte) : State :=
  engineOf .vector { timed.modEng .vector (fun g => { g with table := [(3, 0x02C00000)], step := 1 }) with
    vec := { timed.vec with sp := sp, vloop := some ⟨1, 2, 3, 1, none⟩ } }

theorem witness_VectorLoopAndResults :
    MayIssue ready .vector true 0 ready.me.q ∧ ready.me.vec.vloop = none ∧
    MayIssue (looping 3) .vector true 0 (looping 3).me.q ∧ (looping 3).me.vec.vloop = some ⟨1, 2, 3, 1, none⟩ ∧
    ((looping 3).me.engine .vector).loops = [] ∧
    (List.range' 1 3).any (((3 &&& 0xFE#8) <<< 1) ||| 3#8).getLsbD = true ∧
    (List.range' 1 3).any (((0x10 &&& 0xFE#8) <<< 1) ||| 1#8).getLsbD = false ∧
    ((looping 3).me.vec.sp.getLsbD 1 = true ∧ (looping 3).me.vec.sp.getLsbD 2 = false) ∧
    (vecGet (ready).me.q.oq [] 3).length < 4 ∧
    (∃ w : VResult, w.dest = .reg 23 ∧ w.elems.map Prod.fst = List.range 1024 ∧ w.poison = []) ∧
    (∃ w : VResult, w.dest = .queue 3 0 ∧ w.elems.map Prod.fst = List.range 1024) ∧
    (∃ w : VResult, w.dest = .mask 7 ∧ ∀ p ∈ w.elems, p.1 < 1024) ∧
    4 ≤ (vecGet (engineOf .vector { timed with q := { timed.q with oq := timed.q.oq.set 3 (List.replicate 4 ⟨[], []⟩) } }).me.q.oq
      [] 3).length := by
  refine ⟨ready_mayIssue, by decide, by unfold MayIssue; decide, by decide, by decide, by decide, by decide, by decide, by decide,
    ⟨⟨.reg 23, (List.range 1024).map (fun e => (e, 0)), [], false⟩, rfl, by simp [Function.comp_def], rfl⟩,
    ⟨⟨.queue 3 0, (List.range 1024).map (fun e => (e, 0)), [], false⟩, rfl, by simp [Function.comp_def]⟩,
    ⟨⟨.mask 7, [(1023, 1)], [], false⟩, rfl, by decide⟩, by decide⟩

theorem test_vloope_found : findVloope ((looping 3).me.engine .vector) 1024 2 = some 3 := by decide

/-! ### Matrix orders -/

/-- A matrix engine with a waybill `wb`, parameters, an FP8 tile at the head of ring 15 and FP8 in stationary slot 3. -/
def matrix (wb : Word) (params : List Pushed) : State :=
  engineOf .matrix { timed with
    q := { timed.q with waybill := [⟨wb, false⟩], param := params }
    mx := { timed.mx with slots := timed.mx.slots.set 3 { Slot.reset with fmt := 3 } }
    ring := timed.ring.set 15 { Ring.reset with base := 0x100, slot := 17, count := 2, tags := [(0, 0x08030000)] } }
theorem matrix_mayIssue (wb : Word) (l : List Pushed) : MayIssue (matrix wb l) .matrix true 0 (matrix wb l).me.q :=
  ⟨rfl, fun _ => Nat.zero_le _, rfl⟩

theorem witness_MatrixTiles :
    MayIssue (matrix 0 [⟨5, false⟩]) .matrix true 0 (matrix 0 [⟨5, false⟩]).me.q ∧ (matrix 0 []).me.mx.tileBad 63 = [] ∧
    (matrix 0 [⟨5, false⟩]).me.q.param = ⟨5, false⟩ :: [] ∧ (matrix 0 []).me.q.param = [] ∧
    (∀ w ∈ (matrix 0 []).me.mx.windows, w.tile ≠ (63 : BitVec 6).toNat) ∧ (matrix 0 []).me.mx.windows.length < 8 ∧
    (∃ s : State, 8 ≤ s.me.mx.windows.length ∧ (∃ w ∈ s.me.mx.windows, w.tile = 0) ∧ MayIssue s .matrix true 0 s.me.q) ∧
    (∃ ws : List Word, ws.length = 4096) ∧
    (∃ s : State, ∃ j, s.me.mx.jobs.find 4 = some j ∧ (3 : Nat) < 4) := by
  refine ⟨matrix_mayIssue _ _, by decide, by decide, by decide, by decide, by decide,
    ⟨engineOf .matrix { timed with mx := { timed.mx with windows := List.replicate 8 ⟨0, 0, true, false, [], [], [], [], []⟩ } },
      by decide, by decide, by unfold MayIssue; decide⟩, ⟨List.replicate 4096 0, List.length_replicate⟩,
    ⟨engineOf .matrix { timed with mx := { timed.mx with jobs := [(4, ⟨.nop, 0, 0, 0, 0, 0, 0, 0, 0, 0, false, [], [], 0, [],
      0, Slot.reset, Slot.reset, none, none, 0, 0, false, false⟩)] } }, _, rfl, by decide⟩⟩

/-- A job of the matrix engine; a window over tile 7. -/
def job (order : Instr) (wb : Word) : MatrixJob :=
  ⟨order, 0, 0, wb, 2, 15, 0, 0x100, 0, 0, false, [], [], 0, [], 0, Slot.reset, Slot.reset, none, none, 0, 0, false, false⟩
def windowed (w : Window) : State := engineOf .matrix { timed with mx := { timed.mx with windows := [w] } }

theorem witness_WindowsSlotsAndDrains :
    (∃ w ∈ (windowed ⟨7, 5, true, true, [], [], [(15, 0)], [], []⟩).me.mx.windows, w.tile = 7 ∧ w.opened = 5) ∧
    (∀ w ∈ (windowed ⟨7, 6, true, true, [], [], [(15, 0)], [], []⟩).me.mx.windows, w.tile = 7 → w.opened ≠ 5) ∧
    (windowed ⟨7, 5, true, true, [], [], [(15, 0)], [], []⟩).me.mx.windows.find? (fun w => w.tile = 7) =
      some ⟨7, 5, true, true, [], [], [(15, 0)], [], []⟩ ∧
    (∀ x ∈ (windowed ⟨7, 5, true, true, [], [], [(15, 0)], [], []⟩).me.mx.windows, x.tile ≠ 7 → ((15, 0) : Nat × Nat) ∉ x.held) ∧
    (vecGet timed.q.oq [] 3).length < 4 ∧
    4 ≤ (vecGet (timed.q.oq.set 3 (List.replicate 4 ⟨[], []⟩)) [] 3).length ∧
    (let s := engineOf .matrix { (matrix 0x33 []).me with mx := { timed.mx with jobs := [(4, job (.mdrainRing 0 0 2 15) 0)] } };
      s.me.mx.jobs.find 4 = some (job (.mdrainRing 0 0 2 15) 0) ∧ (s.me.getRing 15).full (s.me.getRing 15).tail.toNat = true) ∧
    (let s := engineOf .matrix { timed with mx := { timed.mx with jobs := [(4, job (.mdrainRing 0 0 2 15) 0)] } };
      (s.me.getRing 15).full (s.me.getRing 15).tail.toNat = false) := by decide

theorem witness_MatrixProductsAndUnits :
    MayIssue (matrix 0x33 []) .matrix true 0 (matrix 0x33 []).me.q ∧
    (matrix 0x33 []).me.q.waybill = ⟨0x33, false⟩ :: [] ∧ bits (0x33 : Word) 31 22 = 0 ∧
    pairOf (wbMfmt 0x33) (wbSfmt 0x33) = some (64, 32) ∧ ((matrix 0x33 []).me.mx.slot 3).bad = [] ∧
    productOk 0x33 ((matrix 0x33 []).me.mx.slot 3) ((matrix 0x33 []).me.mx.carry.find 2).isSome = true ∧
    wbGrp 0x33 ≠ 3 ∧ wbMode 0x33 ≤ 1 ∧ wbMfmt 0x33 ≤ 5 ∧
    (matrix 0x33 []).me.laneByOther 0 (matrix 0x33 []).tt ((matrix 0x33 []).tt + 64 + 1) = false ∧
    SlotReady (matrix 0x33 []) 15 3 0 ∧ tagExpected 0x33 true (headTag (matrix 0x33 []) 15) = true ∧
    tagPair (headTag (matrix 0x33 []) 15) ((matrix 0x33 []).me.mx.slot 3).tag = true ∧
    tagPair (arrayTag 0x33 true) ((matrix 0x33 []).me.mx.slot 3).tag = true ∧ (matrix 0x33 []).me.mx.tileBad 63 = [] ∧
    (let s := engineOf .matrix { timed with mx := { timed.mx with jobs := [(4, job (.mmul 0 0 2 15 3) 0x33)] } };
      s.me.mx.jobs.find 4 = some (job (.mmul 0 0 2 15 3) 0x33) ∧
      pairOf (wbMfmt (job (.mmul 0 0 2 15 3) 0x33).waybill) (wbSfmt (job (.mmul 0 0 2 15 3) 0x33).waybill) = some (64, 32)) := by
  refine ⟨matrix_mayIssue _ _, ?_⟩
  unfold SlotReady; decide

theorem witness_MatrixLoads :
    MayIssue (matrix 0x33 []) .matrix true 0 (matrix 0x33 []).me.q ∧
    (wbSfmt 0x33 ≤ 8 ∧ (matrix 0x33 []).me.laneByOther 1 (matrix 0x33 []).tt ((matrix 0x33 []).tt + 65) = false ∧
      (matrix 0x33 []).me.laneByOther 0 (matrix 0x33 []).tt ((matrix 0x33 []).tt + 65) = false) ∧
    SlotReady (matrix 0x33 []) 15 (wbSfmt 0x33) (wbGrp 0x33) ∧
    tagExpected 0x33 false { headTag (matrix 0x33 []) 15 with axis := !(headTag (matrix 0x33 []) 15).axis } = true ∧
    wbRnd 0x33 ≠ 3 ∧ wbSfmt 0x33 ≤ 5 ∧ wbRte 0x33 = false ∧
    (matrix 0x33 [⟨4095, false⟩, ⟨1, false⟩]).me.q.param = ⟨4095, false⟩ :: ([⟨1, false⟩] ++ []) ∧
    0 < (4095 : Word).toNat ∧ (4095 : Word).toNat < 4096 := by
  refine ⟨matrix_mayIssue _ _, ?_⟩
  unfold SlotReady; decide

/-- A flag that a line sets stands in the flags of a tile. -/
theorem ovf_of_line (l : List Line) (g : QFlags) (h : g.ovf = true) : (l.foldl (fun g x => g.or x.flags) g).ovf = true := by
  induction l generalizing g with
  | nil => exact h
  | cons x r ih => exact ih _ (by simp [QFlags.or, h])

/-- A matrix engine whose tile 63 begins with an infinity and is zero elsewhere. -/
def infinite : State :=
  engineOf .matrix { (matrix 0x33 []).me with mx := { timed.mx with acc := [(4096 * 63, 0x7F800000)] } }

/-- A promotion of that tile sets OVF in its first column. -/
theorem witness_MatrixLoads_overflow :
    (promote (promotion infinite.me 0x33 infinite.me.view.rngseed) (arrayTag 0x33 false) (infinite.me.mx.tileWords 63) []).2.ovf =
      true := by
  have ws : ∀ i, i < 4096 → (infinite.me.mx.tileWords 63).toArray.getD i 0 = infinite.me.mx.acc.get (4096 * 63 + i) := by
    intro i hi
    simp [MatrixStore.tileWords, hi, Array.getD, Sys2Proof.getElem_getRange]
  have col : (List.range 64).map (fun k => f32 ((infinite.me.mx.tileWords 63).toArray.getD (64 * k + 0) 0)) =
      f32 0x7F800000 :: List.replicate 63 (f32 0) := by
    rw [List.map_congr_left (g := fun k => f32 (infinite.me.mx.acc.get (4096 * 63 + (64 * k + 0)))) (fun k hk => by
      rw [ws _ (by have := List.mem_range.mp hk; omega)])]
    decide +kernel
  have all : ∀ f : Nat → Line, (f 0).flags.ovf = true →
      (((List.range 64).map f).foldl (fun g l => g.or l.flags) QFlags.none).ovf = true := by
    intro f h
    rw [show List.range 64 = 0 :: List.range' 1 63 from by decide, List.map_cons, List.foldl_cons]
    exact ovf_of_line _ _ (by simp [QFlags.or, h])
  clear ws
  generalize infinite.me.mx.tileWords 63 = w at col ⊢
  unfold promote
  dsimp only
  apply all
  rw [col]
  decide +kernel

theorem witness_MatrixDrains :
    MayIssue (matrix 0x33 []) .matrix true 0 (matrix 0x33 []).me.q ∧ bits (0x33 : Word) 31 22 = 0 ∧ wbRnd 0x33 ≠ 3 ∧
    wbSfmt 0x33 ≤ 8 ∧ isGroupFmt (wbSfmt 0x33) = false ∧ isGroupFmt (wbSfmt 0x70) = true ∧ wbGrp 0x80070 < 2 ∧
    drained 0x100070 62 = [62, 63] ∧ (∀ x ∈ drained 0x100070 62, (matrix 0x100070 []).me.mx.tileBad x = []) ∧
    (let g := { Ring.reset with base := 0x100, slot := 40, count := 2 };
      tileSize (wbSfmt 0x100070) (wbGrp 0x100070) ≤ g.slot.toNat * 256 ∧
      ∀ x ∈ [g.tail.toNat, (g.after g.tail).toNat], g.full x = false) ∧
    (let s := matrix 0x33 [];
      (s.me.getRing 15).full (s.me.getRing 15).tail.toNat = true ∧
      tileSize (wbSfmt 0x33) (wbGrp 0x33) ≤ (s.me.getRing 15).slot.toNat * 256) ∧
    (let s := engineOf .matrix { (matrix 0x33 []).me with ring := timed.ring.set 15 { Ring.reset with slot := 17, count := 2 } };
      (s.me.getRing 15).full (s.me.getRing 15).tail.toNat = false ∧ (s.me.getRing 15).fill = 0 ∧
      s.me.laneByOther 4 (s.tt + 8) (s.tt + 73) = false) := by
  refine ⟨matrix_mayIssue _ _, ?_⟩
  decide

/-! ### Moving orders -/

/-- A store engine whose generator 7 stands at an address; ring 15 stands at 0x40000 with FP32 slots; queue 3 holds an entry. -/
def moving (a : BitVec 20) (lanes : List LaneHold) : State :=
  engineOf .store { timed.modEng .store (fun g => { g with ag := g.ag.set 7 ⟨a, 0x20, 0x20, 1, 1, 0⟩ }) with
    ring := timed.ring.set 15 { Ring.reset with base := 0x40000, slot := 64, count := 2 }
    q := { timed.q with oq := timed.q.oq.set 3 [⟨[], []⟩] }
    pad := { timed.pad with lanes := lanes } }

theorem witness_MoveOrders :
    MayIssue (moving 0xBF000 []) .store true 0 (moving 0xBF000 []).me.q ∧
    (moving 0xBF000 []).me.laneTaken .store 0 7 ((moving 0xBF000 []).tt + 1) ((moving 0xBF000 []).tt + 17) = false ∧
    (moving 0xBF000 [⟨7, .load, 0, 2⟩]).me.laneTaken .store 0 7 1 2 = true ∧
    (0 ≤ walkOf (moving 0xBF000 []) .store 7 ∧ walkOf (moving 0xBF000 []) .store 7 + (256 * 16 : Nat) ≤ 0xC0000) ∧
    (0 ≤ walkOf (moving 0xBD000 []) .store 7 ∧ walkOf (moving 0xBD000 []) .store 7 + (768 * 16 : Nat) ≤ 0xC0000) ∧
    ¬ (0 ≤ walkOf (moving 0xBF020 []) .store 7 ∧ walkOf (moving 0xBF020 []) .store 7 + (256 * 16 : Nat) ≤ 0xC0000) ∧
    MayFill (moving 0xBF000 []) 15 16 ∧ vecGet (moving 0 []).me.q.oq [] 3 = ⟨[], []⟩ :: [] ∧
    vecGet (moving 0 []).me.q.oq [] 2 = [] ∧ (moving 0 []).me.laneTaken .store 0 8 0 1 = false ∧
    (moving 0 []).me.laneTaken .store 0 7 21 37 = false := by
  unfold MayIssue MayFill; decide

/-- An LDQ in flight of which one beat is left. -/
def gathering (q : Nat) (f : List Entry) : State :=
  one { timed with
    moves := [(4, ⟨.nop, 0, 0, q, 1, 0, ⟨[], []⟩, [], [], 1, 0, 0⟩)]
    q := { timed.q with vq := timed.q.vq.set 3 f } }

theorem witness_BeatsMove :
    (∀ j, BeatDone.fill 15 0 ≠ .drain j) ∧
    (let s := one { timed with ring := timed.ring.set 15 { Ring.reset with fill := 1, writes := 1 } };
      (s.me.getRing 15).gen = 0 ∧ (s.me.getRing 15).writes = 1 ∧ (s.me.getRing 15).fill = (s.me.getRing 15).slot.toNat) ∧
    (let s := one { timed with ring := timed.ring.set 15 { Ring.reset with fill := 1 } };
      (s.me.getRing 15).writes = 0 ∧ (s.me.getRing 15).fill = (s.me.getRing 15).slot.toNat) ∧
    (let s := one { timed with ring := timed.ring.set 15 { Ring.reset with fill := 1, count := 1, tags := [(0, 0x08000000)] } };
      (s.me.getRing 15).writes = 0 ∧ (s.me.getRing 15).fill = (s.me.getRing 15).slot.toNat ∧
      (s.me.getRing 15).full (s.me.getRing 15).tail.toNat = true ∧ ((one timed).me.getRing 15).full 0 = false) ∧
    (one timed).me.pad.poison 0xBFF00 256 = [] ∧
    (∃ j, (gathering 3 []).me.moves.find 4 = some j ∧ 0 < j.left ∧ j.left = 1 ∧ j.queue < 4) ∧
    (vecGet (gathering 3 []).me.q.vq [] 3).length < 4 ∧
    4 ≤ (vecGet (gathering 3 (List.replicate 4 ⟨[], []⟩)).me.q.vq [] 3).length := by
  refine ⟨by simp, by decide, by decide, by decide, by decide, ⟨_, rfl, by decide⟩, by decide, by decide⟩

/-! ### Copies, rows, leased commands -/

/-- A copy of one unit of twelve pieces of 32 bytes between a depot span and a scratchpad, as given; the state that runs it. -/
def depotSpan : Span := ⟨true, 0, 0x10000, false, [0x10000040000]⟩
def copyOf (src dst : Option Span) : Copy :=
  ⟨0, some 0, 0, 0, 8, 8, [0, 0, 0, 0, 384, 0x10001], [], none, src, dst, 0, 2, [], [], [], [], [], [], [], []⟩
def copying (k : Copy) : State := { one timed with copies := [(0, k)] }

theorem witness_CopyUnits :
    (let k := copyOf (some depotSpan) none;
      (copying k).copies.find (copying k).cur = some k ∧ (copying k).transfersRun k.node = true ∧ k.onHost = false ∧
      k.srcHbm = false ∧ k.dstHbm = false ∧ k.reading.contains 0 = false ∧ k.src.isSome = true ∧ k.unit 0 = List.range 12) ∧
    (copyOf none (some depotSpan)).src = none ∧
    (copyOf (some ⟨true, 0, 0x10000, false, [0x8000000000000]⟩) none).onHost = true ∧
    (let k := { copyOf (some depotSpan) none with reading := [0] };
      let ps := (k.unit 0).map ((copying k).pieceBytes k);
      k.reading.contains 0 = true ∧ k.engine < 64 ∧ (∀ p ∈ ps, p.poison = []) ∧ 0 + 32 * ps.length ≤ 384 ∧
      ((copying k).carried.find (64 + k.srcDie 0)).getD 0 < 8) ∧
    (let k := { copyOf (some depotSpan) none with reading := [0] };
      let s := { copying k with carried := [(0, 32)] };
      let ps := (k.unit 0).map (s.pieceBytes k);
      384 < (s.carried.find k.engine).getD 0 + 32 * ps.length) ∧
    (let k := { copyOf (some depotSpan) none with writing := [0], units := [(0, ⟨[], []⟩)] };
      k.writing.contains 0 = true ∧ k.units.find 0 = some ⟨[], []⟩ ∧ k.dst = none ∧
      ((copying k).swizzleFault k 0).1 = false ∧ k.written.length + 1 < k.total) ∧
    (let k := { copyOf (some ⟨true, 0, 0x10000, false, [0x8000000000000]⟩) (some depotSpan) with units := [(0, ⟨[], []⟩)] };
      let s := copying k;
      k.onHost = true ∧ (s.sideTurn s.cur k.src (k.srcOff (k.unitPieces * 0))).1 = true ∧
      (s.sideTurn s.cur k.dst (k.dstOff (k.unitPieces * 0))).1 = true ∧ k.written.length + 1 ≠ k.total ∧
      (s.swizzleFault k 0).1 = false) ∧
    (let x : Span := ⟨true, 0, 0x10000, false, [0x140000000]⟩;
      let k := copyOf (some x) none;
      k.units.find k.written.length = none ∧ tierOf (spanAt x (k.srcOff (k.unitPieces * 0))) = some .hbm) ∧
    (copyOf none (some depotSpan)).writing.contains 0 = false ∧ (copyOf none (some depotSpan)).dst.isSome = true ∧
    (∀ q, q < (copyOf none (some depotSpan)).pieces → ((copying (copyOf none (some depotSpan))).pieceBytes
      (copyOf none (some depotSpan)) q).poison = []) := by decide

def row (op begun : Nat) : RowCmd := ⟨op, 0, 0x10000, 0x20000, 2, 64, 256, 0, 0, [], [], begun⟩
def rowing (op begun : Nat) : State := one { timed with rows := [(4, row op begun)] }

theorem witness_RowPhases :
    (rowing 1 1).me.rows.find 4 = some (row 1 1) ∧ 1 < 4096 ∧ (row 1 1).len ≤ 16384 ∧ 1 = (row 1 1).begun ∧
    0 ≠ (row 1 1).begun ∧ RowClean (row 0 1) 0 ∧ RowClean (row 2 1) 0 := by
  refine ⟨by decide, by decide, by decide, by decide, by decide, ⟨fun i _ => rfl, rfl⟩, ⟨fun i _ => rfl, rfl⟩⟩

def leasedCmd (op : Nat) (finish : Option Nat) (status : Option DWord) : LeasedCmd :=
  ⟨op, 2, 0, 0, 3, List.replicate 8 0, 1, 0, 0, finish, [], [], [], [], none, none, none, [], [], 0, status, none, []⟩
def commanding (r : LeasedCmd) : State := { one { timed with leased := [(4, r)] } with clock := 10 }

theorem witness_LeasedCommands :
    (let r := leasedCmd 8 (some 100) none;
      (commanding r).me.leased.find 4 = some r ∧ r.isShunter = false ∧ r.finish = some 100 ∧ (commanding r).tt < 100 ∧
      r.status = none) ∧
    (let r := { leasedCmd 0x18 none none with start := 10 };
      r.isShunter = true ∧ (commanding r).tt = r.start ∧ (commanding r).me.place.node = some 0 ∧
      ∀ d ∈ (commanding r).agenda, d.who = 4 → d.instr ≠ .missingWindowTimeout) ∧
    (let r := leasedCmd 8 (some 10) (some 7);
      r.finish = some 10 ∧ 10 ≤ (commanding r).tt ∧ r.status = some 7 ∧ r.reg = (3 : BitVec 5).toNat ∧
      (commanding r).me.drv.wroteG[(3 : BitVec 5).toNat] < (commanding r).tt ∧ (commanding r).me.underGrant r = false) ∧
    (let r := { leasedCmd 0 (some 10) (some 7) with seqOut := some ⟨0, false, 0, 1, 0, [], true⟩ };
      let k := { timed with leased := [(4, r)], lease := timed.lease.set 2 (some ⟨0, 0, 0, true, false, false, false, 0⟩) };
      r.seqOut.isSome = true ∧ (one k).me.underGrant r = true) := by decide

/-! ### Timetables -/

/-- A node with one point, at address 0, and one segment, 0, that follows it. -/
def pointed : Node :=
  { Node.bare with points := [⟨0, 0, Vector.replicate 4 0, 0, 64⟩],
                   segments := [⟨Vector.replicate 3 0x100, Vector.replicate 3 0, 0, Vector.replicate 3 0⟩], words := List.replicate 16 0 }
def atNode (k : Core) (nd : Node) : State := { one k with nodes := [(0, nd)] }

theorem witness_PointLeavesTimedMode :
    (let s := atNode timed pointed;
      isBox s.cur = false ∧ s.me.timed = true ∧ s.me.place.node = some 0 ∧ s.nodes.find 0 = some pointed ∧
      pointed.pointAt s.me.drv.pc = some 0 ∧ s.pointClean s.cur = true ∧ (∀ i : Fin 8, s.me.leaseAt i = none) ∧
      pointed.victimFor = none ∧ pointed.latched = false ∧ pointed.leaseWait = false) ∧
    (let s := atNode (timed.modCsr (fun c => { c with tvec := 0x40 })) { pointed with firstPoint := some 0, latched := true };
      s.pointClean s.cur = true ∧ s.me.csr.tvec ≠ 0xFFFFFFFF ∧ s.me.priv = false) ∧
    (∀ i, (atNode timed pointed).me.leaseAt i = none) ∧
    Node.bare.pointAt (one timed).me.drv.pc = none ∧
    (one { timed with vec := { timed.vec with vloop := some ⟨1, 2, 3, 1, none⟩ } }).pointClean 0 = false ∧
    TrapsToVector (one free) := by
  refine ⟨by decide, by decide, fun i => ?_, by decide, by decide, traps_free⟩
  by_cases h : i < 8
  · have : ∀ i : Fin 8, (atNode timed pointed).me.leaseAt i = none := by decide
    exact this ⟨i, h⟩
  · simp [Core.leaseAt, vecGet, h]

def departing (f : Core → Core) (nd : Node) : State :=
  atNode (f { free with place := { free.place with point := some 0 } }) nd

theorem witness_DeparturesAndExit :
    (let s := departing id pointed;
      s.me.place.node = some 0 ∧ s.nodes.find 0 = some pointed ∧ isBox s.cur = false ∧ s.me.timed = false ∧
      pointed.nextOf s.me.place.point ≠ 0xFFFF ∧ pointed.arrived + 1 = (s.coresOf 0).length ∧ pointed.npkg = 1 ∧
      pointed.proposals = []) ∧
    (let s := { departing id pointed with cores := (departing id pointed).cores ++ [(1, free)] };
      pointed.arrived + 1 < (s.coresOf 0).length) ∧
    (TrapsToVector (one free) ∧ Node.bare.nextOf (one free).me.place.point = 0xFFFF) ∧
    (pointed.segments[pointed.segment]?.isSome = true ∧ { pointed with dreg := some 320 }.dreg = some 320 ∧
      (departing id pointed).me.drv.late = []) ∧
    ((free.modEng .load (fun g => { g with status := .armed })).engine .load).status = .armed ∧
    (let s := one ([Eng.load, .matrix, .vector, .store].foldl (fun k e => k.modEng e (fun g => { g with status := .done })) timed);
      (∀ nd, s.nodes.find 0 = some nd → s.clock - s.me.csr.depart.toNat ≤ nd.space) ∧
      s.me.timed = true ∧ s.me.place.fired = false ∧ (s.me.engine .load).status = .done ∧ (s.me.engine .matrix).status = .done ∧
      (s.me.engine .vector).status = .done ∧ (s.me.engine .store).status = .done) ∧
    ((one timed).me.engine .load).status ≠ .done ∧
    (let s := { atNode timed { pointed with space := 0 } with clock := 5 };
      s.me.timed = true ∧ s.me.place.node = some 0 ∧ (∃ nd, s.nodes.find 0 = some nd ∧ nd.space < s.clock - s.me.csr.depart.toNat)) ∧
    (let s := one (timed.modDrv (fun d => { d with hold := some .exited }));
      s.me.drv.hold = some .exited ∧ s.me.place.fired = false ∧ s.me.q.empty = true) ∧
    (one { timed with q := { timed.q with paramIn := 1 } }).me.q.empty = false := by
  refine ⟨by decide, by decide, ⟨traps_free, by decide⟩, by decide, by decide, ⟨fun nd h => ?_, by decide⟩, by decide,
    ⟨by decide, by decide, _, rfl, by decide⟩, by decide, by decide⟩
  exact Nat.le_trans (by decide) (Nat.zero_le _)

/-! ### Power, pairs -/

/-- Pair 17 of the package, as given. -/
def paired (p : Pair) : State :=
  { State.reset with
    cur := 17
    clock := 10000
    dies := State.reset.dies.set 1 { Die.reset with pair := Die.reset.pair.set 1 p } }

theorem witness_ClockAndGrants :
    (∃ k, (one timed).cores.find 0 = some k ∧ k.view.ectl.getLsbD 0 = false) ∧
    (one { timed with view := { timed.view with ectl := 1 } }).me.view.ectl.getLsbD 0 = true ∧
    overlap (one timed).me.mx.ksteps ((one timed).tt - 63) ((one timed).tt + 1) ≤
      (one timed).me.mx.lastCount + (one timed).me.view.slewstep.toNat ∧
    (let s := { one { timed with mx := { timed.mx with ksteps := [(40, 80)] } } with clock := 63 };
      s.me.mx.lastCount + s.me.view.slewstep.toNat < overlap s.me.mx.ksteps (s.tt - 63) (s.tt + 1)) ∧
    (let s := { one timed with plevel := 3 }; (s.pgrant &&& 0xFFFFFFFF0007).extractLsb' 0 3 < s.plevel.extractLsb' 0 3) ∧
    (paired Pair.reset).cur < 128 ∧ (one timed).cur = (0 : Fin 8).val ∧
    (box (·.modDrv (fun d => { d with hold := some .wfi }))).me.drv.hold = some .wfi := by
  refine ⟨⟨_, rfl, by decide⟩, by decide, by decide, by decide, by decide, by decide, by decide, by decide⟩

theorem witness_PairsAndRetention :
    (let s := paired Pair.reset;
      s.cur < 128 ∧ s.getPair s.cur = Pair.reset ∧ Pair.reset.req = false ∧ Pair.reset.clk = true ∧
      Pair.reset.state = 2 ∧ Pair.reset.rbusy = false ∧ s.placed (s.cur / 16) (s.cur % 16) = false) ∧
    (let q := { Pair.reset with req := true, reqAt := 10000 - 64 };
      (paired q).getPair (paired q).cur = q ∧ q.reqAt + 64 ≤ (paired q).clock) ∧
    (let q := { Pair.reset with clk := false, clkOff := 10000 - 31 };
      (paired q).getPair (paired q).cur = q ∧ (paired q).clock < q.clkOff + 32) ∧
    (let q := { Pair.reset with clk := false, rail := false, ramp := 10000 };
      (paired q).getPair (paired q).cur = q ∧ q.ramp = (paired q).clock) ∧
    (let q := { Pair.reset with clk := false, clkOff := 10000 - 32 }; q.clkOff + 32 ≤ (paired q).clock ∧ q.rail = true) ∧
    (let q := { Pair.reset with ramp := 10000 }; q.rail = true ∧ q.ramp = (paired q).clock) ∧
    (let q := { Pair.reset with ack := true, shot := some (5, 6) };
      q.ack = true ∧ q.clk = true ∧ q.state = 2 ∧ q.rbusy = false ∧ q.shot = some (5, 6)) ∧
    (let q := { Pair.reset with req := true }; (q.clk = true ∧ q.state = 2 ∧ q.rbusy = false) ∧ q.req = true) ∧
    (let s := box (·.modDrv (fun d => { d with hold := some .wfi })); (s.core (4096 + 0 / 16)).drv.hold = some .wfi) ∧
    (let s := atNode timed { Node.bare with words := List.replicate 16 0x21 };
      s.cur = (0 : Fin 8).val ∧ s.placed 0 0 = true ∧ (s.getPair 0).retired = false ∧
      (atNode timed { Node.bare with slots := [(7, [0x80000000])] }).testMay 0 (5 : BitVec 8) (7 : BitVec 32) = false ∧
      (State.reset.cur = (0 : Fin 8).val ∧ State.reset.placed 0 0 = false ∧ State.reset.testMay 0 (3 : BitVec 8) (0 : BitVec 32) = true)) := by decide

/-! ### Stops, holds, the walker -/

theorem witness_StopsAndHolds :
    (one timed).nodes.find (one timed).cur = some Node.bare ∧ Node.bare.state ≠ .done ∧ Node.bare.stopping = none ∧
    (one timed).inFlight 0 = false ∧ 
    (one { timed with pad := { timed.pad with claims := [⟨0, 8, 0, 1, 0, .rowRead 0 0 0 4⟩] } }).inFlight 0 = true ∧
    Node.bare.holdAt = none ∧
    ((one timed).coresOf 0).Nodup ∧ Node.bare.holds_ = true ∧
    (tierOf (Node.bare.record / 64 * 64)).isSome = true := by decide

/-- A kernel node of one pair with its image at 0x10000100000 and its record at 0x10000200000; the image. -/
def kernel (state : NodeState) : Node :=
  { Node.bare with state := state, words := [0, 0, 0x100000, 0x100, 0, 0, 0x200000, 0x100, 0x221, 0, 0, 0, 0, 0, 0, 0] }
def image (magic : Nat) : Memory :=
  [(0, 4, magic), (4, 2, 1), (8, 1, 1), (9, 1, 1), (10, 1, 1), (12, 4, 256), (16, 4, 1), (20, 2, 1), (24, 4, 0xFFFFFFFF),
   (28, 4, 1024), (32, 4, 256), (36, 4, 4), (40, 4, 256), (44, 4, 512), (48, 4, 512), (52, 4, 512), (60, 4, 512), (68, 4, 512)].foldl
    (fun m p => Memory.writeLE m (0x10000100000 + p.1) p.2.1 p.2.2) (Memory.writeLE [] 0x10000000000 8 0x10000010001)
def walking (nd : Node) (magic : Nat) : State :=
  { one free with
    nodes := [(3, nd)]
    cores := []
    mem := image magic
    host := { HostRegs.reset with phase := 5, roottab := 0x10000000000, gn := 5, gbase := 0x10000300000 } }
/-- A slot of the graph area that holds an empty-range node, and one that holds nothing. -/
def submitting (w : Nat) : State :=
  let s := walking (kernel .ready) 0
  { s with mem := Memory.writeLE (Memory.writeLE (Memory.writeLE s.mem 0x10000300000 4 w) 0x10000300018 4 0x200000) 0x1000030001C 4 0x100 }

theorem witness_GraphWalker :
    (one timed).host.phase = 5 ∧ State.reset.host.phase ≠ 5 ∧
    (let s := submitting 2;
      let slot := s.tail % 2 ^ s.host.gn.toNat;
      let nd : Node := { Node.bare with
        state := .waiting, words := s.wordsAt (s.host.gbase.toNat + 64 * slot) 16, seq := s.submitted, readyAt := s.clock };
      ((1 : BitVec 24).toNat % 2 ^ 5 + 2 ^ 5 - s.tail % 2 ^ 5) % 2 ^ 5 = 1 ∧ s.nodes.find slot = none ∧
      nd.ok slot (fun d => (s.nodes.find d).isSome) = true ∧ nd.deps = []) ∧
    (let s := submitting 3;
      let slot := s.tail % 2 ^ s.host.gn.toNat;
      let nd : Node := { Node.bare with
        state := .waiting, words := s.wordsAt (s.host.gbase.toNat + 64 * slot) 16, seq := s.submitted, readyAt := s.clock };
      nd.ok slot (fun d => (s.nodes.find d).isSome) = false) ∧
    (walking (kernel .held) 0).nodes.find (3 : BitVec 24).toNat = some (kernel .held) ∧
    (walking (kernel .held) 0).selection = [] ∧ (walking (kernel .ready) 0).selection = [3] ∧ (kernel .ready).type = 0 ∧
    { kernel .ready with words := List.replicate 16 1 }.type ≠ 0 ∧ (walking (kernel .ready) 0).messages.length < 64 ∧
    { HostRegs.reset with mhead := 15 }.ringFull = true ∧
    (let s := { one timed with host := { HostRegs.reset with msize := 4, miaddr := 8 } };
      s.host.ringFull = false ∧ s.messages = [] ∧ s.host.miaddr ≠ 0) := by decide

theorem witness_GraphWalker_placement :
    (walking (kernel .ready) 0).placeable 3 (kernel .ready) = true ∧ (walking (kernel .ready) 0).groupTold 3 (kernel .ready) = true ∧
    (walking (kernel .ready) 0).placeable 3 { kernel .ready with words := List.replicate 16 0x400 } = false ∧
    (kernel .ready).saved = [] ∧
    (match (walking (kernel .ready) 0).readImage (kernel .ready) with
      | .error c => c = 0x68
      | .ok _ => false) = true ∧
    (match (walking (kernel .ready) 0x56524931).readImage (kernel .ready) with
      | .ok k => (walking (kernel .ready) 0x56524931).originFor 3 k = some (0, 0)
      | .error _ => false) = true := by decide

/-- A node in some state, the meaning's subject, with a saved core. -/
def nodeIn (state : NodeState) (f : Node → Node) : State :=
  { one free with cur := 3, nodes := [(3, f { kernel state with saved := [⟨1, 2, free⟩] })], cores := [] }

theorem witness_LoadSaveRestore :
    (∀ st ∈ [NodeState.loading, .running, .saving, .restoring], ∃ nd, (nodeIn st id).nodes.find (nodeIn st id).cur = some nd ∧
      nd.state = st ∧ nd.npkg = 1 ∧ nd.proposals = [] ∧ nd.stopping = none ∧ nd.leaseWait = false ∧ nd.relet = [] ∧ nd.saved ≠ [] ∧
      (nd.saved.map (fun v => coreAt (v.x + 8 * nd.ox) (v.y + 4 * nd.oy))).Nodup ∧
      (∀ v ∈ nd.saved, v.x < 128 ∧ v.x + 8 * nd.ox < 128) ∧ (∀ v ∈ nd.saved, v.context.span = [] ∧ v.context.unpinned = [] ∧ v.context.drv.late = [])) ∧
    (∃ nd, (nodeIn .restoring (fun nd => { nd with leaseWait := true })).nodes.find 3 = some nd ∧ nd.leaseWait = true) ∧
    (let s := { one { free with place := { free.place with node := some 3 }, acc := [access 0 .load 0 0] } with nodes := [(3, kernel .running)] };
      (kernel .running).arrived < (s.coresOf 3).length ∧ (∀ c ∈ s.coresOf 3, (s.core c).settled = false)) ∧
    (let nd := { kernel .running with words := (kernel .running).words.set 8 0x421, dreg := some 320 };
      ((nodeIn .running id).coresOf 3).length ≤ nd.arrived ∧ nd.npkg = 2 ∧ nd.dreg = some 320) ∧
    ((∀ p ∈ (nodeIn .running id).copies, p.2.node = some 3 → 0 ≤ p.2.due) ∧
      (∀ p ∈ (nodeIn .running id).fabric.buckets, p.2.node ≠ 3) ∧
      ∀ c ∈ (nodeIn .running id).coresOf 3, ((nodeIn .running id).core c).settled = true) := by
  refine ⟨?_, ⟨_, rfl, by decide⟩, by decide, by decide, by decide⟩
  simp only [List.mem_cons, List.not_mem_nil, or_false]
  rintro st (rfl | rfl | rfl | rfl) <;> exact ⟨_, rfl, by decide⟩

/-! ### HBM -/

/-- Pseudo-channel 5 of a timetable, as given, at cycle 1000. -/
def channel (q : PseudoChannel) : State :=
  { one timed with cur := 5, clock := 1000, pcs := [(5, q)], host := { HostRegs.reset with phase := 5 } }
def owned : PseudoChannel := { PseudoChannel.reset with owner := some 0, running := true }

theorem witness_DramCommands :
    (let q := { owned with banks := [(2, ⟨some 7, some 934, some 980, none, none, none⟩)], acts := [(995, 3)] };
      (channel q).getPc 5 = q ∧ ActKept q 2 1000) ∧
    (let q := { owned with banks := [(2, ⟨some 7, some 935, some 980, none, none, none⟩)] }; ¬ ActKept q 2 1000) ∧
    (let q := { owned with banks := [(2, ⟨some 7, some 954, none, some 994, some 978, none⟩)] }; PreKept q 2 1000) ∧
    Since (some 510) 490 1000 ∧ ¬ Since (some 511) 490 1000 ∧ (owned.owner = some 0) ∧ owned.skip = 0 ∧
    ((-128 : Int) ≤ owned.debt - 16 ∧ owned.debt - 16 ≤ 128) ∧ (channel owned).ownCommand 5 = false ∧
    ∃ q : PseudoChannel, (channel q).ownCommand 5 = true := by
  refine ⟨⟨by decide, ?_⟩, ?_, ?_, ?_, ?_, by decide, by decide, by decide, by decide, ⟨PseudoChannel.reset, by decide⟩⟩
  · simp [ActKept, Since, owned, PseudoChannel.reset, PseudoChannel.bank, Table.find]
  · simp [ActKept, Since, owned, PseudoChannel.reset, PseudoChannel.bank, Table.find]
  · simp [PreKept, Since, PseudoChannel.bank, Table.find]
  · simp [Since]
  · simp [Since]

/-- A copy from HBM to the scratchpad whose first unit has been given slots. -/
def hbmCopy (l : List Booked) : Copy :=
  { copyOf (some ⟨true, 0, 0x10000, false, [0x140000000]⟩) none with slots := l }
def serving (q : PseudoChannel) (k : Copy) : State := { channel q with copies := [(5, k)] }

theorem witness_DramService :
    (channel PseudoChannel.reset).getPc 5 = PseudoChannel.reset ∧ PseudoChannel.reset.owner = none ∧
    (channel owned).shuntAt 0 5 = none ∧ (channel owned).transfersRun (some 0) = true ∧
    (let b : Booked := ⟨5, 1000, 0, false⟩;
      let k := hbmCopy [b];
      let q := { owned with banks := [(0, ⟨some 0, some 980, none, none, none, none⟩)], slot := some (996, 0) };
      let s := serving q k;
      s.copies.findSome? (fun p => (p.2.slots.find? (fun b => b.pc = s.cur && b.cycle = 1000)).map (fun b => (p.1, p.2, b))) =
        some (5, k, b) ∧ s.copies.find 5 = some k ∧ (s.carried.find k.engine).getD 0 + 64 ≤ 384 ∧ pcOf (k.slotPa b) = s.cur ∧
      bankOf (k.slotPa b) = 0 ∧ rowOf (k.slotPa b) = 0 ∧ k.srcHbm = true ∧ k.dstHbm = false ∧
      ((k.slots.filter (fun b => b.write = false && b.cycle ≤ 1000)).length < k.total)) ∧
    (let k := hbmCopy [⟨5, 990, 0, false⟩, ⟨5, 994, 1, false⟩];
      k.total ≤ (k.slots.filter (fun b => b.write = false && b.cycle ≤ 1000)).length) ∧
    Since (some 980) 20 1000 ∧ (owned.running = true ∧ owned.debt + 16 ≤ 128 ∧ PseudoChannel.reset.running = false) ∧
    (let q := { owned with running := false };
      q.owner.isSome = true ∧ (channel q).holdOf 5 = none ∧ q.serving = none ∧ q.preaAt 1000 ≤ 1000 ∧
      1000 < { q with banks := [(0, ⟨some 0, some 990, none, none, none, none⟩)] }.preaAt 1000) ∧
    { owned with base := 1573 }.base < 1000 + 574 ∧
    (∃ r, [(⟨0, 4, 0x140000000⟩ : Request)] = r :: [] ∧ pcOf r.pa = 5 ∧ r.core < 8190 ∧ (channel owned).agenda = [] ∧
      ((channel owned).core r.core).acc.find? (fun a => a.id = r.access) = none) ∧
    (let q := { owned with running := false, queue := [⟨0, 4, 0x140000000⟩] };
      q.serving = none ∧ 3 ≤ (channel q).host.phase.toNat ∧ q.absent = false ∧ (q.openAt ((channel q).holdOf 5) 0 1000).1 = true) ∧
    (let q := { owned with serving := some (980, 0, false), banks := [(0, ⟨some 0, some 980, none, none, none, none⟩)], slot := some (996, 0) };
      980 + 20 ≤ 1000 ∧ (q.bank 0).row = some (rowOf 0x140000000) ∧ bankOf 0x140000000 = 0) ∧
    (954 + 46 ≤ 1000 ∧ 1000 < 954 + 66 ∧ 934 + 66 ≤ 1000) ∧
    (let q := { owned with banks := [(0, ⟨some 0, some 954, none, some 994, none, none⟩)] };
      (q.bank 0).row.isSome = true ∧ PreKept q 0 1000 ∧ Since q.refab 490 1000) := by
  refine ⟨by decide, by decide, by decide, by decide, by decide, by decide, ?_, by decide, by decide, by decide,
    ⟨_, rfl, by decide, by decide, by decide, by decide⟩, by decide, by decide, by decide, by decide, ?_, ?_⟩
  · simp [Since]
  · simp [PreKept, Since, PseudoChannel.bank, Table.find]
  · simp [Since, owned, PseudoChannel.reset]

/-! ### Fabric, collectives, host -/

theorem witness_FabricTime :
    4 ≤ (one timed).host.phase.toNat ∧ (∀ p ∈ (walking (kernel .held) 0).nodes, p.2.holds_ = false) ∧
    (∃ p ∈ (one timed).nodes, p.2.holds_ = true) ∧ (48 : Int).natAbs ≤ 2 * 24 ∧ 2 * 24 < (-49 : Int).natAbs ∧
    (one timed).cur = (0 : Fin 24).val ∧ (one timed).nodes.find (one timed).cur = some Node.bare ∧
    Node.bare.holdAt = none ∧ Node.bare.stopping = none ∧ HostRegs.reset.phase.toNat < 4 ∧
    { Fabric.reset with joined := true }.joined = true ∧ Fabric.reset.joined = false ∧
    (let nd := { Node.bare with slots := [(7, [0x80000009])] }; nd.holds_ = true ∧ nd.portList ≠ []) ∧
    (let p := { Port.reset with master := some 3, delay := some 1920, offset := -7 };
      { one timed with fabric := { Fabric.reset with ports := Fabric.reset.ports.set 5 p } }.bestMaster 0 = some 5) := by decide

/-- A bucket of two cores of this package: 512 bytes, a chunk of 256 each. -/
def bucket (kind : Nat) (started : Bool) : Bucket :=
  { node := 0, group := 9, bseq := 1, stamp := 0, free := false, bytes := 512, kind := kind, fmt := 0,
    members := [⟨0, 0, 0, some 0, 0, false, 0, 0, 0, some depotSpan, some depotSpan, some depotSpan, []⟩,
      ⟨0, 0, 1, some 1, 0, false, 0, 0, 0, some depotSpan, some depotSpan, some depotSpan, []⟩],
    contrib := [], contribBad := [], result := [], resultBad := [], started := started, ownRead := false, sent := [], got := [], ends := [],
    recv := [], anf := false, flagIn := false, cnfIn := false, flagBad := false }
def collecting (k : Bucket) : State :=
  { one timed with
    nodes := [(0, { Node.bare with slots := [(23, [0x80000009, 0xC0000000, 9])] })]
    clock := 256
    fabric := { Fabric.reset with buckets := [(64, k)] } }

theorem witness_Collectives :
    (let k := bucket 0 true;
      let s := collecting k;
      s.transfersRun (some k.node) = true ∧ s.cur = k.node ∧
      (match s.nodes.find s.cur with
        | some nd => nd.slotFor 23 k.group 0 && !nd.slotFor 23 k.group 2 && bits (nd.slotWord 23 2) 15 0 = k.group &&
          nd.holdsPorts && (256 - s.nodeShift s.cur) % 2 ^ 20 = 256 * 1
        | none => false) = true ∧
      s.fabric.buckets.filter (fun p => p.2.node = s.cur && p.2.group = k.group && p.2.started && p.2.stamp + 64 ≤ 256 &&
        !(p.2.unsent exchange).isEmpty) = [(64, k)]) ∧
    (let k := bucket 0 true;
      let s := { collecting k with cur := 64 };
      s.transfersRun (some k.node) = true ∧ s.fabric.buckets.find s.cur = some k ∧ k.started = true ∧ 2 ≤ k.ranks ∧
      k.ranks ≤ 1024 ∧ k.allSent = false ∧ k.port ⟨0, 1, 256, 0⟩ = exchange ∧ 504 ∈ k.starts 1 ∧ k.flitLen 1 504 = 8 ∧
      (k.member 1).any (fun m => m.dst = some depotSpan) = true) ∧
    ({ bucket 0 true with sent := [(31, 8)] }.allSent = true) ∧
    (let k := { bucket 0 true with got := [(1, 248)] }; (k.got.find 1).getD 0 + 8 = (k.ranks - 1) * (k.hi 1 - k.lo 1)) ∧
    FlitFor (bucket 0 true) 0 ⟨9, 1, 0, 0, 504, List.replicate 8 0, false⟩ ∧
    FlitFor (bucket 0 true) 0 ⟨9, 1, 0, 0, 256, [], false⟩ ∧
    FlitFor (bucket 0 true) 1 ⟨9, 1, 1, 0, 504, List.replicate 8 0, false⟩ ∧
    FlitFor (bucket 2 true) 2 ⟨9, 1, 2, 0, 504, List.replicate 8 0, false⟩ ∧
    FlitFor (bucket 0 true) 3 ⟨9, 1, 3, 0, 0, [2, 0, 0, 0], false⟩ ∧
    ((∃ m ∈ (bucket 2 false).members, m.core.isSome = true) ∧
      (∀ p ∈ (bucket 2 false).members.zipIdx, (bucket 2 false).chunkBad p = false)) ∧
    (let k := { bucket 2 true with ownRead := true }; k.ownRead = true ∧ (bucket 2 true).ownRead = false ∧
      (collecting k).agenda = []) ∧
    (100 : Nat) % 2 ^ 20 ≠ 256 * 0 ∧
    (∀ r ∈ (one timed).fabric.remote, ¬ (r.node = 0 ∧ r.group = 9 ∧ r.bseq = 1)) ∧
    (one timed).fabric.badNext = [] ∧ (one timed).cur < 24 := by
  unfold FlitFor; decide

theorem witness_Collectives_time : { Node.bare with slots := [(23, [0x80000009, 0xC0000000, 9])] }.timeSlot 23 = some 1 := by
  rw [Node.timeSlot, List.range_eq_range', show (4096 : Nat) = 4094 + 1 + 1 from rfl, List.range'_succ, List.range'_succ]; rfl

theorem witness_HostLink :
    (one timed).host.phase ≠ 0 ∧ (one timed).hostOps = [] ∧ tierOf 0x1000000003F = some .depot ∧ 0 < 1 ∧
    1 ≤ 64 - 0x1000000003F % 64 ∧ 64 ≤ 64 - 0x10000000000 % 64 ∧ (one timed).messages = [] ∧
    (one timed).host.phase = 5 ∧ (one timed).host.attbusy = false ∧ State.reset.host.phase ≠ 5 ∧
    { HostRegs.reset with attbusy := true }.attbusy = true ∧ (one timed).agenda = [] ∧
    (let s := { one timed with hostOps := [(4, ⟨0x1000000003F, false, 1, []⟩)] };
      s.host.phase ≠ 0 ∧ s.depotQueue (memDie 0x1000000003F) = [] ∧ s.depotFree (memDie 0x1000000003F) = true ∧
      { s with carried := [(64, 8)] }.depotFree (memDie 0x1000000003F) = false) ∧
    (0x68#16 ∉ apertureOffsets ∧ (0x68#16).toNat < 0x1000) ∧ (0x13FC#16 ∉ apertureOffsets ∧ (0x13FC#16).toNat % 8 ≠ 0) ∧
    (0xC0000000 : DWord).extractLsb' 30 2 = 3#2 ∧ (1 : DWord).getLsbD 0 = true ∧
    { (one timed).host with mbase := 0, msize := 4 }.ringFull = false := by decide

theorem witness_BringUp :
    State.reset.host.phase = 0 ∧ imageError 1 0 [] = some 1 ∧ (∃ n, n < 16 ∧ n ∉ List.range 15) ∧
    (∀ n, n < 16 → n ∈ List.range 16) ∧ (∃ p, p < 128 ∧ p ∉ List.range 127 ∧ (State.reset.getPair p).retired = false) ∧
    Cells.wf State.reset.mem = true ∧ (∀ e ∈ [((7, 15) : Nat × Nat)], e.2 < 16) := by
  refine ⟨by decide, by decide +kernel, ⟨15, by decide⟩, by simp, ⟨127, by decide, by simp, by decide⟩, by decide, by decide⟩

theorem witness_DecodeEncode :
    (∀ p ∈ [(Stream.driver, Instr.add 31 31 31), (.engine .matrix, .mmul 15 1 63 15 3), (.engine .vector, .vexit 15 1 7)],
      p.2.legalIn p.1 = true ∧ (encode p.2).isSome = true) ∧ (decode .driver 0x10A00133#32).toOption.isSome = true := by decide

theorem witness_StepRunsDecoded :
    State.reset.host.phase ≠ 15 ∧ State.reset.arrival = none ∧ State.reset.dueNow = none ∧ State.reset.nextStream = none ∧
    { HostRegs.reset with phase := 15 }.phase = 15 ∧ nextReset [] = none ∧
    nextReset [⟨7, .event 0 .deviceReset⟩] = some (⟨7, .event 0 .deviceReset⟩, []) ∧
    (let s := { one timed with agenda := [⟨0, 0, none, 0, .idleFlit⟩] };
      s.dueNow = some ⟨0, 0, none, 0, .idleFlit⟩ ∧ s.nextStream = some (0, .driver)) ∧
    (one timed).me.ie = false ∧ (box id).me.ie = true ∧ (alarmed id).interrupt (alarmed id).cur = some 2 ∧
    (let s := one ((timed.modEng .matrix (fun g => { g with status := .running, bad := [(0, 1)] })).modDrv (fun d => { d with ready := 9 }));
      s.nextStream = some (0, .engine .matrix) ∧ (s.me.engine .matrix).bad.get 0 ≠ 0) := by decide

theorem witness_MemoryStaysCanonical : Memory.wf State.reset.mem = true ∧ Cells.wf State.reset.bad = true ∧
    (match step State.reset with
      | .next t => t.clock = 1
      | _ => false) = true := by decide

/-- The published digest of the three bytes "abc" (GB/T 32905). -/
theorem test_sm3 :
    (sm3 [0x61, 0x62, 0x63]).toNat = 0x66C7F0F462EEEDD9D1F2D46BDC10E4E24167C4875CF2F7A2297DA02B8F4BA8E0 := by decide +kernel

/-- An image of kind 1 with no payload and a signature. The root key is open (log 4): where the signature is good under it, the
image verifies. -/
def emptyImage (g : Nat) : List Byte :=
  (leBytes 4 1 ++ leBytes 4 0 ++ leBytes 4 0) ++ (beBytes 32 (sm3 []).toNat ++ (List.replicate 84 0 ++ (beBytes 64 g ++
    List.replicate 64 0)))
theorem witness_BringUp_images (g : Nat)
    (h : sm2Verify Config.rootKey ((emptyImage g).take 128) (BitVec.ofNat 512 (beNat (((emptyImage g).drop 128).take 64))) = true) :
    imageError 1 0 (emptyImage g) = none := by
  have be : ∀ n v, (beBytes n v).length = n := by
    intro n v; simp [beBytes]
  have f8 : imageField (emptyImage g) 8 4 = 0 := rfl
  have p : imagePayload (emptyImage g) = [] := by rw [imagePayload, f8]; rfl
  have t : ((emptyImage g).drop 12).take 32 = beBytes 32 (sm3 []).toNat := by
    rw [emptyImage, List.drop_left' (by simp [leBytes]), List.take_left' (be _ _)]
  have z : ((emptyImage g).drop 44).take 84 = List.replicate 84 0 := by
    rw [emptyImage, ← List.append_assoc, List.drop_left' (by simp [leBytes, be]), List.take_left' (by simp)]
  have y : ((emptyImage g).drop 192).take 64 = List.replicate 64 0 := by
    rw [emptyImage, ← List.append_assoc, ← List.append_assoc, ← List.append_assoc, List.drop_left' (by simp [leBytes, be]),
      List.take_of_length_le (by simp)]
  have f0 : imageField (emptyImage g) 0 4 = 1 := rfl
  have f4 : imageField (emptyImage g) 4 4 = 0 := rfl
  simp only [imageError, p, t, z, y, f0, f4, f8, h]; rfl

end Sys2Proof.Tests
end

section
/-! What CSRRD reads (R26, R132): its result through the name of the register, the registers that are views of other
state (Tables 1.8, 6.9, R19), and the signal box's registers of its die (Table 15.4). -/

namespace Sys2Proof.Machine

/-! ### What CSRRD answers, by the register that its address names -/

theorem exec_csrrd (g : BitVec 5) (a : BitVec 12) (s : State) : exec (.csrrd g a) s = execCsrrd g a s := rfl

/-- A precise fault of an instruction that traps to the vector: the PC is EPC and the ADDR field of FAULTINFO. -/
theorem trapped_faultHere (s : State) (cause : BitVec 8) (h : TrapsToVector s) :
    Trapped s (s.faultHere cause) (cause.setWidth 64) (s.me.drv.pc.setWidth 64) (s.me.drv.pc.setWidth 64) 0 := by
  have hpc := s.me.drv.pc.isLt
  have info : faultInfo unitDriver 0 false s.me.drv.pc.toNat = s.me.drv.pc.setWidth 64 := by
    rw [faultInfo_driver _ (by omega), BitVec.ofNat_toNat]
  have t : Trapped s (s.faultHere cause) _ _ (faultInfo unitDriver 0 false s.me.drv.pc.toNat) 0 :=
    trapped_deliver s cause s.me.drv.pc s.me.drv.pc _ 0 h
  rwa [info] at t

section
variable {s : State} {g : BitVec 5} {a : BitVec 12}

theorem trapped_csrrd_of_unnamed (ha : csrAt (isBox s.cur) a = none) (h : TrapsToVector s) :
    ∃ t, exec (.csrrd g a) s = .next t ∧
      Trapped s t 0x01 (s.me.drv.pc.setWidth 64) (s.me.drv.pc.setWidth 64) 0 :=
  ⟨_, by simp only [exec_csrrd, execCsrrd, ha], trapped_faultHere s causeIllegal h⟩

variable {r : CsrName} (ha : csrAt (isBox s.cur) a = some r)
include ha

theorem answersG_csrrd_of_priv (hp : s.me.priv = true) : AnswersG (.csrrd g a) s 1 g (s.csrS s.cur r) :=
  answersG_retireG (by simp only [exec_csrrd, execCsrrd, ha, hp, if_true])

theorem answersG_csrrd_of_user {v : DWord} (hp : s.me.priv = false) (hu : csrU r (s.csrS s.cur r) = some v) :
    AnswersG (.csrrd g a) s 1 g v :=
  answersG_retireG (by simp only [exec_csrrd, execCsrrd, ha, hp, hu, Bool.false_eq_true, if_false])

/-- A register whose two views are the same reads alike at either level. -/
theorem answersG_csrrd_of_both (hu : csrU r (s.csrS s.cur r) = some (s.csrS s.cur r)) :
    AnswersG (.csrrd g a) s 1 g (s.csrS s.cur r) := by
  cases hp : s.me.priv with
  | true => exact answersG_csrrd_of_priv ha hp
  | false => exact answersG_csrrd_of_user ha hp hu

theorem trapped_csrrd_of_hidden (hu : csrU r (s.csrS s.cur r) = none) (h : TrapsToVector s) :
    ∃ t, exec (.csrrd g a) s = .next t ∧
      Trapped s t 0x03 (s.me.drv.pc.setWidth 64) (s.me.drv.pc.setWidth 64) 0 := by
  have ⟨_, _, hp, _⟩ := h
  exact ⟨_, by simp only [exec_csrrd, execCsrrd, ha, hp, hu, Bool.false_eq_true, if_false],
    trapped_faultHere s causePrivilege h⟩

end

/-! ### Table 1.9: the register that each address names -/

/-- An entry of `csrTable` names register `r`, on a core and on a signal box alike, with its two views. -/
structure EntryNames (e : BitVec 12 × (Core → DWord) × (Core → Option DWord)) (r : CsrName) : Prop where
  csrAt_eq : ∀ box, csrAt box e.1 = some r
  csrS_eq : ∀ (s : State) (c : Nat), s.csrS c r = e.2.1 (s.core c)
  csrU_eq : ∀ k : Core, csrU r (e.2.1 k) = e.2.2 k

/-- The registers of `csrTable`, entry by entry. -/
def csrTableNames : List CsrName :=
  [.status, .cause, .epc, .faultInfo, .faultCyc, .faultVa, .sscratch, .tvec, .ctxid, .pgroot, .coreix, .region, .depart,
   .plevel, .variant, .pointstat, .slewstep, .mstat, .rngseed, .energy, .ectl, .eres, .estatic, .holdcnt, .cecnt]

theorem csrTable_entryNames : List.Forall₂ EntryNames csrTable csrTableNames := by
  simp only [csrTable, csrTableNames, List.forall₂_cons, List.forall₂_nil_left_iff, and_true]
  and_intros
  all_goals exact ⟨fun _ => rfl, fun _ _ => rfl, fun _ => rfl⟩

theorem exists_entryNames {e : BitVec 12 × (Core → DWord) × (Core → Option DWord)} (he : e ∈ csrTable) :
    ∃ r, EntryNames e r := by
  obtain ⟨i, hi, rfl⟩ := List.getElem_of_mem he
  exact ⟨_, csrTable_entryNames.get hi (csrTable_entryNames.length_eq ▸ hi)⟩

theorem csrAt_growth (box : Bool) (n : Fin 8) : csrAt box (BitVec.ofNat 12 (0x048 + n)) = some (.growth n) := by
  revert box n; decide

theorem csrAt_ewt (box : Bool) (n : Fin 8) : csrAt box (BitVec.ofNat 12 (0x068 + n)) = some (.ewt n) := by
  revert box n; decide

/-! ### VSTAT (Table 1.8) -/

/-- VSTAT's fields: what the driver sees of the loop, as it was before in the cycle of a loop order (R157). -/
theorem vstat_fields (v : VectorStore) (tt : Nat) :
    let x := if tt < v.loopFrom then v.before else (v.rrb, v.sp, v.vloop.isSome)
    (v.vstat tt).extractLsb' 0 4 = x.1 ∧ (v.vstat tt).extractLsb' 4 8 = x.2.1 ∧ (v.vstat tt).getLsbD 12 = v.vnf ∧
      (v.vstat tt).getLsbD 13 = x.2.2 ∧ (v.vstat tt).toNat < 2 ^ 14 := by
  intro x
  have e : v.vstat tt = (BitVec.ofBool x.2.2 ++ BitVec.ofBool v.vnf ++ x.2.1 ++ x.1).setWidth 64 := rfl
  have bit (i : Nat) : (v.vstat tt).getLsbD i = (decide (i < 64) &&
      if i < 4 then x.1.getLsbD i else if i - 4 < 8 then x.2.1.getLsbD (i - 4)
      else if i - 4 - 8 < 1 then (BitVec.ofBool v.vnf).getLsbD (i - 4 - 8)
      else (BitVec.ofBool x.2.2).getLsbD (i - 4 - 8 - 1)) := by
    simp only [e, BitVec.getLsbD_setWidth, BitVec.getLsbD_append]
  refine ⟨?_, ?_, ?_, ?_, ?_⟩
  · ext j hj
    rw [BitVec.getElem_extractLsb', bit]
    simp [hj, show j < 64 by omega]
  · ext j hj
    rw [BitVec.getElem_extractLsb', bit]
    simp [hj, show 4 + j < 64 by omega]
  · rw [bit]; simp
  · rw [bit]; simp
  · rw [e, BitVec.toNat_setWidth_of_le (by decide)]
    exact BitVec.isLt _

/-! ### Words gathered from fields: GROWTH0 to GROWTH7 (R19) and LEASESET (Table 6.9) -/

theorem getLsbD_foldl_or {α : Type} (f : α → DWord) (i : Nat) (l : List α) (w : DWord) :
    (l.foldl (fun w a => w ||| f a) w).getLsbD i = (w.getLsbD i || l.any (fun a => (f a).getLsbD i)) := by
  induction l generalizing w with
  | nil => simp
  | cons a l ih => simp [ih, Bool.or_assoc]

/-- A bit that only the field of `a` can set is that of the field of `a`. -/
theorem getLsbD_foldl_or_of_unique {α : Type} {f : α → DWord} {i : Nat} {l : List α} {a : α} (ha : a ∈ l)
    (h : ∀ c ∈ l, (f c).getLsbD i = true → c = a) :
    (l.foldl (fun w a => w ||| f a) 0).getLsbD i = (f a).getLsbD i := by
  rw [getLsbD_foldl_or, Bool.eq_iff_iff]
  simp only [BitVec.ofNat_eq_ofNat, BitVec.getLsbD_zero, Bool.false_or, List.any_eq_true]
  exact ⟨fun ⟨c, hc, hf⟩ => h c hc hf ▸ hf, fun hf => ⟨a, ha, hf⟩⟩

theorem getLsbD_one_shiftLeft {n : Nat} (hn : n < 64) (i : Nat) : (1#64 <<< n).getLsbD i = decide (n = i) := by
  rw [← BitVec.twoPow_eq, BitVec.getLsbD_twoPow]
  simp [hn]

/-- A field of a word that lies within it whole. -/
theorem getLsbD_setWidth_shiftLeft {w : Nat} (x : BitVec w) {n : Nat} (hn : n + w ≤ 64) (i : Nat) :
    (x.setWidth 64 <<< n).getLsbD i = (decide (n ≤ i) && x.getLsbD (i - n)) := by
  rw [BitVec.getLsbD_shiftLeft, BitVec.getLsbD_setWidth]
  cases hx : x.getLsbD (i - n) with
  | false => simp
  | true =>
    have := BitVec.lt_of_getLsbD hx
    by_cases h : n ≤ i
    · simp [h, show i < 64 by omega, show i - n < 64 by omega]
    · simp [h]

/-- Bit `j` of byte `b` lies in byte `c` only if they are the same. -/
theorem byte_eq_of_getLsbD {x : Byte} {b c j : Nat} (hc : c < 8) (hj : j < 8)
    (h : (x.setWidth 64 <<< (8 * c)).getLsbD (8 * b + j) = true) : c = b := by
  rw [getLsbD_setWidth_shiftLeft x (by omega), Bool.and_eq_true, decide_eq_true_eq] at h
  obtain ⟨hle, hx⟩ := h
  have := BitVec.lt_of_getLsbD hx
  omega

theorem growthWord_byte (g : Vector Byte 64) (n : Nat) (b : Fin 8) :
    (growthWord g n).extractLsb' (8 * b) 8 = vecGet g 0 (8 * n + b) := by
  ext j hj
  have hb := b.isLt
  rw [BitVec.getElem_extractLsb', growthWord,
    getLsbD_foldl_or_of_unique (List.mem_range.2 b.isLt) (fun c hc h => byte_eq_of_getLsbD (List.mem_range.1 hc) hj h),
    getLsbD_setWidth_shiftLeft _ (by omega)]
  simp [hj]

/-- What the lease of slot `p.2` adds to LEASESET: its bit, its kind and its READY bit. -/
def leaseField (p : Option Lease × Nat) : DWord :=
  match p.1 with
  | none => 0
  | some x => (1#64 <<< p.2) ||| (x.kind.setWidth 64 <<< (8 + 3 * p.2)) ||| (if x.ready then 1#64 <<< (32 + p.2) else 0)

theorem leaseset_eq_foldl_leaseField (l : Vector (Option Lease) 8) :
    leaseset l = l.toList.zipIdx.foldl (fun w p => w ||| leaseField p) 0 := by
  refine congrArg (fun f => List.foldl f (0 : DWord) l.toList.zipIdx) (funext fun w => funext fun p => ?_)
  obtain ⟨o, m⟩ := p
  cases o with
  | none => simp [leaseField]
  | some x => simp [leaseField, BitVec.or_assoc]

/-- The bits of LEASESET that are slot `n`'s. -/
def LeaseBit (n i : Nat) : Prop := n = i ∨ (8 + 3 * n ≤ i ∧ i < 8 + 3 * n + 3) ∨ 32 + n = i

theorem LeaseBit.slot_unique {n m i : Nat} (hn : n < 8) (hm : m < 8) (h : LeaseBit n i) (h' : LeaseBit m i) : n = m := by
  unfold LeaseBit at h h'; omega

theorem leaseField_some_getLsbD (x : Lease) {n : Nat} (hn : n < 8) (i : Nat) :
    (leaseField (some x, n)).getLsbD i = (decide (n = i) || (decide (8 + 3 * n ≤ i) && x.kind.getLsbD (i - (8 + 3 * n)))
      || (decide (32 + n = i) && x.ready)) := by
  have hb := getLsbD_one_shiftLeft (show n < 64 by omega) i
  have hk := getLsbD_setWidth_shiftLeft x.kind (show 8 + 3 * n + 3 ≤ 64 by omega) i
  have hr := getLsbD_one_shiftLeft (show 32 + n < 64 by omega) i
  simp only [leaseField, BitVec.getLsbD_or, hb, hk]
  cases x.ready with
  | false => simp
  | true => simp [hr]

/-- The field of slot `n` sets no bit but its own. -/
theorem leaseBit_of_leaseField {o : Option Lease} {n i : Nat} (hn : n < 8) (h : (leaseField (o, n)).getLsbD i = true) :
    LeaseBit n i := by
  cases o with
  | none => simp [leaseField] at h
  | some x =>
    simp only [leaseField_some_getLsbD x hn, Bool.or_eq_true, Bool.and_eq_true, decide_eq_true_eq] at h
    rcases h with (h | ⟨h, hk⟩) | ⟨h, -⟩
    · exact .inl h
    · exact .inr (.inl ⟨h, by have := BitVec.lt_of_getLsbD hk; omega⟩)
    · exact .inr (.inr h)

/-- A bit of slot `n` is that of the field of slot `n`. -/
theorem leaseset_getLsbD (l : Vector (Option Lease) 8) (n : Fin 8) {i : Nat} (h : LeaseBit n i) :
    (leaseset l).getLsbD i = (leaseField (l[n], n)).getLsbD i := by
  rw [leaseset_eq_foldl_leaseField]
  refine getLsbD_foldl_or_of_unique ?_ ?_
  · simp [List.mk_mem_zipIdx_iff_getElem?]
  · rintro ⟨o, m⟩ hc hf
    have hget : l.toList[m]? = some o := List.mk_mem_zipIdx_iff_getElem?.1 hc
    obtain ⟨hm, ho⟩ := List.getElem?_eq_some_iff.1 hget
    have hm : m < 8 := by simpa using hm
    obtain rfl : m = n := (leaseBit_of_leaseField hm hf).slot_unique hm n.isLt h
    simp [← ho]

theorem leaseset_isSome (l : Vector (Option Lease) 8) (n : Fin 8) : (leaseset l).getLsbD n = l[n].isSome := by
  rw [leaseset_getLsbD l n (.inl rfl)]
  have hn := n.isLt
  cases h : l[n] with
  | none => simp [leaseField]
  | some x => simp [leaseField_some_getLsbD x hn]

theorem leaseset_kind {l : Vector (Option Lease) 8} {n : Fin 8} {x : Lease} (h : l[n] = some x) :
    (leaseset l).extractLsb' (8 + 3 * n) 3 = x.kind := by
  have hn := n.isLt
  ext j hj
  rw [BitVec.getElem_extractLsb', leaseset_getLsbD l n (.inr (.inl (by omega))), h, leaseField_some_getLsbD x hn]
  simp [hj, show n.val ≠ 8 + 3 * n + j by omega, show 32 + n.val ≠ 8 + 3 * n + j by omega]

theorem leaseset_ready {l : Vector (Option Lease) 8} {n : Fin 8} {x : Lease} (h : l[n] = some x) :
    (leaseset l).getLsbD (32 + n) = x.ready := by
  have hn := n.isLt
  rw [leaseset_getLsbD l n (.inr (.inr rfl)), h, leaseField_some_getLsbD x hn]
  simp [BitVec.getLsbD_of_ge x.kind (32 + n - (8 + 3 * n)) (by omega)]

/-! ### The signal box's registers of its die (Table 15.4) -/

theorem vecGet_fin {α : Type} {n : Nat} (v : Vector α n) (d : α) (i : Fin n) : vecGet v d i = v[i] := by
  simp [vecGet]

theorem isBox_of_eq {c d : Nat} (h : c = 4096 + d) : isBox c = true := by
  subst h; simp [isBox, boxBase]

theorem coreDie_of_eq {c d : Nat} (h : c = 4096 + d) : coreDie c = d := by
  rw [coreDie, isBox_of_eq h, if_pos rfl, h, boxBase, Nat.add_sub_cancel_left]

theorem csrAt_sbslew (n : Fin 8) : csrAt true (BitVec.ofNat 12 (0x188 + n)) = some (.sbslew n) := by
  revert n; decide

theorem csrAt_pair (p : Fin 16) (m : Fin 7) : csrAt true (BitVec.ofNat 12 (0x100 + 8 * p + m)) = some (.pair p m) := by
  revert p m; decide

/-- A timetable core has no register of a signal box (R262). -/
theorem csrAt_core_boxRegister : ∀ a ∈ [(0x100 : BitVec 12), 0x180, 0x188, 0x190, 0x191], csrAt false a = none := by
  decide

/-- PQCTL as a word of its flags. -/
theorem pqctl_bits (placed ack req : Bool) :
    let v : DWord := (BitVec.ofBool placed ++ BitVec.ofBool ack ++ BitVec.ofBool req).setWidth 64
    v.getLsbD 0 = req ∧ v.getLsbD 1 = ack ∧ v.getLsbD 2 = placed := by
  revert placed ack req; decide

/-- PRSTAT as a word of its state and flags. -/
theorem prstat_bits (wake rbusy seqerr : Bool) (state : BitVec 2) :
    let v : DWord := (BitVec.ofBool wake ++ BitVec.ofBool rbusy ++ BitVec.ofBool seqerr ++ state).setWidth 64
    v.extractLsb' 0 2 = state ∧ v.getLsbD 2 = seqerr ∧ v.getLsbD 3 = rbusy ∧ v.getLsbD 4 = wake := by
  revert wake rbusy seqerr state; decide

/-! ### The clauses of the statement -/

/-- A register that is a view of other state, with the same view at either level (R26). -/
theorem answersG_csrrd_view {s : State} {g : BitVec 5} {a : BitVec 12} {r : CsrName} {v : DWord}
    (ha : ∀ box, csrAt box a = some r) (hs : s.csrS s.cur r = v) (hu : csrU r v = some v) :
    AnswersG (.csrrd g a) s 1 g v := by
  subst hs; exact answersG_csrrd_of_both (ha _) hu

/-- A register of a signal box's die at system level. -/
theorem answersG_csrrd_box {s : State} {g : BitVec 5} {a : BitVec 12} {r : CsrName} {v : DWord} {d : Nat}
    (hd : s.cur = 4096 + d) (hp : s.me.priv = true) (ha : csrAt true a = some r) (hs : s.csrS s.cur r = v) :
    AnswersG (.csrrd g a) s 1 g v := by
  subst hs; exact answersG_csrrd_of_priv (isBox_of_eq hd ▸ ha) hp

section
variable {s : State} {d : Fin 8} (hd : s.cur = 4096 + d.val)
include hd

theorem die_of_box : vecGet s.dies Die.reset (coreDie s.cur) = s.dies[d] := by
  rw [coreDie_of_eq hd, vecGet_fin]

theorem csrS_sbblen : s.csrS s.cur .sbblen = s.dies[d].blen.setWidth 64 := by
  simp only [State.csrS, die_of_box hd]

theorem csrS_sbslew (n : Fin 8) : s.csrS s.cur (.sbslew n) = s.dies[d].slew[n].setWidth 64 := by
  simp only [State.csrS, die_of_box hd, vecGet_fin]

theorem csrS_pair (p : Fin 16) (m : Nat) : s.csrS s.cur (.pair p m) = s.pairCsr d p m := by
  simp only [State.csrS, coreDie_of_eq hd]

end

/-- The pair that a register of pair `p` of die `d` shows. -/
theorem pair_of_die (s : State) (d : Fin 8) (p : Fin 16) :
    vecGet (vecGet s.dies Die.reset d).pair Pair.reset p = s.dies[d].pair[p] := by
  rw [vecGet_fin, vecGet_fin]

/-- What a signal box reads at system level of register `m` of pair `p` of its die. -/
theorem answersG_csrrd_pair {s : State} {g : BitVec 5} {v : DWord} {d : Fin 8} (hd : s.cur = 4096 + d.val)
    (hp : s.me.priv = true) (p : Fin 16) (m : Fin 7) (hv : s.pairCsr d p m = v) :
    AnswersG (.csrrd g (BitVec.ofNat 12 (0x100 + 8 * p + m))) s 1 g v :=
  answersG_csrrd_box hd hp (csrAt_pair p m) ((csrS_pair hd p m).trans hv)

theorem pairCsr_pclk (s : State) (d : Fin 8) (p : Fin 16) :
    s.pairCsr d p 1 = (BitVec.ofBool s.dies[d].pair[p].clk).setWidth 64 := by
  simp only [State.pairCsr, pair_of_die]

theorem pairCsr_prail (s : State) (d : Fin 8) (p : Fin 16) :
    s.pairCsr d p 2 = (BitVec.ofBool s.dies[d].pair[p].rail).setWidth 64 := by
  simp only [State.pairCsr, pair_of_die]

theorem pairCsr_pretb (s : State) (d : Fin 8) (p : Fin 16) : s.pairCsr d p 4 = s.dies[d].pair[p].pretb := by
  simp only [State.pairCsr, pair_of_die]

theorem pairCsr_pimb (s : State) (d : Fin 8) (p : Fin 16) :
    s.pairCsr d p 6 = s.dies[d].pair[p].pimb.setWidth 64 := by
  simp only [State.pairCsr, pair_of_die]

/-- PQCTL shows REQ, ACK and PLACED of the pair. -/
theorem pairCsr_pqctl (s : State) (d : Fin 8) (p : Fin 16) :
    let v := s.pairCsr d p 0
    v.getLsbD 0 = s.dies[d].pair[p].req ∧ v.getLsbD 1 = s.dies[d].pair[p].ack ∧ v.getLsbD 2 = s.placed d p := by
  simp only [State.pairCsr, pair_of_die]
  exact pqctl_bits _ _ _

/-- PRSTAT shows STATE, SEQERR, RBUSY and WAKE of the pair. -/
theorem pairCsr_prstat (s : State) (d : Fin 8) (p : Fin 16) :
    let q := s.dies[d].pair[p]
    let v := s.pairCsr d p 3
    v.extractLsb' 0 2 = q.state ∧ v.getLsbD 2 = q.seqerr ∧ v.getLsbD 3 = q.rbusy ∧
      v.getLsbD 4 = (q.wake && decide (q.wakeFrom ≤ s.clock)) := by
  simp only [State.pairCsr, pair_of_die]
  exact prstat_bits _ _ _ _

theorem csrTable_reads (s : State) (g : BitVec 5) {e : BitVec 12 × (Core → DWord) × (Core → Option DWord)}
    (he : e ∈ csrTable) :
    (s.me.priv = true → AnswersG (.csrrd g e.1) s 1 g (e.2.1 s.me)) ∧
    (s.me.priv = false → ∀ v, e.2.2 s.me = some v → AnswersG (.csrrd g e.1) s 1 g v) ∧
    (TrapsToVector s → e.2.2 s.me = none → ∃ t, exec (.csrrd g e.1) s = .next t ∧
      Trapped s t 0x03 (s.me.drv.pc.setWidth 64) (s.me.drv.pc.setWidth 64) 0) := by
  obtain ⟨r, hr⟩ := exists_entryNames he
  have hs : s.csrS s.cur r = e.2.1 s.me := hr.csrS_eq s s.cur
  have hu : csrU r (s.csrS s.cur r) = e.2.2 s.me := hs ▸ hr.csrU_eq s.me
  exact ⟨fun hp => hs ▸ answersG_csrrd_of_priv (hr.csrAt_eq _) hp,
    fun hp v hv => answersG_csrrd_of_user (hr.csrAt_eq _) hp (hu.trans hv),
    fun ht hn => trapped_csrrd_of_hidden (hr.csrAt_eq _) (hu.trans hn) ht⟩

end Sys2Proof.Machine

section
open Sys2Proof Sys2Proof.Machine

/-- Settles O10: each address names a register, and CSRRD gives that register's view. -/
theorem registerReads : Obligations.RegisterReads := by
  unfold Obligations.RegisterReads
  refine ⟨fun e he g s => csrTable_reads s g he, fun g s => ⟨?_, ?_, ?_, ?_, ?_, ?_⟩⟩
  · exact ⟨_, answersG_csrrd_view (r := .vstat) (fun _ => rfl) rfl rfl, vstat_fields s.me.vec s.tt⟩
  · exact ⟨_, answersG_csrrd_view (r := .leaseset) (fun _ => rfl) rfl rfl, fun n =>
      ⟨leaseset_isSome s.me.lease n, fun x hx => ⟨leaseset_kind hx, leaseset_ready hx⟩⟩⟩
  · exact fun n => ⟨_, answersG_csrrd_view (fun box => csrAt_growth box n) rfl rfl, growthWord_byte s.me.mx.growth n⟩
  · exact fun n => answersG_csrrd_view (fun box => csrAt_ewt box n) (vecGet_fin s.me.csr.ewt 0 n) rfl
  · intro ht a ha
    have ⟨hcore, _⟩ := ht
    exact trapped_csrrd_of_unnamed (hcore ▸ csrAt_core_boxRegister a ha) ht
  · intro d hd hp
    refine ⟨answersG_csrrd_box hd hp (r := .pgrant) rfl rfl, answersG_csrrd_box hd hp rfl (csrS_sbblen hd),
      fun n => answersG_csrrd_box hd hp (csrAt_sbslew n) (csrS_sbslew hd n), fun p => ?_⟩
    exact ⟨answersG_csrrd_pair hd hp p 1 (pairCsr_pclk s d p), answersG_csrrd_pair hd hp p 2 (pairCsr_prail s d p),
      answersG_csrrd_pair hd hp p 4 (pairCsr_pretb s d p), answersG_csrrd_pair hd hp p 6 (pairCsr_pimb s d p),
      ⟨_, answersG_csrrd_pair hd hp p 0 rfl, pairCsr_pqctl s d p⟩,
      ⟨_, answersG_csrrd_pair hd hp p 3 rfl, pairCsr_prstat s d p⟩⟩
end
end

section
/-! Scalar instructions of the control core (05): the values of Table 5.2, the conditions
and predicate operators (R87, R88), and the index and ordering instructions (R97, R102 to R105). -/

namespace Sys2Proof.Machine

/-! ### What the ALU's operations give (R84, Table 5.2) -/

/-- A shift amount is the low six bits of its operand. -/
theorem toNat_and_63 (y : DWord) : (y &&& 63).toNat = amount y :=
  (BitVec.toNat_and y 63).trans (Nat.and_two_pow_sub_one_eq_mod y.toNat 6)

/-- The high half of a 128-bit word that represents an integer. -/
theorem extractLsb'_high_ofInt (z : Int) : (BitVec.ofInt 128 z).extractLsb' 64 64 = BitVec.ofInt 64 (z / 2 ^ 64) := by
  apply BitVec.eq_of_toNat_eq
  rw [BitVec.extractLsb'_toNat, BitVec.toNat_ofInt, BitVec.toNat_ofInt, Nat.shiftRight_eq_div_pow]
  norm_num only
  omega

theorem mulHigh_eq_extractLsb' (a b : Int) :
    mulHigh a b = (BitVec.ofInt 128 a * BitVec.ofInt 128 b).extractLsb' 64 64 := by
  rw [← BitVec.ofInt_mul, extractLsb'_high_ofInt, mulHigh]

theorem setWidth_eq_ofInt_toNat (x : DWord) : x.setWidth 128 = BitVec.ofInt 128 x.toNat := by
  rw [BitVec.ofInt_natCast, BitVec.ofNat_toNat]

/-- The low half of the 128-bit product is the product modulo 2^64. -/
theorem mul_eq_extractLsb' (x y : DWord) : x * y = (x.setWidth 128 * y.setWidth 128).extractLsb' 0 64 := by
  rw [← BitVec.setWidth_eq_extractLsb' (by decide), BitVec.setWidth_mul _ _ (by decide)]
  simp

/-- Between two values that are equal where their keys are, the choice by `<` is the choice by `≤`. -/
theorem ite_lt_eq_ite_le {κ α : Type} [LinearOrder κ] {m n : κ} {a b : α} (h : m = n → a = b) :
    (if m < n then a else b) = if m ≤ n then a else b := by
  rcases lt_trichotomy m n with hlt | heq | hgt
  · rw [if_pos hlt, if_pos hlt.le]
  · rw [h heq, ite_self, ite_self]
  · rw [if_neg hgt.not_gt, if_neg hgt.not_ge]

/-- The highest bit set stands at the logarithm: above it every bit is clear. -/
theorem leadingZeros_of_ne_zero {x : DWord} (h : x ≠ 0) : leadingZeros x = 63 - x.toNat.log2 := by
  have h0 : x.toNat ≠ 0 := fun e => h (BitVec.eq_of_toNat_eq e)
  have hlog : x.toNat.log2 < 64 := (Nat.log2_lt h0).2 x.isLt
  have hfind : (List.range 64).find? (fun n => x.getLsbD (63 - n)) = some (63 - x.toNat.log2) := by
    rw [List.find?_range_eq_some]
    refine ⟨?_, List.mem_range.2 (by omega), fun j hj => ?_⟩
    · rw [show 63 - (63 - x.toNat.log2) = x.toNat.log2 by omega]
      exact Nat.testBit_log2 h0
    · have hlt : x.toNat < 2 ^ (63 - j) := (Nat.log2_lt h0).1 (by omega)
      simp [BitVec.getLsbD, Nat.testBit_lt_two_pow hlt]
  rw [leadingZeros, hfind, Option.getD_some]

theorem clz64_eq_leadingZeros (x : DWord) : clz64 x = BitVec.ofNat 64 (leadingZeros x) := by
  by_cases h : x = 0
  · subst h; decide
  · rw [clz64, if_neg h, leadingZeros_of_ne_zero h]

theorem foldl_add_toNat {α : Type} (p : α → Bool) (l : List α) (n : Nat) :
    l.foldl (fun n a => n + (p a).toNat) n = n + (l.filter p).length := by
  induction l generalizing n with
  | nil => rfl
  | cons a l ih =>
    rw [List.foldl_cons, ih, List.filter_cons]
    cases p a with
    | false => rfl
    | true => simp only [Bool.toNat_true, if_true, List.length_cons]; omega

theorem popc64_eq_oneBits (x : DWord) : popc64 x = BitVec.ofNat 64 (oneBits x) := by
  rw [popc64, foldl_add_toNat, Nat.zero_add, oneBits]

/-! ### The instructions of Table 5.2 -/

theorem answersG_of_value {i : Instr} {s : State} {cost : Nat} {r : BitVec 5} {v w : DWord}
    (h : exec i s = .next (s.retireG cost r v)) (hv : v = w) : AnswersG i s cost r w :=
  hv ▸ answersG_retireG h

/-- A row of the ALU's table answers the value that the table states. -/
def AluRow (p : (BitVec 5 → BitVec 5 → BitVec 5 → Instr) × Nat × (DWord → DWord → DWord)) : Prop :=
  ∀ (d a b : BitVec 5) (s : State), AnswersG (p.1 d a b) s p.2.1 d (p.2.2 (s.readG a) (s.readG b))

/-- A row is right when the function that the meaning applies gives the value that the table states. -/
theorem aluRow_of_aluOp {c : BitVec 5 → BitVec 5 → BitVec 5 → Instr} {cost : Nat} {g : DWord → DWord → DWord}
    (f : DWord → DWord → DWord) (h : ∀ d a b s, exec (c d a b) s = .next (aluOp cost f d a b s))
    (hv : ∀ x y, f x y = g x y) : AluRow (c, cost, g) :=
  fun d a b s => answersG_of_value (h d a b s) (hv _ _)

theorem aluTable_rows : ∀ p ∈ aluTable, AluRow p :=
  List.forall_iff_forall_mem.1
    ⟨aluRow_of_aluOp (· + ·) (fun _ _ _ _ => rfl) fun _ _ => rfl,
     aluRow_of_aluOp (· - ·) (fun _ _ _ _ => rfl) fun _ _ => rfl,
     aluRow_of_aluOp (· &&& ·) (fun _ _ _ _ => rfl) fun _ _ => rfl,
     aluRow_of_aluOp (· ||| ·) (fun _ _ _ _ => rfl) fun _ _ => rfl,
     aluRow_of_aluOp (· ^^^ ·) (fun _ _ _ _ => rfl) fun _ _ => rfl,
     aluRow_of_aluOp (fun x y => x &&& ~~~y) (fun _ _ _ _ => rfl) fun _ _ => rfl,
     aluRow_of_aluOp (fun x y => x <<< amount y) (fun _ _ _ _ => rfl) fun x y => by
       rw [BitVec.shiftLeft_eq', toNat_and_63],
     aluRow_of_aluOp (fun x y => x >>> amount y) (fun _ _ _ _ => rfl) fun x y => by
       rw [BitVec.ushiftRight_eq', toNat_and_63],
     aluRow_of_aluOp (fun x y => x.sshiftRight (amount y)) (fun _ _ _ _ => rfl) fun x y => by
       rw [BitVec.sshiftRight_eq', toNat_and_63],
     aluRow_of_aluOp (· * ·) (fun _ _ _ _ => rfl) mul_eq_extractLsb',
     aluRow_of_aluOp (fun x y => mulHigh x.toInt y.toInt) (fun _ _ _ _ => rfl) fun x y =>
       mulHigh_eq_extractLsb' x.toInt y.toInt,
     aluRow_of_aluOp (fun x y => mulHigh x.toNat y.toNat) (fun _ _ _ _ => rfl) fun x y => by
       rw [mulHigh_eq_extractLsb', setWidth_eq_ofInt_toNat, setWidth_eq_ofInt_toNat],
     aluRow_of_aluOp (fun x y => if x.slt y then x else y) (fun _ _ _ _ => rfl) fun x y => by
       simpa only [BitVec.slt_eq_decide, decide_eq_true_eq] using ite_lt_eq_ite_le BitVec.toInt_inj.1,
     aluRow_of_aluOp (fun x y => if x.slt y then y else x) (fun _ _ _ _ => rfl) fun x y => by
       simpa only [BitVec.slt_eq_decide, decide_eq_true_eq] using ite_lt_eq_ite_le fun e => (BitVec.toInt_inj.1 e).symm,
     aluRow_of_aluOp (fun x y => if x.ult y then x else y) (fun _ _ _ _ => rfl) fun x y => by
       simpa only [BitVec.ult_eq_decide, decide_eq_true_eq] using ite_lt_eq_ite_le BitVec.eq_of_toNat_eq,
     aluRow_of_aluOp (fun x y => if x.ult y then y else x) (fun _ _ _ _ => rfl) fun x y => by
       simpa only [BitVec.ult_eq_decide, decide_eq_true_eq] using
         ite_lt_eq_ite_le fun e => (BitVec.eq_of_toNat_eq e).symm⟩

theorem answersG_clz (d a : BitVec 5) (s : State) :
    AnswersG (.clz d a) s 1 d (BitVec.ofNat 64 (leadingZeros (s.readG a))) :=
  answersG_of_value rfl (clz64_eq_leadingZeros _)

theorem answersG_popc (d a : BitVec 5) (s : State) :
    AnswersG (.popc d a) s 1 d (BitVec.ofNat 64 (oneBits (s.readG a))) :=
  answersG_of_value rfl (popc64_eq_oneBits _)

/-- The widths that the w field of SEXT and ZEXT names (Table 4.3). -/
theorem extWidth_of_mem {e : BitVec 5} {w : Nat} (h : (e, w) ∈ [((0 : BitVec 5), 8), (1, 16), (2, 32)]) :
    extWidth e = w ∧ w ≤ 64 := by
  simp only [List.mem_cons, List.not_mem_nil, or_false, Prod.mk.injEq] at h
  obtain ⟨rfl, rfl⟩ | ⟨rfl, rfl⟩ | ⟨rfl, rfl⟩ := h <;> decide

theorem answersG_sext {e : BitVec 5} {w : Nat} (h : (e, w) ∈ [((0 : BitVec 5), 8), (1, 16), (2, 32)]) (d a : BitVec 5)
    (s : State) : AnswersG (.sext d a e) s 1 d (((s.readG a).extractLsb' 0 w).signExtend 64) := by
  obtain ⟨rfl, hw⟩ := extWidth_of_mem h
  exact answersG_of_value rfl (by rw [signExt, BitVec.setWidth_eq_extractLsb' hw])

theorem answersG_zext {e : BitVec 5} {w : Nat} (h : (e, w) ∈ [((0 : BitVec 5), 8), (1, 16), (2, 32)]) (d a : BitVec 5)
    (s : State) : AnswersG (.zext d a e) s 1 d (((s.readG a).extractLsb' 0 w).setWidth 64) := by
  obtain ⟨rfl, hw⟩ := extWidth_of_mem h
  exact answersG_of_value rfl (by rw [zeroExt, BitVec.setWidth_eq_extractLsb' hw])

/-! ### Conditions and predicate operators (R87, R88) -/

theorem condTable_holds : ∀ c ∈ condTable, ∀ x y : DWord, condHolds c.1 x y = c.2 x y :=
  List.forall_iff_forall_mem.1
    ⟨fun _ _ => decide_eq_decide.2 BitVec.toInt_inj.symm, fun _ _ => decide_eq_decide.2 BitVec.toInt_inj.not.symm,
     fun _ _ => rfl, fun _ _ => rfl, fun _ _ => rfl, fun _ _ => rfl⟩

theorem plogTable_op : ∀ l ∈ plogTable, ∀ x y : Bool, plogOp l.1 x y = l.2 x y := by
  decide

theorem answersP_of_value {i : Instr} {s : State} {r : BitVec 3} {v w : Bool} (h : exec i s = .next (s.retireP r v))
    (hv : v = w) : AnswersP i s r w :=
  hv ▸ answersP_retireP h

theorem answersP_plog {l : BitVec 2 × (Bool → Bool → Bool)} (hl : l ∈ plogTable) (d a b : BitVec 3) (n : BitVec 1)
    (s : State) : AnswersP (.plog d a b l.1 n) s d (l.2 (s.me.drv.readP a != decide (n = 1)) (s.me.drv.readP b)) :=
  answersP_of_value rfl (plogTable_op l hl _ _)

/-! ### Index registers, NOP and MARK (R97, R102, R131) -/

/-- What an instruction does whose only effect is an x result. -/
theorem onlyX_resultX {i : Instr} {s : State} {r : BitVec 5} {v : Word}
    (h : exec i s = .next (s.retire 1 (fun k => k.resultX (s.tt + 1) r v))) :
    ∃ t, exec i s = .next t ∧ OnlyDriver s t ∧ Issued s.me.drv t.me.drv (s.me.drv.pc + 4) (s.tt + 1) ∧
      t.me.drv.g = s.me.drv.g ∧ t.me.drv.p = s.me.drv.p ∧ t.me.drv.readX r = v ∧
      ∀ q, q ≠ r → t.me.drv.readX q = s.me.drv.readX q := by
  have hdrv : (s.retire 1 (fun k => k.resultX (s.tt + 1) r v)).me.drv =
      ((s.me.issued s.tt 1 (nextPc s.me.drv.pc)).resultX (s.tt + 1) r v).drv := congrArg Core.drv (me_modMe _ _)
  refine ⟨_, h, onlyDriver_modMe s _ rfl, ?_⟩
  rw [hdrv]
  exact ⟨rfl, rfl, rfl, readX_writeX_same _ _ _, fun q hq => readX_writeX_other _ _ _ _ hq⟩

theorem answersGoto_nop (s : State) : AnswersGoto .nop s 1 (s.me.drv.pc + 4) 0 0 :=
  answersGoto_plain rfl

/-- An entry put behind the accesses of a core, if it has any. -/
def Core.behindAccesses (k : Core) (m : Access) : Core := if k.acc.isEmpty then k else { k with acc := k.acc ++ [m] }

theorem behindAccesses_of_nil {k : Core} (h : k.acc = []) (m : Access) : k.behindAccesses m = k := by
  rw [Core.behindAccesses, h, List.isEmpty_nil, if_pos rfl]

theorem behindAccesses_of_ne_nil {k : Core} (h : k.acc ≠ []) (m : Access) :
    k.behindAccesses m = { k with acc := k.acc ++ [m] } :=
  if_neg (by rwa [List.isEmpty_iff])

/-- MARK issues, takes a number and puts its entry behind the accesses of the core. -/
theorem exec_mark (s : State) : ∃ t m, exec .mark s = .next t ∧
    t = { s with cores := t.cores, fresh := s.fresh + 1 } ∧
    (∀ e, e ≠ s.cur → t.core e = s.core e) ∧ m.id = s.fresh ∧ m.kind = .mark ∧ m.performed = false ∧
    t.me = (s.me.issued s.tt 1 (s.me.drv.pc + 4)).behindAccesses m :=
  ⟨_, _, rfl, rfl, fun _ he => core_modCore_other _ _ _ _ he, rfl, rfl, rfl, me_modMe _ _⟩

end Sys2Proof.Machine
end

section
open Sys2Proof Sys2Proof.Machine

/-- Settles O1: the function that each meaning applies gives the value that Table 5.2 states. -/
theorem aluResults : Obligations.AluResults := by
  unfold Obligations.AluResults
  exact ⟨aluTable_rows, fun d a s => ⟨answersG_clz d a s, answersG_popc d a s⟩,
    fun d a s _ _ h => ⟨answersG_sext h d a s, answersG_zext h d a s⟩⟩

/-- Settles O3: the conditions and the operators of the model are those of the tables. -/
theorem predicateResults : Obligations.PredicateResults := by
  unfold Obligations.PredicateResults
  refine ⟨fun c hc p a b s => answersP_of_value rfl (condTable_holds c hc _ _),
    fun c hc p a i s => answersP_of_value rfl (condTable_holds c hc _ _), fun l hl d a b s => ⟨?_, ?_⟩,
    fun d a b p s => answersG_retireG rfl⟩
  · simpa using answersP_plog hl d a b 0 s
  · simpa using answersP_plog hl d a b 1 s

/-- Settles O7: each instruction's effect, and for MARK the two cases of a core with and without accesses under way. -/
theorem indexAndClock : Obligations.IndexAndClock := by
  unfold Obligations.IndexAndClock
  intro s
  refine ⟨fun a e => onlyX_resultX rfl, fun b e => answersG_retireG rfl, fun e => answersG_retireG rfl,
    fun a e => answersG_retireG rfl, answersGoto_nop s, ?_⟩
  obtain ⟨t, m, hexec, hstate, hcore, hid, hkind, hperf, hme⟩ := exec_mark s
  by_cases hacc : s.me.acc = []
  · rw [behindAccesses_of_nil (k := s.me.issued _ _ _) hacc] at hme
    refine ⟨t, hexec, hstate, hcore, congrArg Core.drv hme, hme ▸ rfl, ?_⟩
    rw [if_pos hacc, hme]
    exact hacc
  · rw [behindAccesses_of_ne_nil (k := s.me.issued _ _ _) hacc] at hme
    refine ⟨t, hexec, hstate, hcore, congrArg Core.drv hme, hme ▸ rfl, ?_⟩
    rw [if_neg hacc, hme]
    exact ⟨m, hid, hkind, hperf, rfl⟩
end
